-- ==== Sys2Proof/Word.lean ====
section
/-! DEFINITION. Word types and the plainest bit helpers: what the manual writes `x<hi:lo>` (R10), sign and zero
extension, and little-endian bytes (R237). -/

namespace Sys2Proof

/-- A general register, a fabric address, a control word (R177, R14, R463). -/
abbrev W64 := BitVec 64

/-- An instruction word or a 32-bit entry (R211, R27). -/
abbrev W32 := BitVec 32

/-- One byte of storage. -/
abbrev Byte := BitVec 8

/-- A 6-bit register field (R214). -/
abbrev R6 := BitVec 6

/-- A vector register (R237). -/
abbrev V512 := BitVec 512

end Sys2Proof
end

