-- ==== Sys2Proof/Config.lean ====
section
/-! DEFINITION. What the manual leaves open and this model leaves free: constants without a body. Nothing in Lean can
prove a value of one of them, so a claim that holds, holds whatever the device does there. Each is named in the
assumption log. -/

namespace Sys2Proof.Config

/-- Nanoseconds of device time that pass before the step numbered `tick` (log entry 6). -/
opaque elapsed (tick : Nat) : Nat

/-- Which entry leaves a full translation structure of `size` entries; taken modulo the size (log entry 9). -/
opaque tlbVictim (tick size : Nat) : Nat

/-- The set of a cluster's L2 TLB that an entry goes to, taken modulo 512: the manual gives no index (log entry 9). -/
opaque tlbSet (part ctx va size : Nat) : Nat

/-- A byte that a completer on the host or spare side returns for a bus address (log entry 10). -/
opaque hostByte (tick : Nat) (spare : Bool) (addr : Nat) : Byte

/-- Whether the far side has written a byte of its memory since the device wrote it (log entry 10). -/
opaque hostOver (tick : Nat) (spare : Bool) (addr : Nat) : Bool

/-- Whether the completer of a class 0x8 atomic reports AtomicOp support (R152, log entry 10). -/
opaque atomicOpSupport (tick : Nat) (addr : Nat) : Bool

/-- Whether a host ring read or completion write ends with an error on the link (R373, log entry 10). -/
opaque hostError (tick : Nat) : Bool

/-- Whether a word read carries an uncorrectable error (R72, R115, log entry 7). -/
opaque eccError (tick : Nat) (home : Nat) : Bool

/-- Whether a word read shows a single-bit error, which is corrected (R72, R111, R115, log entry 7). -/
opaque eccFixed (tick : Nat) (home : Nat) : Bool

/-- Whether the reads of the step after step `tick` may meet an error (log entry 78). -/
opaque upset (tick : Nat) : Bool

/-- Word `i` of a backing record whose read met a double-bit error (R115, log entry 7). -/
opaque lostWord (tick i : Nat) : W64

/-- Pc in the record of a fault whose firing has gone: no resume address exists (R307, R356, log entry 106). -/
opaque gonePc (tick : Nat) : W64

/-- The fused hash of the vendor key, the fused minimum Svn and the identity key's public half (R439, R441, log
entry 8). -/
opaque fusedKeyHash : BitVec 512
opaque fusedMinSvn : Nat
opaque identityKey : BitVec 256

/-- SHA-512 and the Ed25519 operations, named and not written out by the manual (log entry 8). -/
opaque sha512 (bytes : List Byte) : BitVec 512
opaque ed25519Verify (key : BitVec 256) (digest sig : BitVec 512) : Bool
opaque ed25519Sign (digest : BitVec 512) : BitVec 512

/-- What the start-up self-test finds unusable: cores, the ways of a cache bank, channels (R440, log entry 7). -/
opaque selfTestBadCore (lid : Nat) : Bool
opaque selfTestBadWays (bank : Nat) : BitVec 16
opaque liveChannels : BitVec 32
opaque channelCap : BitVec 8
/-- Whether the cores, ways and channels that are left make a usable Grove and Clearing set, where there are some of each
(R440, log entry 133). -/
opaque selfTestOk : Bool

/-- Whether the host link has PTM (R434, log entry 7). -/
opaque ptmLink : Bool

/-- Host time that PTM gives when the ROM aligns cw.time (R434, log entry 7). -/
opaque ptmTime (tick : Nat) : W64

/-- How far host time is ahead of cw.time, in ns, at an exchange: taken within the 200 ns of R434 (log entry 7). -/
opaque ptmDrift (tick : Nat) : Int

/-- The bus number of a chunk kind in the image stream of R410, which the manual does not assign (log entry 11). -/
opaque chunkKind (k : Nat) : BitVec 16

/-- Device time of a timer port's first tick, placed at `now` with a period, which the manual does not state (R185, log
entry 14). -/
opaque firstTick (now : W64) (period : Nat) : W64

/-- The draw, in 0.25 W, of a partition's active tiles at an operating point (R419, log entry 7). -/
opaque pointDraw (tick part point : Nat) : Nat

/-- Whether this module is the root port of the spare link (R436, R438, log entry 7). -/
opaque rootPort : Bool

/-- Whether the device takes a thermal migration that it may take (R425, log entry 7). -/
opaque migrateNow (tick : Nat) : Bool

/-- Whether the form is the packaged chip (BXP), whose own draw the cap bounds (R1, R417, log entry 7). -/
opaque packagedChip : Bool

/-- The chip's own draw in the last interval, in 0.25 W, on a module, where the total that an estimate carries is the
module's (R4, R417, log entry 7). -/
opaque chipDraw (tick : Nat) : Nat

end Sys2Proof.Config
end

