-- ==== Sys2Proof/Syntax.lean ====
section
/-! DEFINITION. The instructions and events of the table of operations (opcode_table.json), one constructor a row.
The first 241 constructors are instruction words: `m` is the switch marker (R212), the other arguments are the word's
fields as the row names them (a field cut in two by its format is joined). The last 128 are the events the table lists
beside the words: steps of the device that no word of the running thread names; their arguments are what distinguishes
one such step from another (which core, which cluster, which control word) and what comes from outside the device. -/

namespace Sys2Proof

inductive Instr where
  /-- ADD (R255): Writes gA + gB modulo 2^64 to gD. -/
  | add (m : Bool) (b a d : BitVec 6)
  /-- SUB (R255): Writes gA − gB modulo 2^64 to gD. -/
  | sub (m : Bool) (b a d : BitVec 6)
  /-- AND (R255): Writes the bitwise AND of gA and gB to gD. -/
  | and (m : Bool) (b a d : BitVec 6)
  /-- OR (R255): Writes the bitwise OR of gA and gB to gD. -/
  | or (m : Bool) (b a d : BitVec 6)
  /-- XOR (R255): Writes the bitwise XOR of gA and gB to gD. -/
  | xor (m : Bool) (b a d : BitVec 6)
  /-- ANDN (R255): Writes gA AND NOT gB to gD. -/
  | andn (m : Bool) (b a d : BitVec 6)
  /-- SLL (R255): Shifts gA left by gB<5:0> into gD. -/
  | sll (m : Bool) (b a d : BitVec 6)
  /-- SRL (R255): Shifts gA right logically by gB<5:0> into gD. -/
  | srl (m : Bool) (b a d : BitVec 6)
  /-- SRA (R255): Shifts gA right arithmetically by gB<5:0> into gD. -/
  | sra (m : Bool) (b a d : BitVec 6)
  /-- ROR (R255): Rotates gA right by gB<5:0> into gD. -/
  | ror (m : Bool) (b a d : BitVec 6)
  /-- SLT (R255): Writes 1 to gD when gA < gB signed, else 0. -/
  | slt (m : Bool) (b a d : BitVec 6)
  /-- SLTN (R255): Writes 1 to gD when gA < gB unsigned, else 0. -/
  | sltn (m : Bool) (b a d : BitVec 6)
  /-- SEQ (R255): Writes 1 to gD when gA equals gB, else 0. -/
  | seq (m : Bool) (b a d : BitVec 6)
  /-- MIN (R255): Writes the signed smaller of gA and gB to gD. -/
  | min (m : Bool) (b a d : BitVec 6)
  /-- MAX (R255): Writes the signed larger of gA and gB to gD. -/
  | max (m : Bool) (b a d : BitVec 6)
  /-- MINN (R255): Writes the unsigned smaller of gA and gB to gD. -/
  | minn (m : Bool) (b a d : BitVec 6)
  /-- MAXN (R255): Writes the unsigned larger of gA and gB to gD. -/
  | maxn (m : Bool) (b a d : BitVec 6)
  /-- MUL (R255): Writes the low 64 bits of gA × gB to gD. -/
  | mul (m : Bool) (b a d : BitVec 6)
  /-- MULH (R255): Writes the high 64 bits of the signed 128-bit product to gD. -/
  | mulh (m : Bool) (b a d : BitVec 6)
  /-- MULHN (R255): Writes the high 64 bits of the unsigned 128-bit product to gD. -/
  | mulhn (m : Bool) (b a d : BitVec 6)
  /-- DIV (R256): Long-latency signed division truncating toward zero, saturating on edge cases. -/
  | div (m : Bool) (b a d : BitVec 6)
  /-- DIVN (R256): Long-latency unsigned division; divide by zero gives 2^64 − 1 with saturation. -/
  | divn (m : Bool) (b a d : BitVec 6)
  /-- REM (R256): Long-latency signed remainder with the sign of the dividend. -/
  | rem (m : Bool) (b a d : BitVec 6)
  /-- REMN (R256): Long-latency unsigned remainder. -/
  | remn (m : Bool) (b a d : BitVec 6)
  /-- CLZ (R255): Writes the count of leading zero bits of gA to gD. -/
  | clz (m : Bool) (a d : BitVec 6)
  /-- CTZ (R255): Writes the count of trailing zero bits of gA to gD. -/
  | ctz (m : Bool) (a d : BitVec 6)
  /-- POPC (R255): Writes the count of set bits of gA to gD. -/
  | popc (m : Bool) (a d : BitVec 6)
  /-- ADDS (R255): Writes the signed saturating sum of gA and gB to gD. -/
  | adds (m : Bool) (b a d : BitVec 6)
  /-- SUBS (R255): Writes the signed saturating difference of gA and gB to gD. -/
  | subs (m : Bool) (b a d : BitVec 6)
  /-- SELZ (R255): Writes gA to gD when gB is zero, otherwise leaves gD unwritten. -/
  | selz (m : Bool) (b a d : BitVec 6)
  /-- SELNZ (R255): Writes gA to gD when gB is non-zero, otherwise leaves gD unwritten. -/
  | selnz (m : Bool) (b a d : BitVec 6)
  /-- BSWAP (R255): Writes the bytes of gA in reverse order to gD. -/
  | bswap (m : Bool) (a d : BitVec 6)
  /-- ADDI (R257): Writes gA plus the sign-extended immediate to gD. -/
  | addi (m : Bool) (i : BitVec 12) (a d : BitVec 6)
  /-- ANDI (R257): Writes gA AND the sign-extended immediate to gD. -/
  | andi (m : Bool) (i : BitVec 12) (a d : BitVec 6)
  /-- ORI (R257): Writes gA OR the sign-extended immediate to gD. -/
  | ori (m : Bool) (i : BitVec 12) (a d : BitVec 6)
  /-- XORI (R257): Writes gA XOR the sign-extended immediate to gD. -/
  | xori (m : Bool) (i : BitVec 12) (a d : BitVec 6)
  /-- SLTI (R257): Writes 1 when gA is signed-less than the immediate. -/
  | slti (m : Bool) (i : BitVec 12) (a d : BitVec 6)
  /-- SLTNI (R257): Writes 1 when gA is unsigned-less than the sign-extended immediate. -/
  | sltni (m : Bool) (i : BitVec 12) (a d : BitVec 6)
  /-- SLLI (R258): Shifts gA left by an immediate amount into gD. -/
  | slli (m : Bool) (n a d : BitVec 6)
  /-- SRLI (R258): Shifts gA right logically by an immediate amount into gD. -/
  | srli (m : Bool) (n a d : BitVec 6)
  /-- SRAI (R258): Shifts gA right arithmetically by an immediate amount into gD. -/
  | srai (m : Bool) (n a d : BitVec 6)
  /-- RORI (R258): Rotates gA right by an immediate amount into gD. -/
  | rori (m : Bool) (n a d : BitVec 6)
  /-- BFX (R259): Extracts a bit field of gA, zero-extended, into gD. -/
  | bfx (m : Bool) (p l a d : BitVec 6)
  /-- BFXS (R259): Extracts a bit field of gA, sign-extended, into gD. -/
  | bfxs (m : Bool) (p l a d : BitVec 6)
  /-- BFI (R259): Inserts the low bits of gA into a field of gD, keeping other bits. -/
  | bfi (m : Bool) (p l a d : BitVec 6)
  /-- LUI (R260): Writes a 16-bit value into one lane of gD; lane 0 zero-extends. -/
  | lui (m : Bool) (n : BitVec 2) (v : BitVec 16) (d : BitVec 6)
  /-- ADPC (R260): Writes PC plus the immediate × 4,096 to gD. -/
  | adpc (m : Bool) (i : BitVec 18) (d : BitVec 6)
  /-- GRD (R219): Guards the next 1 to 8 words, executing them when gA.n is 1. -/
  | grd (m : Bool) (n : BitVec 6) (k : BitVec 3) (a : BitVec 6)
  /-- GRDN (R219): Guards the next 1 to 8 words, executing them when gA.n is 0. -/
  | grdn (m : Bool) (n : BitVec 6) (k : BitVec 3) (a : BitVec 6)
  /-- BTST (R261): Writes 1 to gD if any bit of gA in the run is set. -/
  | btst (m : Bool) (n : BitVec 6) (k : BitVec 3) (a d : BitVec 6)
  /-- BSET (R261): Writes gA with the bits of the run set to gD. -/
  | bset (m : Bool) (n : BitVec 6) (k : BitVec 3) (a d : BitVec 6)
  /-- BCLR (R261): Writes gA with the bits of the run cleared to gD. -/
  | bclr (m : Bool) (n : BitVec 6) (k : BitVec 3) (a d : BitVec 6)
  /-- BINV (R261): Writes gA with the bits of the run inverted to gD. -/
  | binv (m : Bool) (n : BitVec 6) (k : BitVec 3) (a d : BitVec 6)
  /-- BEQ (R262): Branches when gA equals gB. -/
  | beq (m : Bool) (o : BitVec 12) (b a : BitVec 6)
  /-- BNE (R262): Branches when gA differs from gB. -/
  | bne (m : Bool) (o : BitVec 12) (b a : BitVec 6)
  /-- BLT (R262): Branches when gA is signed-less than gB. -/
  | blt (m : Bool) (o : BitVec 12) (b a : BitVec 6)
  /-- BGE (R262): Branches when gA is signed-greater-or-equal to gB. -/
  | bge (m : Bool) (o : BitVec 12) (b a : BitVec 6)
  /-- BLTN (R262): Branches when gA is unsigned-less than gB. -/
  | bltn (m : Bool) (o : BitVec 12) (b a : BitVec 6)
  /-- BGEN (R262): Branches when gA is unsigned-greater-or-equal to gB. -/
  | bgen (m : Bool) (o : BitVec 12) (b a : BitVec 6)
  /-- BBS (R263): Branches when bit n of gA is 1. -/
  | bbs (m : Bool) (o : BitVec 12) (n a : BitVec 6)
  /-- BBC (R263): Branches when bit n of gA is 0. -/
  | bbc (m : Bool) (o : BitVec 12) (n a : BitVec 6)
  /-- J (R264): Jumps PC-relative by a 24-bit word offset. -/
  | j (m : Bool) (o : BitVec 24)
  /-- JL (R264): Jumps PC-relative and links PC + 4 into g7. -/
  | jl (m : Bool) (o : BitVec 24)
  /-- JLR (R264): Jumps to gA + imm and links PC + 4 into gD. -/
  | jlr (m : Bool) (i : BitVec 12) (a d : BitVec 6)
  /-- END (R189): Parks, waits for an idle sequencer, then commits the firing and consumes its input ports. -/
  | endF (m : Bool)
  /-- YIELD (R266): Parks and ends the firing without consumption, re-evaluating readiness. -/
  | yield (m : Bool)
  /-- LD_B (R267): Long-latency load of a byte, zero-extended. -/
  | ldB (m : Bool) (i : BitVec 12) (a d : BitVec 6)
  /-- LD_B_S (R267): Long-latency load of a byte, sign-extended. -/
  | ldBS (m : Bool) (i : BitVec 12) (a d : BitVec 6)
  /-- LD_H (R267): Long-latency load of a halfword, zero-extended. -/
  | ldH (m : Bool) (i : BitVec 12) (a d : BitVec 6)
  /-- LD_H_S (R267): Long-latency load of a halfword, sign-extended. -/
  | ldHS (m : Bool) (i : BitVec 12) (a d : BitVec 6)
  /-- LD_W (R267): Long-latency load of a word, zero-extended. -/
  | ldW (m : Bool) (i : BitVec 12) (a d : BitVec 6)
  /-- LD_W_S (R267): Long-latency load of a word, sign-extended. -/
  | ldWS (m : Bool) (i : BitVec 12) (a d : BitVec 6)
  /-- LD_D (R267): Long-latency load of a doubleword. -/
  | ldD (m : Bool) (i : BitVec 12) (a d : BitVec 6)
  /-- LDA (R267): Long-latency acquire load at a scope from exactly gA. -/
  | lda (m : Bool) (z : BitVec 2) (s : BitVec 1) (c : BitVec 3) (a d : BitVec 6)
  /-- ST_B (R267): Stores gB<7:0> at gA + imm. -/
  | stB (m : Bool) (i : BitVec 12) (b a : BitVec 6)
  /-- ST_H (R267): Stores gB<15:0> at gA + imm. -/
  | stH (m : Bool) (i : BitVec 12) (b a : BitVec 6)
  /-- ST_W (R267): Stores gB<31:0> at gA + imm. -/
  | stW (m : Bool) (i : BitVec 12) (b a : BitVec 6)
  /-- ST_D (R267): Stores gB at gA + imm. -/
  | stD (m : Bool) (i : BitVec 12) (b a : BitVec 6)
  /-- STL (R267): Release store at a scope to exactly gA, held until counted in. -/
  | stl (m : Bool) (z : BitVec 2) (c : BitVec 3) (b a : BitVec 6)
  /-- DEAD (R181): Discards plain cached registers of the workspace without writeback. -/
  | dead (m : Bool) (n a : BitVec 6)
  /-- FADD (R278): Adds two floats at the chosen precision, rounded once under RNE. -/
  | fadd (m : Bool) (p : BitVec 1) (b a d : BitVec 6)
  /-- FSUB (R278): Subtracts two floats, rounded once under RNE. -/
  | fsub (m : Bool) (p : BitVec 1) (b a d : BitVec 6)
  /-- FMUL (R278): Multiplies two floats, rounded once under RNE. -/
  | fmul (m : Bool) (p : BitVec 1) (b a d : BitVec 6)
  /-- FDIV (R278): Long-latency float division, rounded once; divide by zero sets DZ. -/
  | fdiv (m : Bool) (p : BitVec 1) (b a d : BitVec 6)
  /-- FSQRT (R278): Long-latency float square root, rounded once. -/
  | fsqrt (m : Bool) (p : BitVec 1) (a d : BitVec 6)
  /-- FMIN (R280): Returns the smaller operand, −0 below +0, ignoring a single NaN. -/
  | fmin (m : Bool) (p : BitVec 1) (b a d : BitVec 6)
  /-- FMAX (R280): Returns the larger operand, ignoring a single NaN. -/
  | fmax (m : Bool) (p : BitVec 1) (b a d : BitVec 6)
  /-- FMAC (R279): Computes gD + gA × gB with one rounding. -/
  | fmac (m : Bool) (p : BitVec 1) (b a d : BitVec 6)
  /-- FMSC (R279): Computes gD − gA × gB with one rounding. -/
  | fmsc (m : Bool) (p : BitVec 1) (b a d : BitVec 6)
  /-- FNEG (R281): Inverts the sign bit of gA, moving other bits unchanged. -/
  | fneg (m : Bool) (p : BitVec 1) (a d : BitVec 6)
  /-- FABS (R281): Clears the sign bit of gA. -/
  | fabs (m : Bool) (p : BitVec 1) (a d : BitVec 6)
  /-- FCPS (R281): Writes gA with the sign bit of gB. -/
  | fcps (m : Bool) (p : BitVec 1) (b a d : BitVec 6)
  /-- FEQ (R282): Writes 1 when gA equals gB as floats. -/
  | feq (m : Bool) (p : BitVec 1) (b a d : BitVec 6)
  /-- FLT (R282): Writes 1 when gA is less than gB; NaN counts invalid. -/
  | flt (m : Bool) (p : BitVec 1) (b a d : BitVec 6)
  /-- FLE (R282): Writes 1 when gA is at most gB; NaN counts invalid. -/
  | fle (m : Bool) (p : BitVec 1) (b a d : BitVec 6)
  /-- FCLASS (R283): Writes a one-hot class mask of gA. -/
  | fclass (m : Bool) (p : BitVec 1) (a d : BitVec 6)
  /-- FRINT (R284): Rounds gA to an integral value under the given mode. -/
  | frint (m : Bool) (p : BitVec 1) (r : BitVec 3) (a d : BitVec 6)
  /-- FEXP2F (R285): Computes 2^f for f in [−0.5, 0.5], correctly rounded. -/
  | fexp2f (m : Bool) (p : BitVec 1) (a d : BitVec 6)
  /-- FSCALE (R286): Computes gA × 2^n with n from gB truncated and clamped. -/
  | fscale (m : Bool) (p : BitVec 1) (b a d : BitVec 6)
  /-- FCVT (R287): Converts between floating and integer formats under a rounding mode. -/
  | fcvt (m : Bool) (s t r : BitVec 3) (a d : BitVec 6)
  /-- VADD (R298): Adds vector elements modulo 2^w. -/
  | vadd (m : Bool) (b a d : BitVec 6) (z : BitVec 2)
  /-- VSUB (R298): Subtracts vector elements modulo 2^w. -/
  | vsub (m : Bool) (b a d : BitVec 6) (z : BitVec 2)
  /-- VMUL (R298): Low w bits of element products. -/
  | vmul (m : Bool) (b a d : BitVec 6) (z : BitVec 2)
  /-- VMULH (R298): High w bits of signed element products. -/
  | vmulh (m : Bool) (b a d : BitVec 6) (z : BitVec 2)
  /-- VAND (R298): Bitwise AND of vectors. -/
  | vand (m : Bool) (b a d : BitVec 6) (z : BitVec 2)
  /-- VOR (R298): Bitwise OR of vectors. -/
  | vor (m : Bool) (b a d : BitVec 6) (z : BitVec 2)
  /-- VXOR (R298): Bitwise XOR of vectors. -/
  | vxor (m : Bool) (b a d : BitVec 6) (z : BitVec 2)
  /-- VSLL (R298): Element shift left. -/
  | vsll (m : Bool) (b a d : BitVec 6) (z : BitVec 2)
  /-- VSRL (R298): Element logical shift right. -/
  | vsrl (m : Bool) (b a d : BitVec 6) (z : BitVec 2)
  /-- VSRA (R298): Element arithmetic shift right. -/
  | vsra (m : Bool) (b a d : BitVec 6) (z : BitVec 2)
  /-- VMIN (R298): Signed element minimum. -/
  | vmin (m : Bool) (b a d : BitVec 6) (z : BitVec 2)
  /-- VMAX (R298): Signed element maximum. -/
  | vmax (m : Bool) (b a d : BitVec 6) (z : BitVec 2)
  /-- VMINN (R298): Unsigned element minimum. -/
  | vminn (m : Bool) (b a d : BitVec 6) (z : BitVec 2)
  /-- VMAXN (R298): Unsigned element maximum. -/
  | vmaxn (m : Bool) (b a d : BitVec 6) (z : BitVec 2)
  /-- VADDS (R298): Signed saturating element addition. -/
  | vadds (m : Bool) (b a d : BitVec 6) (z : BitVec 2)
  /-- VSUBS (R298): Signed saturating element subtraction. -/
  | vsubs (m : Bool) (b a d : BitVec 6) (z : BitVec 2)
  /-- VCEQ (R298): All ones where elements are equal. -/
  | vceq (m : Bool) (b a d : BitVec 6) (z : BitVec 2)
  /-- VCLT (R298): All ones where vA is signed-less than vB. -/
  | vclt (m : Bool) (b a d : BitVec 6) (z : BitVec 2)
  /-- VCLTN (R298): All ones where vA is unsigned-less than vB. -/
  | vcltn (m : Bool) (b a d : BitVec 6) (z : BitVec 2)
  /-- VSEL (R298): Selects vA where vD is non-zero, else vB. -/
  | vsel (m : Bool) (b a d : BitVec 6) (z : BitVec 2)
  /-- VFADD (R299): Element floating addition. -/
  | vfadd (m : Bool) (p : BitVec 1) (b a d : BitVec 6) (h : BitVec 1)
  /-- VFSUB (R299): Element floating subtraction. -/
  | vfsub (m : Bool) (p : BitVec 1) (b a d : BitVec 6) (h : BitVec 1)
  /-- VFMUL (R299): Element floating multiplication. -/
  | vfmul (m : Bool) (p : BitVec 1) (b a d : BitVec 6) (h : BitVec 1)
  /-- VFDIV (R299): Long-latency element floating division. -/
  | vfdiv (m : Bool) (p : BitVec 1) (b a d : BitVec 6) (h : BitVec 1)
  /-- VFSQRT (R299): Long-latency element square root. -/
  | vfsqrt (m : Bool) (p : BitVec 1) (a d : BitVec 6) (h : BitVec 1)
  /-- VFMIN (R299): Element floating minimum. -/
  | vfmin (m : Bool) (p : BitVec 1) (b a d : BitVec 6) (h : BitVec 1)
  /-- VFMAX (R299): Element floating maximum. -/
  | vfmax (m : Bool) (p : BitVec 1) (b a d : BitVec 6) (h : BitVec 1)
  /-- VFMAC (R299): Element fused multiply-add into vD. -/
  | vfmac (m : Bool) (p : BitVec 1) (b a d : BitVec 6) (h : BitVec 1)
  /-- VFNEG (R299): Inverts element sign bits. -/
  | vfneg (m : Bool) (p : BitVec 1) (a d : BitVec 6) (h : BitVec 1)
  /-- VFABS (R299): Clears element sign bits. -/
  | vfabs (m : Bool) (p : BitVec 1) (a d : BitVec 6) (h : BitVec 1)
  /-- VFEQ (R299): All ones where elements compare equal. -/
  | vfeq (m : Bool) (p : BitVec 1) (b a d : BitVec 6) (h : BitVec 1)
  /-- VFLT (R299): All ones where vA is less than vB. -/
  | vflt (m : Bool) (p : BitVec 1) (b a d : BitVec 6) (h : BitVec 1)
  /-- VFLE (R299): All ones where vA is at most vB. -/
  | vfle (m : Bool) (p : BitVec 1) (b a d : BitVec 6) (h : BitVec 1)
  /-- VFRINT (R299): Rounds elements to integral values under RNE. -/
  | vfrint (m : Bool) (p : BitVec 1) (a d : BitVec 6) (h : BitVec 1)
  /-- VFEXP2F (R299): Element 2^f, correctly rounded. -/
  | vfexp2f (m : Bool) (p : BitVec 1) (a d : BitVec 6) (h : BitVec 1)
  /-- VFSCALE (R299): Element scaling by 2^n with n from vB. -/
  | vfscale (m : Bool) (p : BitVec 1) (b a d : BitVec 6) (h : BitVec 1)
  /-- VCVT (R300): Converts vector elements between formats, packing the results low. -/
  | vcvt (m : Bool) (s t r : BitVec 3) (a d : BitVec 6)
  /-- VLD (R301): Long-latency contiguous vector load. -/
  | vld (m : Bool) (z : BitVec 2) (a d : BitVec 6)
  /-- VLDS (R301): Long-latency strided vector load. -/
  | vlds (m : Bool) (z : BitVec 2) (b a d : BitVec 6)
  /-- VGATH (R301): Long-latency gather load by element offsets. -/
  | vgath (m : Bool) (z : BitVec 2) (b a d : BitVec 6)
  /-- VST (R301): Contiguous vector store. -/
  | vst (m : Bool) (z : BitVec 2) (a d : BitVec 6)
  /-- VSTS (R301): Strided vector store. -/
  | vsts (m : Bool) (z : BitVec 2) (b a d : BitVec 6)
  /-- VSCAT (R301): Scatter store by element offsets. -/
  | vscat (m : Bool) (z : BitVec 2) (b a d : BitVec 6)
  /-- ATM_SWAP (R308): Atomic swap, long-latency, at a scope. -/
  | atmSwap (m : Bool) (r : BitVec 2) (w : BitVec 1) (b a d : BitVec 6) (s : BitVec 3)
  /-- ATM_ADD (R308): Atomic add modulo the size. -/
  | atmAdd (m : Bool) (r : BitVec 2) (w : BitVec 1) (b a d : BitVec 6) (s : BitVec 3)
  /-- ATM_ADDZ (R310): Atomic add that increments the notify word when the count reaches zero. -/
  | atmAddz (m : Bool) (r : BitVec 2) (b a d : BitVec 6) (s : BitVec 3)
  /-- ATM_AND (R308): Atomic AND. -/
  | atmAnd (m : Bool) (r : BitVec 2) (w : BitVec 1) (b a d : BitVec 6) (s : BitVec 3)
  /-- ATM_OR (R308): Atomic OR. -/
  | atmOr (m : Bool) (r : BitVec 2) (w : BitVec 1) (b a d : BitVec 6) (s : BitVec 3)
  /-- ATM_XOR (R308): Atomic XOR. -/
  | atmXor (m : Bool) (r : BitVec 2) (w : BitVec 1) (b a d : BitVec 6) (s : BitVec 3)
  /-- ATM_MAX (R308): Atomic signed maximum. -/
  | atmMax (m : Bool) (r : BitVec 2) (w : BitVec 1) (b a d : BitVec 6) (s : BitVec 3)
  /-- ATM_CAS (R308): Atomic compare-and-swap with expected value in gD. -/
  | atmCas (m : Bool) (r : BitVec 2) (w : BitVec 1) (b a d : BitVec 6) (s : BitVec 3)
  /-- VRED_ADD (R303): Sums all elements into element 0. -/
  | vredAdd (m : Bool) (z : BitVec 2) (a d : BitVec 6)
  /-- VRED_MIN (R303): Signed minimum of all elements into element 0. -/
  | vredMin (m : Bool) (z : BitVec 2) (a d : BitVec 6)
  /-- VRED_MAX (R303): Signed maximum of all elements into element 0. -/
  | vredMax (m : Bool) (z : BitVec 2) (a d : BitVec 6)
  /-- VRED_MINN (R303): Unsigned minimum of all elements. -/
  | vredMinn (m : Bool) (z : BitVec 2) (a d : BitVec 6)
  /-- VRED_MAXN (R303): Unsigned maximum of all elements. -/
  | vredMaxn (m : Bool) (z : BitVec 2) (a d : BitVec 6)
  /-- VRED_FADD (R303): Exact floating sum of all elements rounded once. -/
  | vredFadd (m : Bool) (z : BitVec 1) (a d : BitVec 6)
  /-- VPERM (R303): Permutes elements of vA by indices in vB. -/
  | vperm (m : Bool) (z : BitVec 2) (b a d : BitVec 6)
  /-- VREV (R303): Reverses element order. -/
  | vrev (m : Bool) (z : BitVec 2) (a d : BitVec 6)
  /-- VBCAST (R303): Broadcasts element 0 to all elements. -/
  | vbcast (m : Bool) (z : BitVec 2) (a d : BitVec 6)
  /-- VSLIDE (R303): Slides elements by a signed count with zero fill. -/
  | vslide (m : Bool) (z : BitVec 2) (b a d : BitVec 6)
  /-- VHALT (R295): Parks and stops the vector sequencer. -/
  | vhalt (m : Bool)
  /-- VQPOP (R295): Long-latency pop of the oldest qv word into one element of vD. -/
  | vqpop (m : Bool) (j : BitVec 3) (d : BitVec 6)
  /-- VQPUSH (R295): Appends one element of vA to qg, stalling while full. -/
  | vqpush (m : Bool) (j : BitVec 3) (a : BitVec 6)
  /-- VFLGSET (R295): Sets flag n as a tile-scope release. -/
  | vflgset (m : Bool) (n : BitVec 4)
  /-- VFLGCLR (R295): Clears flag n as a tile-scope release. -/
  | vflgclr (m : Bool) (n : BitVec 4)
  /-- VFLGWAIT (R295): Stalls until flag n equals s, as a tile-scope acquire. -/
  | vflgwait (m : Bool) (s : BitVec 1) (n : BitVec 4)
  /-- VLOOP (R295): Decrements element 0 of vD and branches while non-zero. -/
  | vloop (m : Bool) (o : BitVec 12) (d : BitVec 6)
  /-- VJ (R295): Sequencer jump PC-relative. -/
  | vj (m : Bool) (o : BitVec 18)
  /-- DRAIN (R133): Stalls until cw.out is zero, ordering all earlier writes. -/
  | drain (m : Bool)
  /-- BAR (R315): Arrives at a team barrier as a device-scope release and stalls until the episode completes. -/
  | bar (m : Bool) (n : BitVec 2) (x : BitVec 1)
  /-- BAR_G (R316): Barrier arrival that also gathers event counters into a record. -/
  | barG (m : Bool) (n : BitVec 2) (a : BitVec 6) (x : BitVec 1)
  /-- WAITGEN (R317): Stalls until a sync word's generation reaches gB modulo wraparound. -/
  | waitgen (m : Bool) (b a : BitVec 6)
  /-- ARM (R318): Arms k registers from gD, clearing their keep bits. -/
  | arm (m : Bool) (k : BitVec 3) (d : BitVec 6)
  /-- ARM_K (R318): Arms k registers from gD, setting their keep bits. -/
  | armK (m : Bool) (k : BitVec 3) (d : BitVec 6)
  /-- MINTC (R319): Mints a register-naming capability for the running workspace. -/
  | mintc (m : Bool) (b d : BitVec 6)
  /-- SEND (R322): Sends a message, retried on transient refusal, faulting deferred on permanent refusal. -/
  | send (m : Bool) (b a : BitVec 6)
  /-- SENDT (R322): Makes one send attempt and writes the outcome code to gD. -/
  | sendt (m : Bool) (b a d : BitVec 6)
  /-- SEND_REL (R322): SEND whose placement is a device-scope release. -/
  | sendRel (m : Bool) (b a : BitVec 6)
  /-- SENDT_REL (R322): SENDT whose placement is a device-scope release. -/
  | sendtRel (m : Bool) (b a d : BitVec 6)
  /-- AMSG (R311): Queues a user handler on a target core's atomic handler context. -/
  | amsg (m : Bool) (b a k : BitVec 6)
  /-- SPAWN (R323): Parks, then requests a single-shot child actor on a named core or runs it inline. -/
  | spawn (m : Bool) (b a : BitVec 6)
  /-- FORK (R324): Divides a trip count into shares and recruits idle team cores as participants. -/
  | fork (m : Bool) (b a : BitVec 6)
  /-- JOIN (R325): Subtracts finished shares; the last continues at Cont, others end their firing. -/
  | join (m : Bool) (b a : BitVec 6)
  /-- MASKC (R326): Masks route class k on the core. -/
  | maskc (m : Bool) (k : BitVec 6)
  /-- UNMASKC (R326): Unmasks route class k and re-evaluates readiness. -/
  | unmaskc (m : Bool) (k : BitVec 6)
  /-- QPUSH (R292): Appends gA to qv, qm or qe; to qm or qe it posts a marker. -/
  | qpush (m : Bool) (q a : BitVec 6)
  /-- QPOP (R292): Long-latency removal of the oldest word of qg, qms, qes or qd into gD. -/
  | qpop (m : Bool) (q d : BitVec 6)
  /-- VSTART (R294): Starts the vector sequencer at gA, waiting for a running one to halt. -/
  | vstart (m : Bool) (a : BitVec 6)
  /-- FLGSET (R293): Sets flag n as a tile-scope release. -/
  | flgset (m : Bool) (n : BitVec 6)
  /-- FLGCLR (R293): Clears flag n as a tile-scope release. -/
  | flgclr (m : Bool) (n : BitVec 6)
  /-- FLGTST (R293): Long-latency acquire read of flag n into gD. -/
  | flgtst (m : Bool) (n d : BitVec 6)
  /-- WAITGE (R317): Stalls until a 64-bit counter is at least gB, ending as an acquire. -/
  | waitge (m : Bool) (s : BitVec 3) (b a : BitVec 6)
  /-- RPUT (R320): Remote register write through a capability, not waiting; refusals fault deferred. -/
  | rput (m : Bool) (r : BitVec 1) (s : BitVec 3) (b a i : BitVec 6)
  /-- RPUTT (R320): Remote register write that waits and writes its outcome status to gB. -/
  | rputt (m : Bool) (r : BitVec 1) (s : BitVec 3) (b a i : BitVec 6)
  /-- FENCE (R136): Orders chosen pairs of access kinds within a scope. -/
  | fence (m : Bool) (k : BitVec 4) (s : BitVec 3)
  /-- MPUB (R165): Reserves a mailbox slot for the writer, waiting for a free or eligible slot. -/
  | mpub (m : Bool) (a d : BitVec 6)
  /-- MCOMMIT (R166): Makes the reservation the latest version as a device-scope release. -/
  | mcommit (m : Bool) (a : BitVec 6)
  /-- MREAD (R167): Returns and pins the latest version, never waiting. -/
  | mread (m : Bool) (a d : BitVec 6)
  /-- MREADV (R168): Waits for a version at least v or a deadline, then reads as MREAD. -/
  | mreadv (m : Bool) (b a d : BitVec 6)
  /-- MUNPIN (R169): Releases one pin after the issuer's earlier reads of the slot. -/
  | munpin (m : Bool) (b a : BitVec 6)
  /-- MRECLAIM (R170): Retires committed non-latest slots older than version v. -/
  | mreclaim (m : Bool) (b a : BitVec 6)
  /-- COPY (R333): Checks and enters a Dray copy request in the core's copy FIFO. -/
  | copy (m : Bool) (a : BitVec 6)
  /-- COPYT (R333): Tries to enter a copy without stalling and writes a status. -/
  | copyt (m : Bool) (a d : BitVec 6)
  /-- WLEASE (R336): Requests a Wain lease, stalling until granted. -/
  | wlease (m : Bool) (a d : BitVec 6)
  /-- WLEASET (R336): Takes a Wain lease only if immediately grantable. -/
  | wleaset (m : Bool) (a d : BitVec 6)
  /-- WREL (R338): Ends the lease and frees named accumulator tiles. -/
  | wrel (m : Bool) (a : BitVec 6)
  /-- WFMT (R339): Sets the core's Wain format context in command order. -/
  | wfmt (m : Bool) (b a : BitVec 6)
  /-- WMMA (R340): Issues a tile multiply-accumulate command to the leased Wain. -/
  | wmma (m : Bool) (a : BitVec 6)
  /-- WZERO (R344): Zeroes named accumulator tiles. -/
  | wzero (m : Bool) (a : BitVec 6)
  /-- WSTEP (R345): Applies a decay step to an S40 tile with an input tile. -/
  | wstep (m : Bool) (a : BitVec 6)
  /-- WNORM (R346): Renormalises selected rows of an S40 tile. -/
  | wnorm (m : Bool) (a : BitVec 6)
  /-- WRETRY (R348): Resumes a stopped WMMA or WSTEP from its first unstaged step. -/
  | wretry (m : Bool)
  /-- WSTAT (R352): Waits for and returns the core's Wain status, clearing Drop. -/
  | wstat (m : Bool) (d : BitVec 6)
  /-- TEPI (R349): Issues a Tender epilogue that stores an accumulator tile. -/
  | tepi (m : Bool) (a : BitVec 6)
  /-- TSTAT (R352): Waits for and returns the core's Tender status. -/
  | tstat (m : Bool) (d : BitVec 6)
  /-- TRAP (R359): Raises a software trap with cw.xinfo := gA. -/
  | trap (m : Bool) (a : BitVec 6)
  /-- TRET (R360): Returns from the trap handler to cw.tpc, restoring the guard window. -/
  | tret (m : Bool)
  /-- TRET_HELD (R361): Resumes or abandons a held firing named by a handle and writes a status. -/
  | tretHeld (m : Bool) (b a d : BitVec 6)
  /-- CWR (R362): Reads a control word into gD. -/
  | cwr (m : Bool) (n d : BitVec 6)
  /-- CWW (R362): Writes the writable fields of a control word from gA. -/
  | cww (m : Bool) (n a : BitVec 6)
  /-- CMO_CL (R366): Cleans the cache lines of a VA range. -/
  | cmoCl (m : Bool) (b a d : BitVec 6)
  /-- CMO_CLI (R366): Cleans and invalidates the cache lines of a VA range. -/
  | cmoCli (m : Bool) (b a d : BitVec 6)
  /-- CMO_INV (R366): Invalidates the cache lines of a VA range; clean-invalidate in partition mode. -/
  | cmoInv (m : Bool) (b a d : BitVec 6)
  /-- TLBINV_VA (R62): Invalidates translations of a context over a VA range device-wide. -/
  | tlbinvVa (m : Bool) (b a d : BitVec 6)
  /-- TLBINV_CTX (R62): Invalidates every translation of a context. -/
  | tlbinvCtx (m : Bool) (b d : BitVec 6)
  /-- TLBINV_IPA (R62): Invalidates stage-2 translations of a partition over an IPA range. -/
  | tlbinvIpa (m : Bool) (b a d : BitVec 6)
  /-- TLBINV_PART (R62): Invalidates every translation of a partition. -/
  | tlbinvPart (m : Bool) (b d : BitVec 6)
  /-- CMO_CL_OWN (R110): Cleans every line owned by a partition. -/
  | cmoClOwn (m : Bool) (b d : BitVec 6)
  /-- CMO_CLI_OWN (R110): Cleans and invalidates every line owned by a partition. -/
  | cmoCliOwn (m : Bool) (b d : BitVec 6)
  /-- CMO_INV_OWN (R110): Invalidates every line owned by a partition. -/
  | cmoInvOwn (m : Bool) (b d : BitVec 6)
  /-- SEIZE (R367): Seizes lendable Grove clusters for the Clearing partition, all or nothing. -/
  | seize (m : Bool) (a d : BitVec 6)
  /-- CEDE (R368): Returns seized clusters, stalling until ownership has ended. -/
  | cede (m : Bool) (a : BitVec 6)
  /-- YIELDSLOT (R369): Donates the rest of the current common slot. -/
  | yieldslot (m : Bool)
  /-- RFETCH (R370): Copies the next host ring entry of a hardware queue slot. -/
  | rfetch (m : Bool) (b a d : BitVec 6)
  /-- SWAIT (R372): Stalls until a masked signal is pending or a deadline passes. -/
  | swait (m : Bool) (b a d : BitVec 6)
  /-- DISPATCH (R371): Checks and places a launch record, returning a status. -/
  | dispatch (m : Bool) (b a d : BitVec 6)
  /-- SPOST (R370): Posts a completion entry to a slot's completion queue. -/
  | spost (m : Bool) (b a d : BitVec 6)
  /-- NOP (R228): Hint word that does nothing. -/
  | nop (m : Bool) (i : BitVec 12) (a h : BitVec 6)
  /-- PREF_R (R271): Read prefetch hint into the shared cache, dropped on any obstacle. -/
  | prefR (m : Bool) (i : BitVec 12) (a : BitVec 6)
  /-- PREF_W (R271): Prefetch hint that also requires write permission. -/
  | prefW (m : Bool) (i : BitVec 12) (a : BitVec 6)
  /-- PARK (R215): Held long-latency results of a run have returned and are written in issue order. -/
  | park (L : Nat) (seq : Bool)
  /-- ACCESS_PERFORM (R128): A read or write is performed at its home at one instant. -/
  | accessPerform (L n : Nat) (fwd : Bool)
  /-- CACHE_FILL (R99): A fill returns from memory and waiting accesses are served in arrival order. -/
  | cacheFill (line : Nat)
  /-- ACKNOWLEDGEMENT (R131): A write's acknowledgement or refusal returns to its issuing core. -/
  | acknowledgement (L n : Nat)
  /-- HELD_RELEASE_PERFORM (R139): A held release at a slice is performed when its issuer reports counted in. -/
  | heldReleasePerform (L n : Nat)
  /-- TRANSLATION_WALK (R53): A walker completes a two-stage table walk and installs or faults. -/
  | translationWalk (L : Nat) (va : BitVec 64) (wr : Bool)
  /-- TLBINV_COMPLETE (R62): After removals and waits, the TLBINV counter increments as a release. -/
  | tlbinvComplete (L : Nat)
  /-- CMO_COMPLETE (R366): A cache maintenance operation's counter increments after its write-backs. -/
  | cmoComplete (L : Nat)
  /-- CHANNEL_FAILURE (R122): An LPDDR-6 channel fails in service and sets Failed. -/
  | channelFailure (c : Nat)
  /-- HOT_MODE_ENTER (R120): A channel above 85 °C enters hot mode. -/
  | hotModeEnter (c : Nat) (temp : BitVec 8)
  /-- HOT_MODE_EXIT (R120): A channel at or below 82 °C for 1 ms leaves hot mode. -/
  | hotModeExit (c : Nat) (temp : BitVec 8)
  /-- DRAM_WINDOW_END (R118): A 10 µs scheduling window ends and the scale factor F is recomputed. -/
  | dramWindowEnd (avail : List Nat)
  /-- MESSAGE_ARRIVAL (R205): An arriving message is placed or refused under its class binding. -/
  | messageArrival (n : Nat)
  /-- CREDIT (R209): A credit arrives and sets the output port's state word. -/
  | credit (n : Nat)
  /-- REMOTE_WRITE_ARRIVAL (R197): A remote register write resolves at the target workspace. -/
  | remoteWriteArrival (n : Nat)
  /-- FORWARD_END_MARKER (R29): The forward-end marker arrives and held direct traffic is delivered. -/
  | forwardEndMarker (L : Nat)
  /-- TIMER_TICK (R185): A timer port's period elapses and its units become available. -/
  | timerTick (L ws : Nat)
  /-- FIRING_START (R188): An actor leaves the run queue and its firing starts at Entry. -/
  | firingStart (L : Nat)
  /-- RUN_QUEUE_AGING (R384): A ready actor waiting 64 µs moves to the next higher priority. -/
  | runQueueAging (L : Nat)
  /-- PRIORITY0_INTERRUPT (R385): A priority-0 Clearing actor interrupts a lower-priority firing. -/
  | priority0Interrupt (L : Nat)
  /-- WATCHDOG_EXPIRY (R358): A firing exceeds its watchdog limit and is held with the watchdog fault. -/
  | watchdogExpiry (L : Nat)
  /-- ATOMIC_HANDLER (R150): An LM atomic arrives and runs in the atomic handler context. -/
  | atomicHandler (L : Nat)
  /-- AMSG_HANDLER_RUN (R312): A user handler starts in the target's handler context. -/
  | amsgHandlerRun (L : Nat)
  /-- SEND_RETRY (R322): The retry unit reissues a refused message after 256 ns. -/
  | sendRetry (L : Nat)
  /-- SPAWN_ALLOCATE (R193): The target core allocates a workspace for a spawned child or refuses. -/
  | spawnAllocate (L : Nat)
  /-- DRAY_TAKE_COPY (R333): The Dray takes a copy from the FIFO once fewer than 1,024 are in flight. -/
  | drayTakeCopy (L : Nat)
  /-- DRAY_UNIT_PERFORM (R334): One destination unit of a copy is performed. -/
  | drayUnitPerform (L sq u : Nat)
  /-- DRAY_COPY_COMPLETE (R334): A copy's counter increments, its locks free and a notice may post. -/
  | drayCopyComplete (L sq : Nat)
  /-- LEASE_GRANT (R336): A free Wain grants a waiting lease by rank and takes held tiles. -/
  | leaseGrant (cl : Nat)
  /-- LEASE_BOUND_EXPIRY (R337): A lease passes its time bound and ends. -/
  | leaseBoundExpiry (cl : Nat)
  /-- WAIN_COMMAND_ACCEPT (R343): The Wain accepts the core's next command in order. -/
  | wainCommandAccept (cl : Nat)
  /-- WAIN_STAGE_STEP (R65): An operand row or column read of a staging step returns. -/
  | wainStageStep (cl : Nat)
  /-- WAIN_COMMAND_RETIRE (R342): A Wain command completes its accumulator updates and reports. -/
  | wainCommandRetire (cl : Nat)
  /-- AUTO_RENORMALISE (R345): After N WSTEPs the Wain renormalises the tile as an internal command. -/
  | autoRenormalise (cl : Nat)
  /-- MARKER_POST (R330): An engine reaches a queue marker and posts it to qms or qes. -/
  | markerPost (L : Nat) (tender : Bool)
  /-- TEPI_RETIRE (R350): The Tender completes an epilogue's writes and increments its counter. -/
  | tepiRetire (cl : Nat)
  /-- WAIN_RAMP_STEP (R427): A ramping Grove Wain advances its rate after 125 ns. -/
  | wainRampStep (cl : Nat)
  /-- MREADV_DEADLINE (R168): A waiting MREADV's deadline passes and it returns Timeout. -/
  | mreadvDeadline (L : Nat)
  /-- MIRROR_APPLY (R175): A follower applies an arriving mirrored commit or reclaim. -/
  | mirrorApply (n : Nat) (reclaim : Bool) (ver : Nat) (stamp : BitVec 64) (bytes : List (BitVec 8))
  /-- PROXY_ACCESS (R22): The proxy core issues a class 0x8 access on the host or spare link. -/
  | proxyAccess (L n : Nat)
  /-- W2_SRAM_WRITE (R42): Host write through W2 to locked SRAM in an aperture range. -/
  | w2SramWrite (fn off : Nat) (bytes : List (BitVec 8))
  /-- W2_SRAM_READ (R42): Host read through W2 of locked SRAM in an aperture range. -/
  | w2SramRead (fn off len : Nat)
  /-- W2_UNMAPPED_ACCESS (R42): A host access mapping to nothing completes with UR or is dropped and logged. `span` is the
  offset of its first byte and its length. -/
  | w2UnmappedAccess (fn : Nat) (span : Nat × Nat) (wr : Bool)
  /-- W2_PAYLOAD_WRITE (R174): Host write to its reserved mailbox slot payload. -/
  | w2PayloadWrite (fn j off : Nat) (bytes : List (BitVec 8))
  /-- W2_PAYLOAD_READ (R174): Host read of its pinned mailbox slot payload. -/
  | w2PayloadRead (fn j off len : Nat)
  /-- W2_MPUB (R174): Host 8-byte read that performs MPUB and returns the status word. -/
  | w2Mpub (fn j : Nat)
  /-- W2_MCOMMIT (R174): Host write that commits the function's reservation. -/
  | w2Mcommit (fn j : Nat)
  /-- W2_MREAD (R174): Host read that releases its pin, performs MREAD and returns the handle. -/
  | w2Mread (fn j : Nat)
  /-- W2_STAMP_READ (R174): Host read returning the Stamp of its pinned version. -/
  | w2StampRead (fn j : Nat)
  /-- W2_MUNPIN (R174): Host write releasing the function's pin. -/
  | w2Munpin (fn j : Nat)
  /-- W1_NOTIFY (R375): A host notify updates or maps a queue slot or sets a pending bit. -/
  | w1Notify (fn qi : Nat) (tail : BitVec 16)
  /-- W1_QUEUE_CONFIG_WRITE (R433): Host write of RingBase, Cfg or CqBase, refused while enabled. -/
  | w1QueueConfigWrite (fn qi reg : Nat) (v : BitVec 64)
  /-- NOTIFY_BOUND_EXPIRY (R376): A pending bit held longer than Bound posts a notify-bound event. -/
  | notifyBoundExpiry (fn qi : Nat)
  /-- TEAM_COMPLETE (R95): All firings and copies of a team end, its LM is freed and completion signalled. -/
  | teamComplete (t : Nat)
  /-- SLOT_GUARD_START (R393): Guard time before a holder-changing edge begins; no new common firings start. -/
  | slotGuardStart 
  /-- SLOT_EDGE (R394): A slot edge runs the cleaning steps on common cores and changes holder. -/
  | slotEdge 
  /-- DEBT_TIME_END (R393): Time lost to Debt ends and the owner takes the rest of its slot. -/
  | debtTimeEnd 
  /-- DONATION_IDLE (R396): A holder idle 10 µs on common cores donates the rest of its slot. -/
  | donationIdle 
  /-- SEIZE_LEND_WATCHDOG (R398): Grove firings not at a boundary after LendWdg are held with the watchdog fault. -/
  | seizeLendWatchdog (cl : Nat)
  /-- PREEMPT_ESTIMATE (R405): Go with Force 00 chooses a strategy by cost estimate and deadline. -/
  | preemptEstimate (v : BitVec 64)
  /-- PREEMPT_DRAIN (R403): Go with Force 01 stops new firings and lets running ones end. -/
  | preemptDrain (v : BitVec 64)
  /-- PREEMPT_DISCARD (R403): Go with Force 10 abandons the team's firings and completes it with Status 4. -/
  | preemptDiscard (v : BitVec 64)
  /-- PREEMPT_SAVE (R406): Go with Force 11 saves the team's LM and buffers to the save area. -/
  | preemptSave (v : BitVec 64)
  /-- PREEMPT_COMPLETE (R403): The chosen strategy finishes and the status word shows Done and Miss. -/
  | preemptComplete 
  /-- TEAM_RESUME (R407): Resume word Go restores a drained or saved team. -/
  | teamResume (v : BitVec 64)
  /-- VF_RESET (R409): Function level reset of a VF stops and tears down its work. -/
  | vfReset (fn : Nat)
  /-- VF_RESET_TIMEOUT (R409): At 1 ms remaining VF firings are held and abandoned. -/
  | vfResetTimeout (fn : Nat)
  /-- DEVICE_RESET (R440): Device reset zeroises storage and runs the ROM start sequence. -/
  | deviceReset 
  /-- MIGRATION_PRECOPY (R410): Req PRECOPY starts dirty tracking of the VF's writable pages. -/
  | migrationPrecopy (fn : Nat)
  /-- MIGRATION_STOPPING (R410): Req STOPPING stops queue fetch and saves the VF's launches. -/
  | migrationStopping (fn : Nat)
  /-- MIGRATION_ABANDON (R410): Req RUNNING from STOPPED abandons migration and resumes saved teams. -/
  | migrationAbandon (fn : Nat)
  /-- MIGRATION_RESUMING (R410): Req RESUMING makes the destination accept an image. -/
  | migrationResuming (fn : Nat)
  /-- MIGRATION_RESTORE (R410): Req RUNNING from RESUMING restores slots, maps and saved teams. -/
  | migrationRestore (fn : Nat)
  /-- MIGRATION_DATA_READ (R410): A data port read returns the next 8 bytes of the image stream. -/
  | migrationDataRead 
  /-- MIGRATION_DATA_WRITE (R410): A data port write appends 8 bytes of the image stream. -/
  | migrationDataWrite (v : BitVec 64)
  /-- RETENTION_ENTRY (R428): An idle Grove cluster enters retention after RetIdle. -/
  | retentionEntry (cl : Nat)
  /-- RETENTION_EXIT (R412): An arrival starts exit and parity is checked, losing state on mismatch. -/
  | retentionExit (cl : Nat) (parityOk : Bool)
  /-- POWER_ESTIMATE (R417): Every 1 µs power is estimated and limits enforced. The draws are those of tiles (by their core 0),
  of slices and channels (by their targets), and of all else. -/
  | powerEstimate (tiles units : List (Nat × Nat)) (rest : Nat)
  /-- ALLOWANCE_COMPUTE (R419): Every 5 µs partition allowances and ceilings are recomputed. -/
  | allowanceCompute 
  /-- OP_POINT_CHANGE (R415): A tile's operating point change completes. -/
  | opPointChange (tile : Nat)
  /-- SENSOR_SAMPLE (R422): Sensors are read every 10 µs and throttle or critical stop applied. -/
  | sensorSample (temps : List (Nat×BitVec 64))
  /-- THROTTLE_RISE (R423): A cooled throttled tile rises one point after 100 µs. -/
  | throttleRise (tile : Nat)
  /-- HEARTBEAT_SEND (R437): The primary sends a heartbeat every 100 µs. -/
  | heartbeatSend 
  /-- HEARTBEAT_ARRIVAL (R436): A heartbeat arrives and HbAge restarts. -/
  | heartbeatArrival 
  /-- HEARTBEAT_TIMEOUT (R438): HbAge passes 3,000 µs and the follower raises its vector. -/
  | heartbeatTimeout 
  /-- DEMOTE_ARRIVAL (R438): A demote message makes a primary enter follower mode. -/
  | demoteArrival (at_ : BitVec 64)
  /-- MIRRORED_W2_WRITE (R437): A mirrored W2 write is performed on the follower. -/
  | mirroredW2Write (off : Nat) (bytes : List (BitVec 8))
  /-- SPARE_LINK_TRAIN (R436): The spare link trains and Up is set. -/
  | spareLinkTrain 
  /-- SPARE_LINK_LOSS (R443): The spare link is lost. -/
  | spareLinkLoss 
  /-- PROMOTE (R438): Writing Prom promotes the follower to primary. -/
  | promote 
  /-- FOLLOWER_ENTER (R436): Writing Fol enters follower mode when no team is placed. -/
  | followerEnter 
  /-- PTM_EXCHANGE (R434): A PTM exchange every 10 ms slews cw.time toward host time. -/
  | ptmExchange (host : BitVec 64)
  /-- BOOT_COMMAND (R440): Writing the Boot command starts verification of the staged image. -/
  | bootCommand (image : List (BitVec 8))
  /-- ATTESTATION_NONCE_WRITE (R441): Writing the last nonce word produces a signed attestation report. -/
  | attestationNonceWrite (i : Nat) (v : BitVec 64)
  /-- CAPABILITY_KEY_INSTALL (R38): Writing key word +8 installs the key, advances the epoch and unparks ids. -/
  | capabilityKeyInstall (p : Nat) (hi : BitVec 64)
  /-- CORE_RETIRE (R27): Station sets Retired in a logical-to-physical entry. -/
  | coreRetire (L : Nat)
  /-- ERROR_LOG_CLEAR (R21): Writing zero clears Count of the device error log. -/
  | errorLogClear 
  /-- MEMORY_CONFIG_WRITE (R112): The first write sets LiveMask and ChanCap; later writes are refused. -/
  | memoryConfigWrite (v : BitVec 64)
  /-- WAY_MASK_WRITE (R105): A partition way mask changes lazily, refused if it names a slot way. -/
  | wayMaskWrite (sl p : Nat) (v : BitVec 64)
  /-- SLOT_WAY_WRITE (R108): Writing the slot-way word cleans and invalidates added and removed ways. -/
  | slotWayWrite (sl : Nat) (v : BitVec 64)
  /-- CONTEXT_ENTRY_WRITE (R47): A context entry write takes effect at once for En and Part. -/
  | contextEntryWrite (n : Nat) (v : BitVec 64)
  /-- LOCKED_SRAM_RANGE_WRITE (R84): A locked-SRAM range word write, refused on overlap or bad size. -/
  | lockedSramRangeWrite (p i : Nat) (v : BitVec 64)
  /-- WINDOW_WRITE (R86): An LM or buffer window word write, refused on overlap or over limit. -/
  | windowWrite (target off : Nat) (v : BitVec 64)
  /-- LIMIT_WRITE (R90): A partition limit word write applies to later accesses. -/
  | limitWrite (p : Nat) (v : BitVec 64)
  /-- DRAM_SHARE_WRITE (R117): A DRAM share write, refused if shares would exceed 1,024. -/
  | dramShareWrite (p : Nat) (v : BitVec 64)
  /-- OBJECT_ENABLE (R160): Setting En of a mailbox object makes every slot Free. -/
  | objectEnable (n : Nat) (v : BitVec 64)
  /-- OBJECT_DISABLE (R160): Clearing En performs admitted operations, faults waiters and drops pins. -/
  | objectDisable (n : Nat) (v : BitVec 64)
  /-- CLEAR_PINS (R160): ClrPins drops every pin of an object. -/
  | clearPins (n : Nat)
  /-- CANCEL_RESERVATION (R160): Cancel frees the open reservation's slot. -/
  | cancelReservation (n : Nat)
  /-- OBJECT_MAP_WRITE (R173): A function object map entry write, refused for a foreign or disabled object. -/
  | objectMapWrite (fn j : Nat) (v : BitVec 32)
  /-- ROUTE_WORD_WRITE (R202): A route class mode is installed in every router. -/
  | routeWordWrite (k : Nat) (v : BitVec 64)
  /-- INTERVAL_WRITE (R387): A home or common interval word write, refused on overlap or bad range. -/
  | intervalWrite (off : Nat) (v : BitVec 64)
  /-- SLOT_TABLE_ENABLE (R391): Setting En of the slot table after its consistency checks. -/
  | slotTableEnable (v : BitVec 64)
  /-- SLOT_TABLE_DISABLE (R391): Clearing En ends donations and seizures as a slot edge would. -/
  | slotTableDisable (v : BitVec 64)
  /-- DEVICE_STATE_RUN (R416): Power word State Run starts exit of retained clusters. -/
  | deviceStateRun (v : BitVec 64)
  /-- DEVICE_STATE_RETAIN (R416): Power word State Retain lets Grove clusters enter retention. -/
  | deviceStateRetain (v : BitVec 64)
  /-- DEVICE_STATE_GROVEOFF (R416): Power word State GroveOff power-gates the Grove when no team is placed. -/
  | deviceStateGroveoff (v : BitVec 64)
  /-- THERMAL_LIMITS_WRITE (R423): Thermal word write, refused unless Tmig < Tthr < Tcrit ≤ 125. -/
  | thermalLimitsWrite (v : BitVec 64)
  /-- POWER_STATUS_CLEAR (R424): Writes clearing ClrHot or the throttle counts. -/
  | powerStatusClear (v : BitVec 64)
  /-- ACCUMULATOR_READ (R81): Station reads accumulator storage, zero and counted while leased. -/
  | accumulatorRead (cl off : Nat)
  /-- PF_ERROR_LOG_CLEAR (R431): Writing zero clears Count of the PF error log. -/
  | pfErrorLogClear 
  /-- APERTURE_WRITE (R435): An aperture range write, refused outside the partition's SRAM ranges. -/
  | apertureWrite (fn i : Nat) (v : BitVec 64)
  /-- CONTROL_WORD_WRITE (R463): Write to any other control word under its own field checks. -/
  | controlWordWrite (who target off : Nat) (v : BitVec 64)
  /-- SWAIT_DEADLINE (R370): A stalled SWAIT reaches its device-time deadline and returns 0. -/
  | swaitDeadline (L : Nat)
  /-- POWER_LOSS (R442): Loss of supply clears the crash region, the sticky Why bits and the record of an accepted image. -/
  | powerLoss 
  /-- HELD_FIRING_REQUEST (R361): A TRET request arrives at the target core, which resumes or abandons the matching held firing and replies. -/
  | heldFiringRequest (L : Nat)
  /-- FORK_RECRUITMENT (R324): The gather tree recruits an idle team core, allocating a single-shot participant workspace. -/
  | forkRecruitment (L : Nat)
  /-- TENDER_COMMAND_ACCEPT (R343): The Tender takes a TEPI from qe once the earlier Wain commands on its tile have retired and reads the tile. -/
  | tenderCommandAccept (cl : Nat)
  deriving DecidableEq, Repr

end Sys2Proof
end

