-- ==== Sys2Proof/Machine/State.lean ====
section
/-! DEFINITION. The state of the whole device as plain data, the model's stops, and the state after reset (R440). A map
from numbers is a list of (key, value) pairs; a key that is not listed reads as the default its reader names. -/

namespace Sys2Proof.Machine

/-- A finite map from numbers, by rising key. -/
abbrev KMap (α : Type) := List (Nat × α)

/-- The privilege modes, lowest first (R5). -/
inductive Mode where
  | firing | partition | hypervisor | station
  deriving DecidableEq, Repr

/-- The two instruction streams of a core (R192). -/
inductive Stream where
  | ctl | seq
  deriving DecidableEq, Repr

/-- Whose a fault is: the number of the firing on its core, 0 when none runs there, its handle as records give it, and the
mode it runs in (R307, R356). -/
structure Owner where
  id : Nat := 0
  ws : W64 := 0#64
  mode : Mode := .firing
  deriving DecidableEq, Repr

/-- A fault on its way to a firing: its cause (R354), what it sets (R355, R356), and whether it waits for the resumption
of a firing that has taken one before it (R307). -/
structure Flt where
  code : BitVec 8
  faddr : Option W64 := none
  xinfo : Option W64 := none
  late : Bool := false
  seq : Bool := false
  eng : BitVec 2 := 0#2
  word : W32 := 0#32
  detail : W64 := 0#64
  owner : Owner := {}
  later : Bool := false
  deriving DecidableEq, Repr

/-- A guard window: words left, sense, predicate (R219). -/
structure Guard where
  rem : Nat := 0
  sense : Bool := false
  pred : Bool := false
  deriving DecidableEq, Repr

/-- Where a held result goes at its park (R215, R296). -/
inductive Dest where
  | reg (d : R6)
  | pair (d : R6)
  | vec (d : Nat)
  | vecWord (d j : Nat)
  deriving DecidableEq, Repr

/-- How returned words become the destination's value: as they are, zero or sign extended from a width in bits,
packed as elements of a width, or the 0/1 of a flag. -/
inductive Ext where
  | raw
  | zero (bits : Nat)
  | sign (bits : Nat)
  | elems (bits : Nat)
  deriving DecidableEq, Repr

/-- A long-latency result held aside until the park of its run (R215). -/
structure Held where
  dest : Dest
  waits : List Nat := []
  vals : List W64 := []
  ext : Ext := .raw
  fflags : BitVec 5 := 0#5
  events : List Nat := []
  word : W32 := 0#32
  deriving DecidableEq, Repr

/-- What came back for an access: its words, or the fault its result carries. -/
structure Ret where
  vals : List W64 := []
  flt : Option Flt := none
  deriving DecidableEq, Repr

/-- The atomic operations (R308, R325). -/
inductive AtmOp where
  | swap | add | addz | and | or | xor | max | cas | join
  deriving DecidableEq, Repr

/-- The operations of an issued access. -/
inductive AccKind where
  | load
  | store
  | atomic (op : AtmOp)
  | mpub | mcommit | mread | mreadv | munpin | mreclaim
  | qpop (q : Nat)
  | qpush (q : Nat)
  | flgset (n : Nat) (v : Bool)
  | flgtst (n : Nat)
  | vstart
  | fence (scope : BitVec 3) (kinds : BitVec 4)
  | remote
  deriving DecidableEq, Repr

/-- Which storage an address names, and so its home (R126). -/
inductive Home where
  | mem | lm (tile : Nat) | wbuf (cl : Nat) | abuf (cl : Nat) | mbm | sram | ctl | foreign | inCore
  | ws (core : Nat)
  deriving DecidableEq, Repr

/-- How far an access has come. -/
inductive AccSt where
  | issued | marker | performed
  deriving DecidableEq, Repr

/-- An access that a thread of the core has issued and that is not yet performed, or not yet acknowledged (R128 to
R141). `key` is the canonical address of its first byte, `va` the address as issued; `arr` numbers its
arrival at a slice that fetches its line (R99), 0 before; `grp` numbers the vector word it is an element of, 0 for none. -/
structure Acc where
  n : Nat
  party : Stream
  kind : AccKind
  va : W64 := 0#64
  home : Home
  key : Nat := 0
  len : Nat := 0
  data : W64 := 0#64
  cmp : W64 := 0#64
  obj : Nat := 0
  acq : Option (BitVec 3) := none
  rel : Option (BitVec 3) := none
  waits : List Nat := []
  part : BitVec 6 := 0#6
  ctx : BitVec 10 := 0#10
  na : Bool := false
  arr : Nat := 0
  tlb : Option (Nat × Nat) := none
  st : AccSt := .issued
  flt : Option Flt := none
  word : W32 := 0#32
  owner : Owner := {}
  grp : Nat := 0
  deriving DecidableEq, Repr

/-- A register-cache entry (R180): key 64·place + index. -/
structure RcEnt where
  key : Nat
  val : W64
  dirty : Bool
  deriving DecidableEq, Repr

/-- Scoreboard states other than plain (R196). -/
inductive Sb where
  | armed | full
  deriving DecidableEq, Repr

/-- What an actor's workspace is doing (R178, R186, R385). -/
inductive WkSt where
  | idle | queued | running | interrupted | held
  deriving DecidableEq, Repr

/-- The reply a stalled word waits for (R315, R322, R323, R336): `w` is S of a FORK (R324). -/
inductive Wait where
  | none
  | sent (tag : Nat)
  | got (v : W64) (w : W64)
  | refused (f : Flt)
  deriving DecidableEq, Repr

/-- A workspace-directory entry (R75) with the actor it belongs to (R184), the number of its present or last firing, and
what a held firing keeps: resume address, guard window, return addresses of inline children (R193, R355). -/
structure Wk where
  ent : Nat
  wsid : BitVec 16
  gen : BitVec 12
  part : BitVec 6
  idx : Nat
  place : Option Nat := none
  bank : Nat := 0
  allot : Nat := 8
  ctx : BitVec 10 := 0x3FF#10
  mode : Mode := .firing
  entry : W64 := 0#64
  trap : W64 := 0#64
  pri : Nat := 3
  wdg : Nat := 0
  rst : Bool := false
  decl : Option Nat := none
  nin : Nat := 0
  nout : Nat := 0
  team : Nat := 0
  st : WkSt := .idle
  hpc : W64 := 0#64
  hguard : Guard := {}
  hinl : List W64 := []
  /-- The reply that the word at `hpc` has or waits for, and the JOIN that has subtracted its shares (log entry 144). -/
  hwait : Wait := .none
  hjoin : Option W64 := none
  fid : Nat := 0
  nested : Bool := false
  resumed : Bool := false
  started : W64 := 0#64
  lastEnd : W64 := 0#64
  prevDur : W64 := 0#64
  fired : Bool := false
  deriving DecidableEq, Repr

/-- A run-queue entry: priority, directory entry, when its wait began (R383, R384). -/
structure RqEnt where
  pri : Nat
  ent : Nat
  since : W64
  deriving DecidableEq, Repr

/-- A firing interrupted by priority 0 (R385). -/
structure Intr where
  ent : Nat
  pc : W64
  guard : Guard
  tpc : W64
  tstat : W64
  inl : List W64
  held : List Held
  parkDue : Bool
  wait : Wait
  holdDue : Option (Flt × W64)
  joined : Option W64 := none
  deriving DecidableEq, Repr

/-- A range-lock entry (R146): the operation it belongs to and the span it binds. -/
structure RLock where
  op : Nat
  src : Bool
  part : BitVec 6
  ctx : BitVec 10
  cls : Nat
  lo : Nat
  hi : Nat
  deriving DecidableEq, Repr

/-- A translation in a TLB (R55): both stages combined, permissions as R54 reads them. -/
structure TlbE where
  part : BitVec 6
  ctx : BitVec 10
  va : Nat
  size : Nat
  pa : Nat
  r1 : Bool
  w1 : Bool
  x1 : Bool
  fm : Bool
  r2 : Bool
  w2 : Bool
  x2 : Bool
  na : Bool
  d : Bool
  deriving DecidableEq, Repr

/-- A stage-2 block that a walk cache holds: output, log2 of what it maps, R, W, X, NA, D. -/
structure WcLeaf where
  pa : Nat
  bits : Nat
  r : Bool
  w : Bool
  x : Bool
  na : Bool
  d : Bool
  deriving DecidableEq, Repr

/-- A walk-cache entry (R55): the level-1 or level-2 descriptor that an input prefix indexes, as the PA of the table it
names or as a stage-2 block. -/
structure Wce where
  slice : Nat
  s2 : Bool
  part : BitVec 6
  ctx : BitVec 10
  level : Nat
  input : Nat
  table : Nat
  leaf : Option WcLeaf := none
  deriving DecidableEq, Repr

/-- A vector sequencer (R289, R291); `owner` is the directory entry, and `firing` the number, of the firing that
started it (R294, R305), `due` a fault found that waits for the park (R304). -/
structure Seq where
  v : KMap V512 := []
  chans : KMap (List (Nat × V512)) := []
  qv : List W64 := []
  qg : List W64 := []
  flags : BitVec 16 := 0#16
  vpc : W64 := 0#64
  vstat : W64 := 0#64
  held : List Held := []
  parkDue : Bool := false
  startPend : Bool := false
  curWord : W32 := 0#32
  owner : Nat := 0
  firing : Owner := {}
  due : Option Flt := none
  stopDue : Option Bool := none
  deriving DecidableEq, Repr

/-- A core's format context (R339): formats A and B, accumulator, N, tile scales. -/
structure FmtCtx where
  a : BitVec 5 := 0x0A#5
  b : BitVec 5 := 0x0F#5
  acc : BitVec 2 := 1#2
  n : Nat := 64
  tA : W32 := 0#32
  tB : W32 := 0#32
  deriving DecidableEq, Repr

/-- A completion counter: its home and key as the issue check found them, and its address, which a class 0x0 counter is
translated by again when it increments (R64, R331). -/
structure Ctr where
  home : Home
  key : Nat
  va : W64
  deriving DecidableEq, Repr

/-- A command or marker in an engine queue of a core (R330). -/
structure EngCmd where
  fn : Nat
  recs : List W64 := []
  word : W32 := 0#32
  op : Nat := 0
  part : BitVec 6 := 0#6
  ctx : BitVec 10 := 0#10
  mode : Mode := .firing
  waits : List Nat := []
  ctr : Option Ctr := none
  cl : Nat := 0
  fmt : FmtCtx := {}
  owner : Owner := {}
  team : Nat := 0
  deriving DecidableEq, Repr

/-- A page of a copy that has been translated (R64, R334): row, side and page number in one key. -/
structure CopyPage where
  key : Nat
  ent : TlbE
  deriving DecidableEq, Repr

/-- A copy in flight (R333, R334): the units to perform and those performed, how far translation has come, the pages
translated, the fault it met, whether its completion has been signalled, and the aligned units of its source read so far, each at
once (R71, R78, R157). -/
structure Copy where
  cmd : EngCmd
  sq : Nat
  total : Nat
  xl : Nat := 0
  units : List Nat := []
  pages : List CopyPage := []
  cause : Option Flt := none
  told : Bool := false
  lines : KMap (List Byte) := []
  deriving DecidableEq, Repr

/-- An outstanding TLBINV or CMO (R62, R366). -/
structure Maint where
  tlbinv : Bool
  form : Nat
  a : W64
  b : W64
  counter : Option Ctr
  waits : List Nat
  removed : List (Nat × Nat) := []
  copies : List (Nat × Nat × Nat) := []
  part : BitVec 6
  ctx : BitVec 10
  mode : Mode
  word : W32
  started : Bool := false
  owner : Owner := {}
  deriving DecidableEq, Repr

/-- An entry of the atomic handler queue (R150, R311): an LM atomic, by its access number, or a user handler. -/
structure HqEnt where
  src : Nat
  acc : Nat
  amsg : Bool
  pc : W64 := 0#64
  ga : W64 := 0#64
  arg : W64 := 0#64
  part : BitVec 6 := 0#6
  deriving DecidableEq, Repr

/-- One core: its running firing, its workspaces, its control words and its queues. -/
structure Core where
  mode : Mode := .firing
  run : Bool := false
  cur : Nat := 0
  pc : W64 := 0#64
  curWord : W32 := 0#32
  inl : List W64 := []
  guard : Guard := {}
  held : List Held := []
  parkDue : Bool := false
  deferred : List Flt := []
  holdDue : Option (Flt × W64) := none
  joined : Option W64 := none
  wait : Wait := .none
  started : W64 := 0#64
  rf : KMap W64 := []
  rc : List RcEnt := []
  sb : KMap Sb := []
  keep : List Nat := []
  dir : List Wk := []
  nextId : Nat := 1
  nextFid : Nat := 1
  freed : List (BitVec 16 × BitVec 12) := []
  parked : List (BitVec 16 × BitVec 6) := []
  runq : List RqEnt := []
  intr : List Intr := []
  acc : List Acc := []
  accNext : Nat := 0
  ret : KMap Ret := []
  rlk : List RLock := []
  hq : List HqEnt := []
  sendq : List (Nat × Nat) := []
  tlb1 : List TlbE := []
  xctx : W64 := 0x3FF#64
  cause : W64 := 0#64
  faddr : W64 := 0#64
  xinfo : W64 := 0#64
  tpc : W64 := 0#64
  tstat : W64 := 0#64
  rowprog : W64 := 0#64
  fflags : BitVec 5 := 0#5
  evsel : W64 := 0#64
  wdog : W64 := 0x2710_03E8_0028#64
  cmask : W64 := 0#64
  cbase : W64 := 0#64
  dseq : BitVec 32 := 0#32
  tvec : W64 := 0#64
  ev : KMap W32 := []
  cls : KMap W64 := []
  seq : Seq := {}
  qm : List EngCmd := []
  qe : List EngCmd := []
  qms : List W64 := []
  qes : List W64 := []
  qd : List W64 := []
  fifo : List EngCmd := []
  copies : List Copy := []
  maint : List Maint := []
  wdrop : Bool := false
  wlast : Option Nat := none
  halted : Bool := false
  moved : W64 := 0#64
  mayMove : Bool := false
  deriving DecidableEq, Repr

/-- A Wain lease (R336, R337). -/
structure Lease where
  core : Nat
  cmds : Nat
  accepted : Nat := 0
  until_ : W64
  deriving DecidableEq, Repr

/-- A command a Wain has accepted: staged rows so far, and whether it stopped (R65, R66). -/
structure WCmd where
  core : Nat
  cmd : EngCmd
  index : Nat
  step : Nat := 0
  staged : KMap (List Byte) := []
  stopped : Bool := false
  internal : Bool := false
  resumed : Bool := false
  deriving DecidableEq, Repr

/-- A Tender command taken (R350): the codes it will store, by row and element, and their conditions. -/
structure TCmd where
  core : Nat
  cmd : EngCmd
  out : List (Nat × Nat × Nat) := []
  flags : List (BitVec 5 × Bool) := []
  cause : Option Flt := none
  deriving DecidableEq, Repr

/-- A waiting lease request: its core, specification word and the tag its word waits for (R336). -/
structure LeaseReq where
  core : Nat
  spec : W64
  tag : Nat
  deriving DecidableEq, Repr

/-- Retention state (R412). -/
inductive Reten where
  | active | entering | retained | exiting | reinit
  deriving DecidableEq, Repr

/-- The engines of one cluster, and its seizure; `ceding` while the end of one waits for admitted work (R41). -/
structure Cluster where
  lease : Option Lease := none
  waiters : List LeaseReq := []
  lastGrant : Nat := 0
  holder : KMap Nat := []
  acc32 : KMap W32 := []
  fmt : KMap FmtCtx := []
  wain : List WCmd := []
  steps : KMap Nat := []
  tender : List TCmd := []
  tlast : Nat := 0
  tdone : KMap (BitVec 16) := []
  tlb2 : List TlbE := []
  tlbLp : List TlbE := []
  seized : Option Nat := none
  ceding : Bool := false
  seizedAt : W64 := 0#64
  ret : Reten := .active
  ramp : Nat := 4
  rampAt : W64 := 0#64
  macAt : W64 := 0#64
  idleSince : W64 := 0#64
  deriving DecidableEq, Repr

/-- State of a cache way that holds a line (R98). -/
inductive WaySt where
  | pending | clean | dirty
  deriving DecidableEq, Repr

/-- A way that holds a line: state, owner, line address, data. -/
structure Way where
  w : Nat
  st : WaySt
  owner : BitVec 6
  line : Nat
  data : V512
  deriving DecidableEq, Repr

/-- A set of a cache bank: its ways in age order, most recent first (R100). Unlisted ways are Invalid. -/
abbrev SetSt := List Way

/-- State of a mailbox version slot (R161). -/
inductive SlotSt where
  | reserved
  | committed (ver : Nat) (ts : W64) (retiring : Bool)
  deriving DecidableEq, Repr

/-- A party that may hold a pin or reservation: a core or a host function (R162). -/
inductive MParty where
  | core (l : Nat)
  | fn (n : Nat)
  deriving DecidableEq, Repr

/-- A mailbox object's run-time state (R159, R161). Unlisted slots are Free. -/
structure Obj where
  slots : KMap SlotSt := []
  latest : Nat := 0
  valid : Bool := false
  resv : Option (Nat × MParty) := none
  version : Nat := 0
  stamp : W64 := 0#64
  pins : List (MParty × Nat × Nat) := []
  follow : Bool := false
  deriving DecidableEq, Repr

/-- An arrival at a barrier (R315, R316): its core and tag, cw.ev0 to cw.ev7 as read, and where BAR.G would have the record. -/
structure BarArr where
  core : Nat
  tag : Nat
  evs : List W32
  rec_ : Option W64
  ctx : BitVec 10
  mode : Mode := .firing
  deriving DecidableEq, Repr

/-- Where a team is in its life (R195, R403, R407). -/
inductive TeamSt where
  | placed | drained | saved | stopping (strat : Nat) | ended
  deriving DecidableEq, Repr

/-- The ring entry a launch came from (R377): its function, the hardware queue slot that fetched it (256 when none did),
the value of Head it was fetched at, and its words 0, 6 and 7. -/
structure Ring where
  fn : Nat := 0
  slot : Nat := 256
  n : Nat := 0
  w0 : W64 := 0#64
  dep : W64 := 0#64
  done : W64 := 0#64
  deriving DecidableEq, Repr

/-- An entry that a hardware queue slot fetched and that is not finished: not completed, or its completion entry, which
`owed` holds, is still to be posted (R374, R375, R378). -/
structure Entry where
  slot : Nat
  n : Nat
  owed : Option (W64 × W64) := none
  deriving DecidableEq, Repr

/-- A placed team: its actors (core, workspace id), the LM granules of each tile and the granules of each buffer, by
tile or cluster, its barriers, its launch, and whether every actor of it is restartable (R404); of a saved one its buffers, and
the class bindings (core, class, units) that named them (R406). -/
structure Team where
  lead : Nat × BitVec 16
  part : BitVec 6
  fn : Nat
  arr : Bool
  actors : List (Nat × BitVec 16)
  lm : List (Nat × List Nat)
  wb : List (Nat × List Nat)
  ab : List (Nat × List Nat)
  barCnt : Nat
  bars : KMap (List BarArr)
  barEp : KMap Nat := []
  st : TeamSt := .placed
  status : Nat := 0
  ring : Ring := {}
  noDone : Bool := false
  graph : Option (Nat × Nat) := none
  saved : List (Nat × Nat × Nat × Nat × Nat) := []
  shut : List (Nat × Nat × Nat) := []
  area : Nat := 0
  rst : Bool := false
  back : Bool := false
  deriving DecidableEq, Repr

/-- What travels on the message network (08). -/
inductive PktKind where
  | message (cls : Nat) (word : W64) (faddr : W64) (tried : Bool)
  | rput (cap : BitVec 128) (idx : Nat) (val : W64) (rel : Option (BitVec 3)) (tried : Bool)
  | amsg (cls : Nat) (ga pc arg : W64)
  | tret (handle act : W64) (bypass : Bool)
  | spawn (wk : Wk) (g : List W64)
  | fork (wk : Wk) (shares : Nat) (cell : W64)
  | credit (buf port units : Nat)
  | forwardEnd
  deriving DecidableEq, Repr

/-- A packet in flight: sender, destination, sender's partition, the access it acknowledges. -/
structure Pkt where
  n : Nat
  src : Nat
  dst : Nat
  part : BitVec 6
  acc : Nat
  kind : PktKind
  bytes : List Byte := []
  rel : List Nat := []
  deriving DecidableEq, Repr

/-- What the device has sent on the spare link, oldest first (R175, R436 to R438). -/
inductive SpareMsg where
  | commit (n ver : Nat) (stamp : W64) (bytes : List Byte)
  | reclaim (n ver : Nat)
  | w2 (off : Nat) (bytes : List Byte)
  | heartbeat
  | demote (at_ : W64)
  deriving DecidableEq, Repr

/-- Which core and stream issues next when nothing else is due. -/
structure Mover where
  core : Nat
  strm : Stream
  deriving DecidableEq, Repr

/-- A turn still to take: an event with its operands, or a stream to run. -/
inductive Turn where
  | event (i : Instr)
  | run (m : Mover)
  deriving DecidableEq, Repr

/-- The image staged, its verification and the Station store (R439, R440). -/
structure Firm where
  boot : BitVec 3 := 0#3
  rdy : Bool := false
  rej : BitVec 8 := 0#8
  staging : List Host.Cell := []
  store : Option (List Byte) := none
  digest : BitVec 512 := 0#512
  svnVer : W64 := 0#64
  nonce : KMap W64 := []
  report : List Byte := []
  attOk : Bool := false
  deriving DecidableEq, Repr

/-- A Station crash record (R442). -/
structure Crash where
  id : Nat
  cause : W64
  tpc : W64
  tvec : W64
  time : W64
  svn : W64
  faddr : W64
  xinfo : W64
  regs : List W64
  deriving DecidableEq, Repr

/-- A firing that overruns an edge: its core and directory entry, its partition, the time of the edge (R393). -/
structure Overrun where
  core : Nat
  ent : Nat
  part : Nat
  since : Nat
  deriving DecidableEq, Repr

/-- The slot table's run time (R389 to R396). `served` counts the entry's donees passed so far and `donors` lists the
partitions that have donated in this slot; `pend` is the holder and the Don that a donation or the end of lost time passes on
to once running firings have finished; `due` lists the common cores whose edge steps 1 to 3 are still to be done, `zero` the
key ranges still to be zeroised (R394). -/
structure SlotRun where
  prd : Nat := 0
  begun : Bool := false
  periodAt : W64 := 0#64
  cur : Nat := 0
  holder : Option Nat := none
  don : Bool := false
  served : Nat := 0
  donors : List Nat := []
  debtEnd : Option W64 := none
  idleSince : W64 := 0#64
  guardSeen : Bool := false
  pend : Option (Option Nat × Bool) := none
  step : Bool := false
  due : List Nat := []
  zero : List (Nat × Nat) := []
  overruns : List Overrun := []
  deriving DecidableEq, Repr

/-- An increment of a completion counter, as it waits for the counter's home: the core and the command it is made for, and
the operation whose range locks it frees (R148, R331, R411). -/
structure CtrAdd where
  core : Nat
  op : Option Nat
  part : BitVec 6
  ctx : BitVec 10
  mode : Mode
  ctr : Ctr
  owner : Owner
  eng : BitVec 2
  word : W32
  deriving DecidableEq, Repr

/-- Pre-emption request and status (R402, R407); the team it names and that team's partition. -/
structure Preempt where
  req : W64 := 0#64
  area : W64 := 0#64
  status : W64 := 0#64
  resume : W64 := 0#64
  at_ : W64 := 0#64
  team : Nat := 0
  part : Option (BitVec 6) := none
  res : Bool := false
  deriving DecidableEq, Repr

/-- A graph launch (R382): its version and Conc, its nodes, those dispatched and those done, whether it waits for the Conc of
its like, the status that ended its dispatching, and the first that is not 0 of its nodes' own. -/
structure Graph where
  id : Nat
  fn : Nat
  part : BitVec 6
  header : W64
  ver : Nat := 0
  conc : Nat
  nodes : List (List W64)
  sent : List Nat := []
  done : List Nat := []
  waiting : Bool := false
  ring : Ring := {}
  status : Nat := 0
  nodeSt : Nat := 0
  deriving DecidableEq, Repr

/-- One power estimate: its time, the device's draw, the unshared draw, and what it charges to each partition (R417). -/
structure Estim where
  time : Nat
  total : Nat
  unsh : Nat
  parts : KMap Nat
  deriving DecidableEq, Repr

/-- The device. -/
structure State where
  time : W64
  ptmOff : Int
  ptmAt : W64
  slewRem : Nat
  mem : List Host.Cell
  ctl : KMap W64
  cores : KMap Core
  clusters : KMap Cluster
  keys : KMap (BitVec 128)
  keyLow : KMap W64
  sets : KMap SetSt
  retiredWays : KMap (BitVec 16)
  wayCorr : KMap (List Nat)
  lost : List Nat
  tileCorr : KMap Nat
  walkc : List Wce
  memCfg : Bool
  objs : KMap Obj
  teams : KMap Team
  teamNext : Nat
  net : List Pkt
  pktNext : Nat
  slot : SlotRun
  pre : Preempt
  qslots : KMap W64
  w1 : KMap W64
  qfetch : KMap W64
  qrec : KMap (Nat × Nat)
  gcopy : KMap (List W64 × List W64)
  entries : List Entry
  nops : KMap Ring
  pendAt : KMap (Nat × Bool)
  lastServed : Nat
  graphs : List Graph
  graphNext : Nat
  migr : KMap (BitVec 3)
  image : KMap (List Byte)
  streamed : KMap (List Nat)
  stateSent : List Nat
  resets : KMap Nat
  migSel : Nat
  points : KMap Nat
  throt : KMap Nat
  shed : KMap Nat
  ceil : KMap Nat
  draw : KMap Nat
  watts : List Estim
  stopped : List Nat
  lendLast : Nat
  awake : List Nat
  poolAt : Nat
  rises : KMap W64
  hot : BitVec 32
  cool : KMap W64
  factor : Nat
  failed : BitVec 32
  avail : KMap Nat
  pfCount : W32
  pfKind : BitVec 8
  pfFn : Nat
  pfOff : W64
  pfQueue : W64
  why : BitVec 16
  up : Bool
  flw : Bool
  hbAt : W64
  hbTold : Bool
  hbSent : W64
  spareOut : List SpareMsg
  promoted : W64
  firm : Firm
  crashes : List Crash
  crashCount : Nat
  msi : KMap Nat
  signals : BitVec 8
  w2out : List Byte
  w2wait : List (Nat × Nat × Nat)
  hostMem : KMap Byte
  agenda : List Turn
  mover : Mover
  tick : Nat
  upset : Bool
  addq : List CtrAdd
  countq : List (Nat × Nat)
  deriving DecidableEq, Repr

/-- The model's own stops that the spec's rules would call a fault of the whole machine. No step of this model raises
one: every fault of the spec is taken as the spec says, in a next state (safe). -/
inductive Fault where
  /-- Reserved for an access to storage the spec says does not exist, met outside every check of R15; raised by none
  (safe). -/
  | noStorage
  deriving DecidableEq, Repr

/-- Why a step gives no meaning. -/
inductive Refusal where
  /-- An instruction of the table whose meaning is not written; raised by the arms of `exec` that name one (safe: the
  run stops). -/
  | notModelled (mnemonic : String)
  deriving DecidableEq, Repr

/-- A core at reset: a Station core runs in station mode (R5); every field as its map gives it. -/
def Core.reset (lid : Nat) : Core :=
  if 0xF00 ≤ lid then { mode := .station } else {}

/-- The device right after reset, before the ROM's first step (R440): storage zero, cw.time 0, Boot 000. -/
def State.reset : State where
  time := 0#64
  ptmOff := 0
  ptmAt := 0#64
  slewRem := 0
  mem := []
  ctl := []
  cores := []
  clusters := []
  keys := []
  keyLow := []
  sets := []
  retiredWays := []
  wayCorr := []
  lost := []
  tileCorr := []
  walkc := []
  memCfg := false
  objs := []
  teams := []
  teamNext := 1
  net := []
  pktNext := 0
  slot := {}
  pre := {}
  qslots := []
  w1 := []
  qfetch := []
  qrec := []
  gcopy := []
  entries := []
  nops := []
  pendAt := []
  lastServed := 0
  graphs := []
  graphNext := 1
  migr := []
  image := []
  streamed := []
  stateSent := []
  resets := []
  migSel := 0
  points := []
  throt := []
  shed := []
  ceil := []
  draw := []
  watts := []
  stopped := []
  lendLast := 0
  awake := []
  poolAt := 0
  rises := []
  hot := 0#32
  cool := []
  factor := 1024
  failed := 0#32
  avail := []
  pfCount := 0#32
  pfKind := 0#8
  pfFn := 0
  pfOff := 0#64
  pfQueue := 0#64
  why := 0#16
  up := false
  flw := false
  hbAt := 0#64
  hbTold := false
  hbSent := 0#64
  spareOut := []
  promoted := 0#64
  firm := {}
  crashes := []
  crashCount := 0
  msi := []
  signals := 0#8
  w2out := []
  w2wait := []
  hostMem := []
  agenda := []
  mover := { core := 0xF00, strm := .ctl }
  tick := 0
  upset := false
  addq := []
  countq := []

end Sys2Proof.Machine
end

