-- ==== Sys2Proof/Machine/Bits.lean ====
section
/-! DEFINITION. Small helpers: finite maps, bit fields (R8, R10), bytes (little-endian, R237), and the byte memory in
its canonical form. -/

namespace Sys2Proof.Machine

/-! ### Finite maps -/

def kfind {α : Type} : KMap α → Nat → Option α
  | [], _ => none
  | (k, v) :: t, q => if k = q then some v else kfind t q

def kget {α : Type} (m : KMap α) (k : Nat) (d : α) : α := (kfind m k).getD d

def kput {α : Type} : KMap α → Nat → α → KMap α
  | [], k, v => [(k, v)]
  | (k', v') :: t, k, v =>
    if k < k' then (k, v) :: (k', v') :: t
    else if k = k' then (k, v) :: t
    else (k', v') :: kput t k v

def kdel {α : Type} : KMap α → Nat → KMap α
  | [], _ => []
  | (k', v') :: t, k => if k = k' then kdel t k else (k', v') :: kdel t k

def kupd {α : Type} (m : KMap α) (k : Nat) (d : α) (f : α → α) : KMap α := kput m k (f (kget m k d))

/-! ### Bit fields -/

/-- `x<hi:lo>` as a number (R10). -/
def fld {w : Nat} (x : BitVec w) (hi lo : Nat) : Nat := x.toNat >>> lo % 2 ^ (hi - lo + 1)

/-- `x` with bits `hi:lo` replaced by the low bits of `v`. -/
def setFld (x : W64) (hi lo : Nat) (v : Nat) : W64 :=
  let m : W64 := BitVec.ofNat 64 ((2 ^ (hi - lo + 1) - 1) <<< lo)
  (x &&& ~~~m) ||| (BitVec.ofNat 64 ((v % 2 ^ (hi - lo + 1)) <<< lo))

/-- Bit `n` of a word. -/
def bit {w : Nat} (x : BitVec w) (n : Nat) : Bool := x.getLsbD n

def b2n (b : Bool) : Nat := if b then 1 else 0

/-- A word made of fields given as (low bit, value). -/
def mkWord (l : List (Nat × Nat)) : W64 := BitVec.ofNat 64 (l.foldl (fun a p => a ||| (p.2 <<< p.1)) 0)

/-- The low `n` bits of a word, as a word. -/
def lowBits (x : W64) (n : Nat) : W64 := BitVec.ofNat 64 (x.toNat % 2 ^ n)

/-- Sign extension of the low `n` bits to 64. -/
def sextN (x : W64) (n : Nat) : W64 :=
  let v := x.toNat % 2 ^ n
  if n ≠ 0 ∧ 2 ^ (n - 1) ≤ v then BitVec.ofInt 64 ((v : Int) - (2 ^ n : Nat)) else BitVec.ofNat 64 v

/-- A saturating sum. -/
def satAdd (a b cap : Nat) : Nat := min (a + b) cap

/-! ### Bytes -/

/-- The `n` bytes of a number, least significant first. -/
def toBytes : Nat → Nat → List Byte
  | 0, _ => []
  | n + 1, v => BitVec.ofNat 8 v :: toBytes n (v / 256)

/-- The number whose bytes, least significant first, are given. -/
def ofBytes : List Byte → Nat
  | [] => 0
  | b :: t => b.toNat + 256 * ofBytes t

/-- A list cut in pieces of `n`, at most `fuel` of them. -/
def chunksOf {α : Type} (n : Nat) : Nat → List α → List (List α)
  | 0, _ => []
  | fuel + 1, l => if l.isEmpty then [] else l.take n :: chunksOf n fuel (l.drop n)

/-! ### The byte memory -/

/-- A byte of memory; an unlisted byte is 0 (R72, R440; log entry 5). -/
def memRead : List Host.Cell → Nat → Byte
  | [], _ => 0#8
  | (k, v) :: t, a => if k = a then v else memRead t a

/-- Writes one byte and keeps the form: addresses rising, no byte 0 listed. -/
def memWrite : List Host.Cell → Nat → Byte → List Host.Cell
  | [], a, b => if b = 0#8 then [] else [(a, b)]
  | (k, v) :: t, a, b =>
    if a < k then (if b = 0#8 then (k, v) :: t else (a, b) :: (k, v) :: t)
    else if a = k then (if b = 0#8 then t else (a, b) :: t)
    else (k, v) :: memWrite t a b

/-- The canonical form: addresses strictly rising, and no entry equal to what an unlisted address reads as. -/
def Memory.wf : List Host.Cell → Bool
  | [] => true
  | [(_, v)] => v != 0#8
  | (k, v) :: (k', v') :: t => v != 0#8 && decide (k < k') && Memory.wf ((k', v') :: t)

def memReadN (m : List Host.Cell) (a : Nat) : Nat → List Byte
  | 0 => []
  | n + 1 => memRead m a :: memReadN m (a + 1) n

def memWriteN (m : List Host.Cell) (a : Nat) : List Byte → List Host.Cell
  | [] => m
  | b :: t => memWriteN (memWrite m a b) (a + 1) t

/-- Zeroises `n` bytes from `a`: no listed entry stays in the range. -/
def memZero (m : List Host.Cell) (a n : Nat) : List Host.Cell := m.filter fun c => c.1 < a || a + n ≤ c.1

/-! ### Classes of fabric addresses -/

/-- The base key of a class: the class in bits 63:60 (R14). -/
def clsBase (c : Nat) : Nat := c <<< 60

/-- Key of byte `off` of the LM of tile number `tile` (logical id of its core 0, R17). -/
def lmKey (tile off : Nat) : Nat := clsBase 1 + tile <<< 48 + off

/-- Key of a byte of the Station store, which no fabric class names (log entry 1). -/
def stationKey (a : Nat) : Nat := clsBase 0xF + a

/-! ### Cores, clusters and control words of the device -/

def State.core (s : State) (l : Nat) : Core := kget s.cores l (Core.reset l)
def State.setCore (s : State) (l : Nat) (c : Core) : State := { s with cores := kput s.cores l c }
def State.updCore (s : State) (l : Nat) (f : Core → Core) : State := s.setCore l (f (s.core l))
def State.clu (s : State) (n : Nat) : Cluster := kget s.clusters n {}
def State.setClu (s : State) (n : Nat) (c : Cluster) : State := { s with clusters := kput s.clusters n c }
def State.updClu (s : State) (n : Nat) (f : Cluster → Cluster) : State := s.setClu n (f (s.clu n))

/-- The tile of a core, named by the logical id of its core 0 (R17). -/
def tileOf (l : Nat) : Nat := l / 4 * 4

/-- The cluster number of a core (R16). -/
def clusterOf (l : Nat) : Nat := l / 16

/-- One digit of the Hilbert index `t` at step size `s` (R24). -/
def hilbertStep (s t x y : Nat) : Nat × Nat :=
  let rx := t / 2 % 2
  let ry := (t % 2 + rx) % 2
  let (x, y) := if ry = 0 then (if rx = 1 then (s - 1 - y, s - 1 - x) else (y, x)) else (x, y)
  (x + s * rx, y + s * ry)

/-- The digits of an index from step size `s` on, `k` of them. -/
def hilbertFrom (s t x y : Nat) : Nat → Nat × Nat
  | 0 => (x, y)
  | k + 1 => let r := hilbertStep s t x y; hilbertFrom (2 * s) (t / 4) r.1 r.2 k

/-- HilbertD2XY: index `d` to coordinates on a square of side 2^k (R24). -/
def hilbertD2XY (k d : Nat) : Nat × Nat := hilbertFrom 1 d 0 0 k

/-- GroveTileXY: the coordinates of a Grove core's tile; the right half lies 16 columns on (R24, R25). -/
def groveTileXY (id : Nat) : Nat × Nat :=
  let p := id / 4 % 512
  let r := hilbertD2XY 4 (p % 256)
  (16 * (p / 256) + r.1, r.2)

/-- ClearingTileXY: the coordinates of a Clearing core's tile in its 4 x 4 mesh (R24). -/
def clearingTileXY (id : Nat) : Nat × Nat := hilbertD2XY 2 (id / 4 % 16)

/-- The `n` tiles from position `p` on cover the square of side `w` whose lowest corner is the least of each of their
coordinates (R26). -/
def coversSquare (xy : Nat → Nat × Nat) (p n w : Nat) : Bool :=
  let ps := (List.range n).map fun i => xy (p + i)
  let x0 := ps.foldl (fun m r => min m r.1) (xy p).1
  let y0 := ps.foldl (fun m r => min m r.2) (xy p).2
  (List.range w).all fun i => (List.range w).all fun j => ps.contains (x0 + i, y0 + j)

def isGrove (l : Nat) : Bool := l < 0x800
def isClearing (l : Nat) : Bool := 0x800 ≤ l && l < 0x840
def isStation (l : Nat) : Bool := 0xF00 ≤ l && l < 0xF08
def isArrayCore (l : Nat) : Bool := l < 0x840

/-- The key of a control word (R20). -/
def ctlKey (target off : Nat) : Nat := target <<< 24 + off

/-- The value a control word has at reset: the reset column of its field map, 0 where the map shows no other. -/
def ctlReset (target off : Nat) : W64 :=
  if target = 0xFFF then
    if 0x010000 ≤ off ∧ off < 0x010000 + 4 * 0x840 then BitVec.ofNat 64 (0x8000_0000 + (off - 0x010000) / 4)
    else if 0x040000 ≤ off ∧ off < 0x040000 + 8 * 64 then mkWord [(49, 256), (44, 16), (36, 64), (28, 128), (16, 24)]
    else if 0x043000 ≤ off ∧ off < 0x043000 + 8 * 64 then 8#64
    else if off = 0x051000 then mkWord [(32, 1024)]
    else if off = 0x078000 then mkWord [(31, 2), (23, 40)]
    else if off = 0x0E0000 then 760#64
    else if off = 0x0E0008 then mkWord [(32, 200), (24, 115), (16, 105), (8, 95), (0, 5)]
    else if off = 0x0E0010 then mkWord [(52, 1024)]
    else 0#64
  else if 0xC00 ≤ target ∧ target < 0xC40 then
    if off = 0 ∨ off = 0x200 then 0xFFFF#64 else 0#64
  else if 0xE00 ≤ target ∧ target < 0xE84 then
    if off = 0x3000 then 20#64 else 0#64
  else if target < 0x840 then
    if off = 0x800 then 1#64 else 0#64
  else 0#64

/-- A stored control word. -/
def State.cw (s : State) (target off : Nat) : W64 := kget s.ctl (ctlKey target off) (ctlReset target off)
def State.setCw (s : State) (target off : Nat) (v : W64) : State :=
  { s with ctl := kput s.ctl (ctlKey target off) v }

/-- A device-wide control word (target 0xFFF). -/
def State.dcw (s : State) (off : Nat) : W64 := s.cw 0xFFF off
def State.setDcw (s : State) (off : Nat) (v : W64) : State := s.setCw 0xFFF off v

/-- Retired bit of a core's table entry (R27). -/
def State.retired (s : State) (l : Nat) : Bool := bit (s.dcw (0x010000 + 4 * l)) 30

/-- The physical core that runs logical core `l` (R27). -/
def State.phys (s : State) (l : Nat) : Nat := fld (s.dcw (0x010000 + 4 * l)) 11 0

/-- Counts an event in the device error log (R21). -/
def State.errLog (s : State) (kind src addr : Nat) : State :=
  let w := s.dcw 0x052000
  let cnt := satAdd (fld w 63 32) 1 (2 ^ 32 - 1)
  (s.setDcw 0x052000 (mkWord [(32, cnt), (24, kind), (0, src)])).setDcw 0x052008 (BitVec.ofNat 64 addr)

/-- The class 0x7 address of a control word. -/
def ctlAddr (target off : Nat) : Nat := clsBase 7 + target <<< 48 + off

/-- Counts an event in the PF error log; the PF's vector is raised when Count leaves zero (R431). -/
def State.pfLog (s : State) (kind fn off : Nat) : State :=
  { s with
    pfCount := BitVec.ofNat 32 (satAdd s.pfCount.toNat 1 (2 ^ 32 - 1)), pfKind := BitVec.ofNat 8 kind, pfFn := fn,
    pfOff := BitVec.ofNat 64 off,
    msi := if s.pfCount = 0#32 then kupd s.msi 0 0 (· + 1) else s.msi }

/-- Raises SWAIT signal `n` (R372). -/
def State.signal (s : State) (n : Nat) : State := { s with signals := s.signals ||| (1#8 <<< n) }

/-- Sets a replace reason (R443). -/
def State.setWhy (s : State) (n : Nat) : State := { s with why := s.why ||| (1#16 <<< n) }

end Sys2Proof.Machine
end

