-- ==== Sys2Proof/Machine/Cache.lean ====
section
/-! DEFINITION. The shared cache slices and LPDDR-6 memory (chapter 04): homes of class 0x0 data. A line lives in at most
one way; memory behind it is the byte memory at its physical address. -/

namespace Sys2Proof.Machine

/-! ### Mapping (R97, R113) -/

def sliceOf (pa : Nat) : Nat := (pa >>> 6 % 64) ^^^ (pa >>> 24 % 64)
def bankOf (pa : Nat) : Nat := pa >>> 12 % 8
def setOf (pa : Nat) : Nat := pa >>> 15 % 128
def setKey (pa : Nat) : Nat := sliceOf pa * 1024 + bankOf pa * 128 + setOf pa

def popCount (x : Nat) : Nat → Nat
  | 0 => 0
  | n + 1 => popCount x n + (if x.testBit n then 1 else 0)

/-- Bit position of the (i+1)-th lowest set bit of the low `n` bits of `x`, from bit `p`. -/
def nthSetBit (x i p : Nat) : Nat → Nat
  | 0 => p
  | n + 1 => if x.testBit p then (if i = 0 then p else nthSetBit x (i - 1) (p + 1) n) else nthSetBit x i (p + 1) n

def State.liveMask (s : State) : Nat := fld (s.dcw 0x051008) 63 32

/-- Installed memory size (R112). -/
def State.installed (s : State) : Nat := popCount s.liveMask 32 * fld (s.dcw 0x051008) 27 20 * 2 ^ 28

/-- The channel and in-channel address of a physical address (R113). -/
def State.channelOf (s : State) (pa : Nat) : Nat × Nat :=
  let n := popCount s.liveMask 32
  let g := pa / 256
  (nthSetBit s.liveMask (g % n) 0 32, g / n * 256 + pa % 256)

/-- Whether the channel behind an address has failed in service (R122). -/
def State.chanFailed (s : State) (pa : Nat) : Bool := s.failed.getLsbD (s.channelOf pa).1

/-- Counts in the 12-bit counter of a channel's status word that ends at bit `lo`: 12 Uncorr, 0 Corr (R116). -/
def State.countChan (s : State) (pa lo : Nat) : State :=
  let c := (s.channelOf pa).1
  let w := s.cw (0xD00 + c) 0
  s.setCw (0xD00 + c) 0 (setFld w (lo + 11) lo (satAdd (fld w (lo + 11) lo) 1 0xFFF))

/-- Counts one double-bit error or dropped write at a channel (R116, R122). -/
def State.countUncorr (s : State) (pa : Nat) : State := s.countChan pa 12

/-- Bytes reach the channel; a failed channel drops them and counts one write (R114, R122). The read of a read-merge-write meets
no error (DESIGN CHOICE, log entry 147). -/
def State.dramWrite (s : State) (pa : Nat) (bs : List Byte) : State :=
  if s.chanFailed pa then s.countUncorr pa else { s with mem := memWriteN s.mem pa bs }

/-- Whether the read of a word meets a double-bit error, or one that is corrected: only in a step whose reads may meet
errors (R72, R111, R115, log entry 78). -/
def State.eccBad (s : State) (key : Nat) : Bool := s.upset && Config.eccError s.tick key
def State.eccSoft (s : State) (key : Nat) : Bool := s.upset && Config.eccFixed s.tick key

/-- Whether a ring read or a completion write in the host's memory ends with an error on the link (R373, log entry 10). -/
def State.hostBad (s : State) : Bool := s.upset && Config.hostError s.tick

/-- The line of `pa` is read from its channel; true when no data is delivered: the channel has failed (R122), or the read
meets a double-bit error. A corrected error is counted (R115, R116). -/
def State.chanRead (s : State) (pa : Nat) : State × Bool :=
  if s.chanFailed pa then (s, true)
  else if s.eccBad (pa / 64 * 64) then (s.countUncorr pa, true)
  else if s.eccSoft (pa / 64 * 64) then (s.countChan pa 0, false)
  else (s, false)

/-! ### Way masks (R101, R102) -/

def State.slotWays (s : State) (sl : Nat) : Nat := fld (s.cw (0xC00 + sl) 0x208) 15 0

/-- The ways that slot-table entry `i` grants the holder (R392). -/
def State.entryWays (s : State) (i : Nat) : Nat := fld (s.dcw (0x078100 + 32 * i)) 26 11

/-- The ways the holder of the common intervals is granted now: those of the current entry (R392). -/
def State.grantedWays (s : State) : Nat := s.entryWays s.slot.cur

/-- The governing mask of a partition's fills in a slice; the physical context uses the Station mask (R102). -/
def State.govMask (s : State) (sl : Nat) (part : BitVec 6) (ctx : BitVec 10) : Nat :=
  let sw := s.slotWays sl
  if ctx = 0x3FF#10 then fld (s.cw (0xC00 + sl) 0x200) 15 0 &&& (0xFFFF ^^^ sw)
  else
    let m := fld (s.cw (0xC00 + sl) (8 * part.toNat)) 15 0
    if s.slot.holder = some part.toNat then m ||| (s.grantedWays &&& sw) else m

def State.retWays (s : State) (pa : Nat) : Nat := (kget s.retiredWays (sliceOf pa * 8 + bankOf pa) 0#16).toNat

/-- The ways an access may fill (R101, R111). -/
def State.fillMask (s : State) (pa : Nat) (part : BitVec 6) (ctx : BitVec 10) : Nat :=
  s.govMask (sliceOf pa) part ctx &&& (0xFFFF ^^^ s.retWays pa)

/-! ### Lines -/

def State.setAt (s : State) (pa : Nat) : SetSt := kget s.sets (setKey pa) []
def State.putSet (s : State) (pa : Nat) (x : SetSt) : State := { s with sets := kput s.sets (setKey pa) x }

/-- The way that holds the line of `pa`, if one does. -/
def State.wayOf (s : State) (pa : Nat) : Option Way := (s.setAt pa).find? (·.line == pa / 64)

/-- A line counter of a slice's block: 1 Hit, 2 Miss, 3 Wb (R104). -/
def State.countLine (s : State) (sl : Nat) (part : BitVec 6) (k : Nat) : State :=
  let off := 0x010000 + 32 * part.toNat + 8 * k
  let w := s.cw (0xC00 + sl) off
  s.setCw (0xC00 + sl) off (setFld w 47 0 (satAdd (fld w 47 0) 1 (2 ^ 48 - 1)))

/-- The occupancy of a partition in a slice (R104). -/
def State.occ (s : State) (sl : Nat) (part : BitVec 6) : Nat :=
  s.sets.foldl (fun n x => if x.1 / 1024 = sl then n + x.2.countP (·.owner == part) else n) 0

/-- Writes a dirty line back and counts it for its owner (R104, R105). -/
def State.writeBack (s : State) (w : Way) : State :=
  (s.dramWrite (w.line * 64) (toBytes 64 w.data.toNat)).countLine (sliceOf (w.line * 64)) w.owner 3

/-- Removes a line from its set, writing it back when it is dirty (R110). -/
def State.evictLine (s : State) (w : Way) : State :=
  let s := if w.st = .dirty then s.writeBack w else s
  let pa := w.line * 64
  s.putSet pa ((s.setAt pa).filter (·.line != w.line))

/-- The key of a line's word in its bank way, apart from its word in memory. -/
def wayKey (line : Nat) : Nat := clsBase 9 + 64 * line

/-- A line leaves its way for good; a dirty one whose data does not correct is dropped, and its next access will be told
(R111). -/
def State.dropLine (s : State) (line : Nat) : State :=
  match s.wayOf (64 * line) with
  | some y =>
    if y.st = .dirty ∧ s.eccBad (wayKey line) then
      { s.putSet (64 * line) ((s.setAt (64 * line)).filter (·.line != line)) with lost := line :: s.lost.filter (· != line) }
    else s.evictLine y
  | none => s

/-- The lines that the ways satisfying `f` of the sets satisfying `g` hold. -/
def State.linesIn (s : State) (g : Nat → Bool) (f : Nat → Way → Bool) : List Nat :=
  s.sets.flatMap fun x => if g x.1 then (x.2.filter (f x.1)).map (·.line) else []

/-- A bank way is never filled again, and the lines it holds leave it; those on their way there do not hold it yet (R111). -/
def State.retireHeld (s : State) (sl bank w : Nat) : State :=
  let k := sl * 8 + bank
  let s := ({ s with retiredWays := kupd s.retiredWays k 0#16 (· ||| (1#16 <<< w)) }).setWhy 2
  (s.linesIn (fun i => i / 128 == k) fun _ y => y.w == w && y.st != .pending).foldl State.dropLine s

/-- The lowest way of a mask that holds nothing. -/
def freeWay (mask : Nat) (x : SetSt) : Option Nat :=
  (List.range 16).find? fun w => mask.testBit w && !(x.any (·.w == w))

/-- The victim of R100: a free way, else the least recent way of the mask that is not Pending. -/
def victim (mask : Nat) (x : SetSt) : Option (Nat × Option Way) :=
  match freeWay mask x with
  | some w => some (w, none)
  | none =>
    match (x.reverse).find? (fun y => mask.testBit y.w && y.st != .pending) with
    | some y => some (y.w, some y)
    | none => none

/-- Misses in flight of a bank (R99). -/
def State.missesOf (s : State) (pa : Nat) : Nat :=
  s.sets.foldl (fun n x => if x.1 / 128 = setKey pa / 128 then n + x.2.countP (·.st == .pending) else n) 0

/-- The least recent way that a miss of `pa` may take holds a dirty line whose data does not correct: the read for its
write-back retires the way, and another is chosen; `fuel` bounds the ways (R100, R105, R111). -/
def State.soundVictim (s : State) (part : BitVec 6) (ctx : BitVec 10) (pa : Nat) : Nat → State
  | 0 => s
  | fuel + 1 =>
    match victim (s.fillMask pa part ctx) (s.setAt pa) with
    | some (w, some y) =>
      if y.st = .dirty ∧ s.eccBad (wayKey y.line) then
        (s.retireHeld (sliceOf pa) (bankOf pa) w).soundVictim part ctx pa fuel
      else s
    | _ => s

/-- Accepts a miss: chooses the victim and makes its way Pending; none while every way of the mask is Pending, or the bank
tracks 32 misses (R99, R100). -/
def State.acceptMiss (s : State) (part : BitVec 6) (ctx : BitVec 10) (pa : Nat) : Option State :=
  if 32 ≤ s.missesOf pa then none
  else
    let s := if s.upset then s.soundVictim part ctx pa 16 else s
    match victim (s.fillMask pa part ctx) (s.setAt pa) with
    | none => none
    | some (w, v) =>
      let s := (match v with | some y => s.evictLine y | none => s).countLine (sliceOf pa) part 2
      some (s.putSet pa ({ w := w, st := .pending, owner := part, line := pa / 64, data := 0#512 } :: s.setAt pa))

/-- The line's 64 bytes in memory. -/
def State.dramLine (s : State) (pa : Nat) : V512 := BitVec.ofNat 512 (ofBytes (memReadN s.mem (pa / 64 * 64) 64))

/-- A fill returns: the Pending way takes the line, or becomes Invalid when no data is delivered, which the flag says
(R115). -/
def State.fillLine (s : State) (pa : Nat) : State × Bool :=
  match s.wayOf pa with
  | some w =>
    if w.st = .pending then
      match s.chanRead pa with
      | (s, true) => (s.putSet pa ((s.setAt pa).filter (·.line != pa / 64)), true)
      | (s, false) =>
        (s.putSet pa ({ w with st := .clean, data := s.dramLine pa } :: (s.setAt pa).filter (·.line != pa / 64)), false)
    else (s, false)
  | none => (s, false)

/-- A hit makes its way the most recent (R100). -/
def State.touchLine (s : State) (pa : Nat) : State :=
  match s.wayOf pa with
  | some w => s.putSet pa (w :: (s.setAt pa).filter (·.line != w.line))
  | none => s

def State.counted (s : State) (pa : Nat) (part : BitVec 6) (present : Bool) : State :=
  s.countLine (sliceOf pa) part (if present then 1 else 2)

/-- Replaces bytes of a 64-byte line. -/
def spliceLine (d : V512) (off : Nat) (bs : List Byte) : V512 :=
  let l := toBytes 64 d.toNat
  BitVec.ofNat 512 (ofBytes (l.take off ++ bs ++ l.drop (off + bs.length)))

/-- A byte as its home holds it: in the way that holds the line, or in memory (R128). -/
def State.cohByte (s : State) (pa : Nat) : Byte :=
  match s.wayOf pa with
  | some w => if w.st = .pending then memRead s.mem pa else BitVec.ofNat 8 (w.data.toNat >>> (8 * (pa % 64)))
  | none => memRead s.mem pa

def State.cohBytes (s : State) (pa : Nat) : Nat → List Byte
  | 0 => []
  | n + 1 => s.cohByte pa :: s.cohBytes (pa + 1) n

/-- A write leaves its 64 KiB granule dirty for every function that has streamed it (R410). -/
def State.granuleWritten (s : State) (pa : Nat) : State :=
  { s with streamed := s.streamed.map fun x => (x.1, x.2.filter (· != pa / 65536)) }

/-- Bytes within one line, written at their home: into the way that holds it, dirty or through a slot way (R103, R107);
to memory when the line is absent (R106). -/
def State.cohWriteLine (s : State) (pa : Nat) (bs : List Byte) : State :=
  let s := s.granuleWritten pa
  match s.wayOf pa with
  | some w =>
    if w.st = .pending then s.dramWrite pa bs
    else
      let slotWay := (s.slotWays (sliceOf pa)).testBit w.w
      let st := if slotWay then w.st else .dirty
      let s := s.putSet pa ((s.setAt pa).map fun y =>
        if y.line = w.line then { y with st := st, data := spliceLine y.data (pa % 64) bs } else y)
      if slotWay then s.dramWrite pa bs else s
  | none => s.dramWrite pa bs

/-- Lines that a span of `n` bytes touches. -/
def spanLines (pa n : Nat) : Nat := if n = 0 then 0 else (pa + n - 1) / 64 - pa / 64 + 1

/-- Bytes written at their home, one write for each line they touch; `fuel` bounds the lines. -/
def State.cohWriteN (s : State) (pa : Nat) (bs : List Byte) : Nat → State
  | 0 => s
  | fuel + 1 =>
    let k := 64 - pa % 64
    (s.cohWriteLine pa (bs.take k)).cohWriteN (pa + k) (bs.drop k) fuel

def State.cohWrite (s : State) (pa : Nat) (bs : List Byte) : State := s.cohWriteN pa bs (spanLines pa bs.length)

/-- Whether an access fills nothing in its slice (R106). -/
def State.noAlloc (s : State) (part : BitVec 6) (ctx : BitVec 10) (na : Bool) (pa : Nat) : Bool :=
  na || s.fillMask pa part ctx == 0

end Sys2Proof.Machine
end

