-- ==== Sys2Proof/Machine/Slice.lean ====
section
/-! DEFINITION. How a slice serves accesses: in order of arrival, with misses in flight and queued (R99, R100, R106), the
fill, what an access does to the bytes it names (R308), way retirement (R111), and the accesses of hardware, which queue
behind those that came before. -/

namespace Sys2Proof.Machine

/-! ### The accesses of a core -/

/-- Whether an access counts in cw.out until acknowledged (R131, R132, R468). -/
def AccKind.counts : AccKind → Bool
  | .store | .atomic _ | .mpub | .mcommit | .munpin | .mreclaim | .remote => true
  | .qpush _ | .flgset _ _ | .vstart => true
  | .load | .mread | .mreadv | .qpop _ | .flgtst _ | .fence _ _ => false

def AccKind.isFence : AccKind → Bool
  | .fence _ _ => true
  | .load | .store | .atomic _ | .mpub | .mcommit | .mread | .mreadv | .munpin | .mreclaim | .qpop _ | .qpush _ => false
  | .flgset _ _ | .flgtst _ | .vstart | .remote => false

/-- The access of a number. -/
def Core.accNo (c : Core) (n : Nat) : Option Acc := c.acc.find? (·.n == n)

def Core.updAcc (c : Core) (n : Nat) (f : Acc → Acc) : Core :=
  { c with acc := c.acc.map fun a => if a.n = n then f a else a }

/-- Fences with nothing earlier left to order are dropped. -/
def pruneFences (acc : List Acc) : List Acc :=
  acc.filter fun f => !f.kind.isFence || acc.any fun e => decide (e.n < f.n) && e.party == f.party && !e.kind.isFence

/-- Removes an access: a read once performed, a write once acknowledged. -/
def Core.dropAcc (c : Core) (n : Nat) : Core := { c with acc := pruneFences (c.acc.filter (·.n != n)) }

/-- A read has been performed: its words come back to its core. -/
def Core.returned (c : Core) (n : Nat) (r : Ret) : Core := { c.dropAcc n with ret := kput c.ret n r }

/-- A write has been performed, with what its acknowledgement will carry; an atomic's old value comes back too. -/
def Core.performedW (c : Core) (n : Nat) (f : Option Flt) : Core :=
  c.updAcc n fun a => { a with st := .performed, flt := f }

/-! ### The effect of an access on the bytes it names -/

def causeAccess : BitVec 8 := 0x08#8
def causeData : BitVec 8 := 0x0B#8

/-- A data-error fault of an access (R72, R115). -/
def Acc.dataErr (a : Acc) : Flt := { code := causeData, faddr := some a.va, word := a.word }

/-- A load has been performed: `v` comes back. -/
def State.retVal (s : State) (l : Nat) (a : Acc) (vals : List W64) : State :=
  s.updCore l fun c => c.returned a.n { vals := vals }

/-- An access that reads is answered by a fault (R115, R218). -/
def State.retFlt (s : State) (l : Nat) (a : Acc) (f : Flt) : State :=
  if a.kind.counts then s.updCore l fun c => c.performedW a.n (some f)
  else s.updCore l fun c => c.returned a.n { flt := some f }

/-- A write or atomic has been performed; an atomic keeps the words it will return. -/
def State.doneW (s : State) (l : Nat) (a : Acc) (v w : W64) : State :=
  s.updCore l fun c => c.updAcc a.n fun x => { x with st := .performed, data := v, cmp := w }

/-- The new value of an `n`-byte atomic; none writes nothing. -/
def atmNew (op : AtmOp) (n : Nat) (old b cmp : Nat) : Option Nat :=
  let m := 2 ^ (8 * n)
  let sx (x : Nat) : Int := if m / 2 ≤ x then (x : Int) - m else x
  match op with
  | .swap => some (b % m)
  | .add => some ((old + b) % m)
  | .addz => some ((old + b) % m)
  | .and => some (Nat.land old (b % m))
  | .or => some (Nat.lor old (b % m))
  | .xor => some (Nat.xor old (b % m))
  | .max => some (if sx old < sx (b % m) then b % m else old)
  | .cas => if old = cmp % m then some (b % m) else none
  | .join => some ((old + m - b % m) % m)

/-- An access is performed on bytes that `rd` reads and `wr` writes (R128, R149, R308, R325). -/
def State.doOn (s : State) (rd : State → Nat → Nat → Nat) (wr : State → Nat → List Byte → State) (l : Nat) (a : Acc) :
    State :=
  match a.kind with
  | .load => s.retVal l a [BitVec.ofNat 64 (rd s a.key a.len)]
  | .store => (wr s a.key (toBytes a.len a.data.toNat)).doneW l a 0#64 0#64
  | .atomic op =>
    let old := rd s a.key a.len
    if op = .join ∧ (a.data = 0#64 ∨ old < a.data.toNat) then
      s.retFlt l a { code := causeAccess, faddr := some a.va, word := a.word }
    else
      match atmNew op a.len old a.data.toNat a.cmp.toNat with
      | none => s.doneW l a (BitVec.ofNat 64 old) 0#64
      | some v =>
        let s := wr s a.key (toBytes a.len v)
        let s := if op = .addz ∧ v = 0 then wr s (a.key + 8) (toBytes 8 (rd s (a.key + 8) 8 + 1)) else s
        s.doneW l a (BitVec.ofNat 64 old) 0#64
  | _ => s

/-- An access served by its slice. -/
def State.memDo (s : State) (l : Nat) (a : Acc) : State :=
  s.doOn (fun s k n => ofBytes (s.cohBytes k n)) State.cohWrite l a

/-! ### Arrival, misses and fills (R99, R100, R115) -/

/-- An access that waits at its slice takes a number in order of arrival. -/
def State.arrive (s : State) (l : Nat) (a : Acc) : State :=
  if a.arr = 0 then
    { s with pktNext := s.pktNext + 1 }.updCore l fun c => c.updAcc a.n fun x => { x with arr := s.pktNext + 1 }
  else s

def insArr (x : Nat × Acc) : List (Nat × Acc) → List (Nat × Acc)
  | [] => [x]
  | y :: t => if x.2.arr ≤ y.2.arr then x :: y :: t else y :: insArr x t

/-- The accesses waiting at slices that satisfy `f`, in order of arrival. -/
def State.waiting (s : State) (f : Acc → Bool) : List (Nat × Acc) :=
  (s.cores.flatMap fun c =>
    (c.2.acc.filter fun a => a.home == .mem && a.arr != 0 && a.st != .performed && f a).map fun a => (c.1, a)).foldr insArr []

/-- Those that wait for a line. -/
def State.waitersOf (s : State) (line : Nat) : List (Nat × Acc) := s.waiting fun a => a.key / 64 == line

/-- The line an access must have lost in a retired way: the loss is told once (R111). -/
def State.takeLost (s : State) (pa : Nat) : Option State :=
  if s.lost.contains (pa / 64) then some { s with lost := s.lost.filter (· != pa / 64) } else none

/-- An access at its slice, when the ways' arrays show no error: served when its line is present or it bypasses; else it
waits for the line's fill, for its own, or for a miss to be accepted. Meeting a Pending line counts as a Miss (R99, R100,
R103, R104, R106, log entry 98). The read of a partial store's read-merge-write meets no error (log entry 147). -/
def State.memAt (s : State) (l : Nat) (a : Acc) : State :=
  match s.takeLost a.key with
  | some s => (s.counted a.key a.part false).retFlt l a a.dataErr
  | none =>
    match s.wayOf a.key with
    | some w =>
      if w.st = .pending then (s.counted a.key a.part false).arrive l a
      else
        let s := s.counted a.key a.part true
        (if s.noAlloc a.part a.ctx a.na a.key then s else s.touchLine a.key).memDo l a
    | none =>
      if s.noAlloc a.part a.ctx a.na a.key then
        match (if a.kind = .store then (s, false) else s.chanRead a.key) with
        | (s, e) =>
          let s := s.counted a.key a.part false
          if e then s.retFlt l a a.dataErr else s.memDo l a
      else
        match s.acceptMiss a.part a.ctx a.key with
        | some s => s.arrive l a
        | none => s.arrive l a

/-- Misses that queue at the bank of `pa` come again, in order of arrival. -/
def State.admitQueued (s : State) (pa : Nat) : State :=
  (s.waiting fun a => setKey a.key / 128 == setKey pa / 128 && (s.wayOf a.key).isNone).foldl
    (fun s x => s.memAt x.1 x.2) s

/-- An access whose line gave no data: a store to a failed channel is dropped and counted (R122), any other access takes the
data-error fault, a store too (R115, log entry 99). -/
def State.noData (s : State) (l : Nat) (a : Acc) : State :=
  if a.kind = .store ∧ s.chanFailed a.key then s.memDo l a else s.retFlt l a a.dataErr

/-- The fill of a line completes: those that wait for it are served in order of arrival, or learn that no data came; then
the bank's queue moves up. The flag says that no data came. -/
def State.fill (s : State) (line : Nat) : State × Bool :=
  match s.fillLine (64 * line) with
  | (t, err) =>
    (((s.waitersOf line).foldl
      (fun t x => if err then t.noData x.1 x.2 else t.memDo x.1 x.2) t).admitQueued (64 * line), err)

/-- CACHE_FILL of a Pending line (R99, R115). -/
def State.cacheFill (s : State) (line : Nat) : State :=
  match s.wayOf (64 * line) with
  | some w => if w.st = .pending then (s.fill line).1 else s
  | none => s

/-! ### Bank-way errors (R111) -/

/-- Retires a bank way: a fill on its way there completes first (R109), and its line leaves with the others (R111). -/
def State.retireWay (s : State) (sl bank w : Nat) : State :=
  let s := s.retireHeld sl bank w
  (s.linesIn (fun i => i / 128 == sl * 8 + bank) fun _ y => y.w == w).foldl (fun s line => (s.cacheFill line).dropLine line) s

/-- A line leaves its way for good: a fill on its way completes first (R109), and a dirty line whose data does not correct
retires its way (R111). -/
def State.expelLine (s : State) (line : Nat) : State :=
  let s := s.cacheFill line
  match s.wayOf (64 * line) with
  | some y =>
    if y.st = .dirty ∧ s.eccBad (wayKey line) then s.retireWay (sliceOf (64 * line)) (bankOf (64 * line)) y.w else s.evictLine y
  | none => s

/-- Lines leave their ways for good, in the order given. -/
def State.expelLines (s : State) (ls : List Nat) : State := ls.foldl State.expelLine s

/-- A read of the way that holds a line meets what its arrays show: a double-bit error, or the eighth corrected error
within 1 s, retires the bank way before the access is served (R111, log entry 100). -/
def State.checkWay (s : State) (pa : Nat) : State :=
  match s.wayOf pa with
  | none => s
  | some w =>
    let k := (sliceOf pa * 8 + bankOf pa) * 16 + w.w
    if w.st = .pending then s
    else if s.eccBad (wayKey w.line) then s.retireWay (sliceOf pa) (bankOf pa) w.w
    else if s.eccSoft (wayKey w.line) then
      let ts := s.time.toNat :: (kget s.wayCorr k []).filter fun t => s.time.toNat < t + 1000000000
      let s := { s with wayCorr := kput s.wayCorr k ts }
      if 8 ≤ ts.length then s.retireWay (sliceOf pa) (bankOf pa) w.w else s
    else s

/-- An access to memory arrives at its home slice. -/
def State.doMem (s : State) (l : Nat) (a : Acc) : State := (s.checkWay a.key).memAt l a

/-! ### Accesses of hardware: walkers, engines, fetches, the backing store, the Station (R75, R102, R377) -/

/-- Such an access to one line, when it need not wait for a miss to be accepted; a Pending line's fill completes first and
serves those that came before (R99). `na` is its translation's NA, `rd` whether it reads when it bypasses (R106). The flag
says that no data came. -/
def State.touchNow (s : State) (part : BitVec 6) (ctx : BitVec 10) (na rd : Bool) (pa : Nat) : Option (State × Bool) :=
  match s.wayOf pa with
  | some w =>
    if w.st = .pending then some ((s.counted pa part false).fill (pa / 64))
    else
      let s := s.counted pa part true
      some (if s.noAlloc part ctx na pa then s else s.touchLine pa, false)
  | none =>
    if s.noAlloc part ctx na pa then
      let s := s.counted pa part false
      some (if rd then s.chanRead pa else (s, false))
    else (s.acceptMiss part ctx pa).map fun s => s.fill (pa / 64)

/-- One fill that a miss of `pa` waits for completes: of its set when every way it may take is Pending, else of its
bank. -/
def State.oneFill (s : State) (part : BitVec 6) (ctx : BitVec 10) (pa : Nat) : State :=
  let mask := s.fillMask pa part ctx
  let mine := if (victim mask (s.setAt pa)).isNone then (s.setAt pa).find? fun y => y.st == .pending && mask.testBit y.w
    else none
  match mine with
  | some y => (s.fill y.line).1
  | none =>
    match s.linesIn (fun i => i / 128 == setKey pa / 128) (fun _ y => y.st == .pending) with
    | line :: _ => (s.fill line).1
    | [] => s

/-- Fills complete until nothing waits at a slice: `fuel` bounds the misses on their way and those still queued. -/
def State.fillsDone (s : State) : Nat → State
  | 0 => s
  | fuel + 1 =>
    match s.linesIn (fun _ => true) (fun _ y => y.st == .pending) with
    | line :: _ => ((s.fill line).1).fillsDone fuel
    | [] => s

/-- Accesses queued at the slices are served (R109). -/
def State.serveQueued (s : State) : State :=
  s.fillsDone ((s.linesIn (fun _ => true) fun _ y => y.st == .pending).length + (s.waiting fun _ => true).length)

def State.touchWait (s : State) (part : BitVec 6) (ctx : BitVec 10) (na rd : Bool) (pa : Nat) : Nat → State × Bool
  | 0 => (s, false)
  | fuel + 1 =>
    match s.touchNow part ctx na rd pa with
    | some r => r
    | none => (s.oneFill part ctx pa).touchWait part ctx na rd pa fuel

/-- An access to a line by hardware, which takes its turn at the slice within its step. -/
def State.hwTouch (s : State) (part : BitVec 6) (ctx : BitVec 10) (na rd : Bool) (pa : Nat) : State × Bool :=
  let s := s.checkWay pa
  match s.takeLost pa with
  | some s => (s.counted pa part false, true)
  | none =>
    match s.touchNow part ctx na rd pa with
    | some r => r
    | none => s.touchWait part ctx na rd pa (40 + (s.waiting fun _ => true).length)

/-- The touch of a line that a write of hardware is to change; the flag says that it ends with the data error, which it does not
on a failed channel: that drops the write and counts it (R111, R115, R122). -/
def State.hwTouchW (s : State) (part : BitVec 6) (ctx : BitVec 10) (na : Bool) (pa : Nat) : State × Bool :=
  match s.hwTouch part ctx na false pa with
  | (t, e) => (t, e && (s.lost.contains (pa / 64) || !(t.chanFailed pa)))

/-- Touches every line of a span; the flag says whether one access got no data. -/
def State.hwTouchSpan (s : State) (part : BitVec 6) (ctx : BitVec 10) (na rd : Bool) (line : Nat) : Nat → State × Bool
  | 0 => (s, false)
  | n + 1 =>
    match s.hwTouch part ctx na rd (line * 64) with
    | (s, e) =>
      match s.hwTouchSpan part ctx na rd (line + 1) n with
      | (s, e') => (s, e || e')

/-- A hardware read of `n` bytes at a physical address; none on a data error. -/
def State.hwRead (s : State) (part : BitVec 6) (ctx : BitVec 10) (na : Bool) (pa n : Nat) : State × Option (List Byte) :=
  match s.hwTouchSpan part ctx na true (pa / 64) (spanLines pa n) with
  | (s, e) => (s, if e then none else some (s.cohBytes pa n))

/-- A hardware write of bytes at a physical address. Where a line's allocating fill delivers no data, the write is made all the
same and raises nothing (R115; DESIGN CHOICE, log entry 99). -/
def State.hwWrite (s : State) (part : BitVec 6) (ctx : BitVec 10) (na : Bool) (pa : Nat) (bs : List Byte) : State :=
  ((s.hwTouchSpan part ctx na false (pa / 64) (spanLines pa bs.length)).1).cohWrite pa bs

end Sys2Proof.Machine
end

