-- ==== Sys2Proof/Machine/Translate.lean ====
section
/-! DEFINITION. Address translation (chapter 02): contexts, the two-stage walk, permissions, TLBs and walk caches. -/

namespace Sys2Proof.Machine

/-- What an access asks of translation (R54, the Acc field of R57). -/
inductive XAcc where
  | read | write | fetch | atomic | wainPipe | drayRead | drayWrite | tenderWrite
  deriving DecidableEq, Repr

def XAcc.code : XAcc → Nat
  | .read => 0 | .write => 1 | .fetch => 2 | .atomic => 3
  | .wainPipe => 4 | .drayRead => 5 | .drayWrite => 6 | .tenderWrite => 7

def XAcc.reads : XAcc → Bool
  | .read | .atomic | .wainPipe | .drayRead => true
  | .write | .fetch | .drayWrite | .tenderWrite => false

def XAcc.writes : XAcc → Bool
  | .write | .atomic | .drayWrite | .tenderWrite => true
  | .read | .fetch | .wainPipe | .drayRead => false

/-- A failing translation: stage, level, kind and IPA of R57. -/
structure XFault where
  s2 : Bool
  level : Nat
  kind : Nat
  ipa : Nat := 0
  deriving DecidableEq, Repr

/-- The detail word of R57. -/
def XFault.word (f : XFault) (acc : XAcc) (ctx : BitVec 10) : W64 :=
  mkWord [(63, 1), (62, b2n f.s2), (60, f.level), (56, f.kind), (53, acc.code), (36, ctx.toNat),
    (0, if f.s2 then f.ipa >>> 12 else 0)]

/-- A descriptor read as R49 gives it. -/
inductive Desc where
  | invalid
  | bad
  | table (next : Nat)
  | leaf (oa : Nat) (na fm x w r d af : Bool) (run : Nat)
  deriving DecidableEq, Repr

/-- Decides a descriptor by its Type first (R49, R50, R51); `level` and the input address give the run and block
checks. A table descriptor at level 3, which R48 does not allow, is a bad one (log entry 101), and so is a leaf with the reserved
Run 11 (DESIGN CHOICE, log entry 137). -/
def readDesc (lo hi : W64) (level input : Nat) : Desc :=
  let ty := fld lo 1 0
  let resv := fld lo 63 48 != 0 || fld lo 11 11 != 0 || fld hi 31 0 != 0
  if ty = 0 then .invalid
  else if ty = 3 then .bad
  else if ty = 1 then
    if resv || fld lo 11 2 != 0 || fld lo 15 12 != 0 || level = 3 then .bad else .table (fld lo 47 16 <<< 16)
  else
    let run := fld lo 3 2
    let oa := fld lo 47 12 <<< 12
    let blockOk := if level = 1 then fld lo 35 12 = 0 else if level = 2 then fld lo 23 12 = 0 else true
    let runOk :=
      if run = 0 then true
      else if run = 3 ∨ level = 1 then false
      else
        let b := (if level = 3 then 12 else 24)
        let w := (if run = 1 then 4 else 8)
        (oa >>> b) % 2 ^ w = (input >>> b) % 2 ^ w
    if resv || !blockOk || !runOk then .bad
    else .leaf oa (bit lo 10) (bit lo 9) (bit lo 8) (bit lo 7) (bit lo 6) (bit lo 5) (bit lo 4) run

/-- log2 of what a leaf maps: block or page size of its level, times its run (R48, R50). -/
def leafBits (level run : Nat) : Nat :=
  (if level = 1 then 36 else if level = 2 then 24 else 12) + (if run = 1 then 4 else if run = 2 then 8 else 0)

def idxOf (level input : Nat) : Nat := input >>> (if level = 1 then 36 else if level = 2 then 24 else 12) % 4096

/-- Sets AF, and D when asked, in a descriptor's low word at its home slice (R52). -/
def State.setAfD (s : State) (part : BitVec 6) (ctx : BitVec 10) (pa : Nat) (d : Bool) : State :=
  let lo := BitVec.ofNat 64 (ofBytes (s.cohBytes pa 8))
  let lo' := lo ||| 0x10#64 ||| (if d then 0x20#64 else 0#64)
  if lo' = lo then s else s.hwWrite part ctx false pa (toBytes 8 lo'.toNat)

/-- What a stage of a walk came to: the address, log2 of its mapping, R, W, X, FM, NA, D, the leaf descriptor to mark (R52),
and the walk-cache entries found on the way (R55). -/
structure Leaf where
  pa : Nat
  bits : Nat
  r : Bool
  w : Bool
  x : Bool
  fm : Bool
  na : Bool
  d : Bool
  mark : Option Nat := none
  entries : List Wce := []
  deriving DecidableEq, Repr

/-- What a walk leaves to be done once no fault can come of it: the descriptors to mark, with whether D is set too, and the
walk-cache entries to install (R52, R55, R58). -/
structure Later where
  marks : List (Nat × Bool) := []
  entries : List Wce := []
  deriving DecidableEq, Repr

def wcSlice (part : BitVec 6) (ctx : BitVec 10) (input : Nat) : Nat :=
  (part.toNat * 31 + ctx.toNat + input >>> 24 % 2 ^ 24) % 64

/-- The input prefix that names a level-1 or level-2 descriptor. -/
def wcInput (level input : Nat) : Nat := if level = 1 then input >>> 36 else input >>> 24

/-- The walk-cache entry of a level's descriptor, in the slice the walk consults (R55, R56). -/
def State.wcFind (s : State) (s2 : Bool) (part : BitVec 6) (ctx : BitVec 10) (level input : Nat) : Option Wce :=
  s.walkc.find? fun e => e.slice == wcSlice part ctx input && e.s2 == s2 && e.part == part && (s2 || e.ctx == ctx) &&
    e.level == level && e.input == wcInput level input

/-- Installs a walk-cache entry in place of one of its tag; a full cache of its slice loses the entry `Config.tlbVictim`
names (log entry 9). -/
def State.wcPut (s : State) (e : Wce) : State :=
  let l := s.walkc.filter fun x => !(x.slice == e.slice && x.s2 == e.s2 && x.part == e.part && (e.s2 || x.ctx == e.ctx) &&
    x.level == e.level && x.input == e.input)
  let mine := l.filter (·.slice == e.slice)
  let l := if mine.length < 256 then l
    else match mine[Config.tlbVictim s.tick 256 % 256]? with
      | some v => l.erase v
      | none => l
  { s with walkc := e :: l }

/-- The entry for the table at `table` to which the descriptor of a level and input leads. -/
def tableEntry (s2 : Bool) (part : BitVec 6) (ctx : BitVec 10) (level input table : Nat) : Wce :=
  { slice := wcSlice part ctx input, s2 := s2, part := part, ctx := ctx, level := level, input := wcInput level input
    table := table }

/-- Stage-2 walk of an IPA from a table at `level` (R53): `fuel` levels are left, `ws` are the entries found before. -/
def State.walk2 (s : State) (part : BitVec 6) (ctx : BitVec 10) (wr : Bool) (ipa table level : Nat) (lastLvl : Nat)
    (ws : List Wce) : Nat → State × Except XFault Leaf
  | 0 => (s, .error { s2 := true, level := level, kind := 4, ipa := ipa })
  | fuel + 1 =>
    if s.installed ≤ table then (s, .error { s2 := true, level := lastLvl, kind := 3, ipa := ipa })
    else
      let pa := table + 16 * idxOf level ipa
      match s.hwRead part ctx false pa 16 with
      | (s, none) => (s, .error { s2 := true, level := level, kind := 5, ipa := ipa })
      | (s, some bs) =>
        let lo := BitVec.ofNat 64 (ofBytes (bs.take 8))
        let hi := BitVec.ofNat 64 (ofBytes (bs.drop 8))
        match readDesc lo hi level ipa with
        | .invalid => (s, .error { s2 := true, level := level, kind := 1, ipa := ipa })
        | .bad => (s, .error { s2 := true, level := level, kind := 4, ipa := ipa })
        | .table nxt => s.walk2 part ctx wr ipa nxt (level + 1) level (ws ++ [tableEntry true part ctx level ipa nxt]) fuel
        | .leaf oa na fm x w r d _ run =>
          let b := leafBits level run
          let out := oa / 2 ^ b * 2 ^ b + ipa % 2 ^ b
          if s.installed ≤ out then (s, .error { s2 := true, level := level, kind := 3, ipa := ipa })
          else
            let block : Wce := { tableEntry true part ctx level ipa 0 with
              leaf := some { pa := oa / 2 ^ b * 2 ^ b, bits := b, r := r, w := w, x := x, na := na, d := d || wr } }
            (s, .ok { pa := out, bits := b, r := r, w := w, x := x, fm := fm, na := na, d := d, mark := some pa
                      entries := if level = 3 then ws else ws ++ [block] })

/-- Stage 2 of a partition (R46, R53): from the deepest descriptor cached, whatever the entry now says (R47, R56); else
bypassed when its entry is disabled, else a walk from its base. A write does not use a cached block with D clear (R52).
`lvl1` is the stage-1 level reported when stage 2 is off and the address is out of range (R51). -/
def State.stage2 (s : State) (part : BitVec 6) (ctx : BitVec 10) (wr : Bool) (ipa lvl1 : Nat) :
    State × Except XFault Leaf :=
  let block (e : Wce) (f : WcLeaf) : State × Except XFault Leaf :=
    let out := f.pa + ipa % 2 ^ f.bits
    if s.installed ≤ out then (s, .error { s2 := true, level := e.level, kind := 3, ipa := ipa })
    else (s, .ok { pa := out, bits := f.bits, r := f.r, w := f.w, x := f.x, fm := true, na := f.na, d := f.d })
  let cached (level : Nat) : Option Wce := (s.wcFind true part ctx level ipa).filter fun e =>
    match e.leaf with | some f => f.d || !wr | none => true
  match cached 2 with
  | some e => match e.leaf with
    | some f => block e f
    | none => s.walk2 part ctx wr ipa e.table 3 2 [] 1
  | none =>
    match cached 1 with
    | some e => match e.leaf with
      | some f => block e f
      | none => s.walk2 part ctx wr ipa e.table 2 1 [] 2
    | none =>
      let e := s.dcw (0x030000 + 8 * part.toNat)
      if bit e 63 then s.walk2 part ctx wr ipa (fld e 47 16 <<< 16) 1 0 [] 3
      else if s.installed ≤ ipa then (s, .error { s2 := false, level := lvl1, kind := 3 })
      else (s, .ok { pa := ipa, bits := 48, r := true, w := true, x := true, fm := true, na := false, d := true })

/-- Stage-1 walk from a table at IPA or cached PA (R53): each descriptor read is first translated by stage 2, which
requires R, and whose leaf is marked AF (R52). `cached` gives the table's PA when a walk-cache entry did; a table that stage 2
maps in one piece is cached (R55, log entry 102). Beside the leaf and its level it answers what is to be done later. -/
def State.walk1 (s : State) (part : BitVec 6) (ctx : BitVec 10) (va table level : Nat) (cached : Option Nat) (w : Later) :
    Nat → State × Except XFault (Leaf × Nat × Later)
  | 0 => (s, .error { s2 := false, level := level, kind := 4 })
  | fuel + 1 =>
    let r : State × Except XFault (Nat × Later) :=
      match cached with
      | some p => (s, .ok (p + 16 * idxOf level va, w))
      | none =>
        match s.stage2 part ctx false (table + 16 * idxOf level va) (level - 1) with
        | (s, .error f) => (s, .error f)
        | (s, .ok l) =>
          if !l.r then (s, .error { s2 := true, level := (if l.bits < 24 then 3 else if l.bits < 36 then 2 else 1),
                                    kind := 2, ipa := table + 16 * idxOf level va })
          else
            let whole := if 1 < level ∧ 16 ≤ l.bits then [tableEntry false part ctx (level - 1) va (l.pa - 16 * idxOf level va)]
              else []
            (s, .ok (l.pa, { marks := w.marks ++ l.mark.toList.map (·, false), entries := w.entries ++ l.entries ++ whole }))
    match r with
    | (s, .error f) => (s, .error f)
    | (s, .ok (pa, w)) =>
      match s.hwRead part ctx false pa 16 with
      | (s, none) => (s, .error { s2 := false, level := level, kind := 5 })
      | (s, some bs) =>
        let lo := BitVec.ofNat 64 (ofBytes (bs.take 8))
        let hi := BitVec.ofNat 64 (ofBytes (bs.drop 8))
        match readDesc lo hi level va with
        | .invalid => (s, .error { s2 := false, level := level, kind := 1 })
        | .bad => (s, .error { s2 := false, level := level, kind := 4 })
        | .table nxt => s.walk1 part ctx va nxt (level + 1) none w fuel
        | .leaf oa na fm x wr rd d _ run =>
          let b := leafBits level run
          (s, .ok ({ pa := oa / 2 ^ b * 2 ^ b + va % 2 ^ b, bits := b, r := rd, w := wr, x := x, fm := fm, na := na,
                     d := d, mark := some pa }, level, w))

/-- The permission check of one stage (R54). -/
def permOk (acc : XAcc) (r w x : Bool) : Bool :=
  if acc = .fetch then x else (!acc.reads || r) && (!acc.writes || w)

/-- The result of a translation: PA, whether the access is no-allocate, and the TLB entry it used (R54, R55); what is to be
done later, and whether the entry goes into the requester's own TLB and into the L2 TLB. -/
structure XOk where
  pa : Nat
  na : Bool
  ent : TlbE
  later : Later := {}
  fill : Bool := false
  fill2 : Bool := false
  deriving DecidableEq, Repr

/-- The context fault of R59. -/
def State.ctxFault (s : State) (part : BitVec 6) (ctx : BitVec 10) (mode : Mode) : Bool :=
  if ctx = 0x3FF#10 then mode != .station
  else if 512 < ctx.toNat then true
  else
    let e := s.dcw (0x020000 + 8 * ctx.toNat)
    !(bit e 63) || fld e 53 48 != part.toNat

/-- Checks an entry's permissions, stage 1 before stage 2 (R54). -/
def entPerm (e : TlbE) (acc : XAcc) (mode : Mode) : Option XFault :=
  if !(permOk acc e.r1 e.w1 e.x1 && (mode != .firing || e.fm)) then
    some { s2 := false, level := 0, kind := 2 }
  else if !(permOk acc e.r2 e.w2 e.x2) then some { s2 := true, level := 0, kind := 2 }
  else none

/-- A whole walk of a VA (R53), from the deepest stage-1 table cached (R56), whatever S1Base and S1En now
say (R47): builds the combined entry and checks permissions. What it marks and installs is left for later (R52, R55, R58). -/
def State.walk (s : State) (part : BitVec 6) (ctx : BitVec 10) (mode : Mode) (acc : XAcc) (va : Nat) :
    State × Except XFault XOk :=
  let e := s.dcw (0x020000 + 8 * ctx.toNat)
  let base := fld e 47 16 <<< 16
  let r : State × Except XFault (Leaf × Nat × Later) :=
    match s.wcFind false part ctx 2 va with
    | some x => s.walk1 part ctx va 0 3 (some x.table) {} 1
    | none =>
      match s.wcFind false part ctx 1 va with
      | some x => s.walk1 part ctx va 0 2 (some x.table) {} 2
      | none =>
        if !(bit e 0) then
          (s, .ok ({ pa := va, bits := 48, r := true, w := true, x := true, fm := true, na := false, d := true }, 0, {}))
        else s.walk1 part ctx va base 1 none {} 3
  match r with
  | (s, .error f) => (s, .error f)
  | (s, .ok (l1, lv1, w)) =>
    if !(permOk acc l1.r l1.w l1.x && (mode != .firing || l1.fm)) then
      (s, .error { s2 := false, level := lv1, kind := 2 })
    else
      match s.stage2 part ctx acc.writes l1.pa lv1 with
      | (s, .error f) => (s, .error f)
      | (s, .ok l2) =>
        if !(permOk acc l2.r l2.w l2.x) then
          (s, .error { s2 := true, level := (if l2.bits < 24 then 3 else if l2.bits < 36 then 2 else 1), kind := 2,
                       ipa := l1.pa })
        else
          let wr := acc.writes
          let b := min l1.bits l2.bits
          let ent : TlbE :=
            { part := part, ctx := ctx, va := va / 2 ^ b * 2 ^ b, size := b, pa := l2.pa / 2 ^ b * 2 ^ b,
              r1 := l1.r, w1 := l1.w, x1 := l1.x, fm := l1.fm, r2 := l2.r, w2 := l2.w, x2 := l2.x,
              na := l1.na || l2.na, d := (l1.d && l2.d) || wr }
          (s, .ok { pa := l2.pa, na := ent.na, ent := ent, fill := true, fill2 := true
                    later := { marks := w.marks ++ (l2.mark.toList ++ l1.mark.toList).map (·, wr)
                               entries := w.entries ++ l2.entries } })

def TlbE.sameTag (x e : TlbE) : Bool := x.part == e.part && x.ctx == e.ctx && x.va == e.va && x.size == e.size

/-- Installs an entry in a fully associative structure; a full one loses the entry `Config.tlbVictim` names (log entry
9). -/
def tlbPut (cap tick : Nat) (l : List TlbE) (e : TlbE) : List TlbE :=
  let l := l.filter fun x => !(x.sameTag e)
  e :: (if l.length < cap then l else l.eraseIdx (Config.tlbVictim tick cap % cap))

/-- The L2 TLB's set of an entry, of 512. -/
def tlbSetOf (e : TlbE) : Nat := Config.tlbSet e.part.toNat e.ctx.toNat e.va e.size % 512

/-- Installs an entry in an L2 TLB, which is 8-way: a full set loses one (R55, log entry 9). -/
def tlb2Put (tick : Nat) (l : List TlbE) (e : TlbE) : List TlbE :=
  let l := l.filter fun x => !(x.sameTag e)
  if l.length < 8 then e :: l
  else
    let mates := l.filter fun x => tlbSetOf x == tlbSetOf e
    if mates.length < 8 then e :: l
    else match mates[Config.tlbVictim tick 8 % 8]? with
      | some v => e :: l.erase v
      | none => e :: l

def tlbFind (l : List TlbE) (part : BitVec 6) (ctx : BitVec 10) (va : Nat) : Option TlbE :=
  l.find? fun e => e.part == part && e.ctx == ctx && e.va == va / 2 ^ e.size * 2 ^ e.size

/-- Finds the translation of a class 0x0 access of core `l` (R44, R47, R55, R58, R59): the context checks, then the L1 TLB
(or the load-pipe TLB), then the cluster's L2 TLB, then a walk. A write that meets an entry with D clear walks again (R52), and
so does an access whose PA under the entry lies above the installed memory or that the entry's permissions refuse, so that the
walk reports the level (R51, R57, log entry 103). It marks and installs nothing. -/
def State.xlate (s : State) (l : Nat) (part : BitVec 6) (ctx : BitVec 10) (mode : Mode) (acc : XAcc) (va : Nat) :
    State × Except XFault XOk :=
  if s.ctxFault part ctx mode then (s, .error { s2 := false, level := 0, kind := 6 })
  else if ctx = 0x3FF#10 then
    if s.installed ≤ va then (s, .error { s2 := false, level := 0, kind := 3 })
    else
      (s, .ok { pa := va, na := false,
                ent := { part := part, ctx := ctx, va := 0, size := 48, pa := 0, r1 := true, w1 := true, x1 := true,
                         fm := true, r2 := true, w2 := true, x2 := true, na := false, d := true } })
  else
    let cl := clusterOf l
    let own := if acc = .wainPipe then (s.clu cl).tlbLp
      else if acc.code < 4 then (s.core l).tlb1 else []
    let use (e : TlbE) (refill : Bool) : State × Except XFault XOk :=
      let pa := e.pa + va % 2 ^ e.size
      if (entPerm e acc mode).isSome || (acc.writes && !e.d) || decide (s.installed ≤ pa) then s.walk part ctx mode acc va
      else (s, .ok { pa := pa, na := e.na, ent := e, fill := refill })
    match tlbFind own part ctx va with
    | some e => use e false
    | none =>
      match (if isArrayCore l then tlbFind (s.clu cl).tlb2 part ctx va else none) with
      | some e => use e true
      | none => s.walk part ctx mode acc va

/-- What a translation leaves once no fault comes of it: AF and D are set, and the walk caches and the TLBs take their entries
(R52, R55, R58). -/
def State.settle (s : State) (l : Nat) (part : BitVec 6) (ctx : BitVec 10) (acc : XAcc) (r : XOk) : State :=
  let cl := clusterOf l
  let s := r.later.marks.foldl (fun s m => s.setAfD part ctx m.1 m.2) s
  let s := r.later.entries.foldl State.wcPut s
  let s := if r.fill2 && isArrayCore l then s.updClu cl fun c => { c with tlb2 := tlb2Put s.tick c.tlb2 r.ent } else s
  if !r.fill then s
  else if acc = .wainPipe then s.updClu cl fun c => { c with tlbLp := tlbPut 32 s.tick c.tlbLp r.ent }
  else if acc.code < 4 then s.updCore l fun c => { c with tlb1 := tlbPut 64 s.tick c.tlb1 r.ent }
  else s

/-- Translates a class 0x0 access of core `l` that no other fault can end. A translation that faults sets no AF or D and
installs nothing; the cache keeps what its reads did (R55, R58, R100, R104). -/
def State.translate (s : State) (l : Nat) (part : BitVec 6) (ctx : BitVec 10) (mode : Mode) (acc : XAcc) (va : Nat) :
    State × Except XFault XOk :=
  match s.xlate l part ctx mode acc va with
  | (s, .error f) => (s, .error f)
  | (s, .ok r) => (s.settle l part ctx acc r, .ok r)

/-- Translates the pieces of a span, each in one page, and settles nothing. -/
def State.xlatePieces (s : State) (l : Nat) (part : BitVec 6) (ctx : BitVec 10) (mode : Mode) (acc : XAcc) :
    List (Nat × Nat) → State × Except XFault (List (XOk × Nat))
  | [] => (s, .ok [])
  | (va, k) :: t =>
    match s.xlate l part ctx mode acc va with
    | (s, .error f) => (s, .error f)
    | (s, .ok r) =>
      match s.xlatePieces l part ctx mode acc t with
      | (s, .error f) => (s, .error f)
      | (s, .ok ps) => (s, .ok ((r, k) :: ps))

/-- An access of several pages that no fault ends settles each (R58). -/
def State.settleAll (s : State) (l : Nat) (part : BitVec 6) (ctx : BitVec 10) (acc : XAcc) (rs : List XOk) : State :=
  rs.foldl (fun s r => s.settle l part ctx acc r) s

/-- The pieces of a span that lie in one page each. -/
def pagePieces : Nat → Nat → Nat → List (Nat × Nat)
  | 0, _, _ => []
  | fuel + 1, va, n =>
    if n = 0 then [] else let k := min n (4096 - va % 4096); (va, k) :: pagePieces fuel (va + k) (n - k)

/-- Removes the translations a TLBINV form names, device-wide (R60, R62): 8 VA, 9 CTX, 10 IPA, 11 PART. -/
def State.tlbRemove (s : State) (form : Nat) (a b : W64) : State :=
  let ctx := BitVec.ofNat 10 (fld b 9 0)
  let part := BitVec.ofNat 6 (fld b 5 0)
  let lo := fld a 47 12 <<< 12
  let hi := lo + (fld b 31 16 + 1) * 4096
  let named (e : TlbE) : Bool :=
    if form = 8 then e.ctx == ctx && e.va < hi && lo < e.va + 2 ^ e.size
    else if form = 9 then e.ctx == ctx
    else e.part == part
  let namedW (e : Wce) : Bool :=
    let b := (if e.level = 1 then 36 else 24)
    let n := (match e.leaf with | some f => f.bits | none => b)
    let base := e.input <<< b / 2 ^ n * 2 ^ n
    let cover := decide (base < hi) && decide (lo < base + 2 ^ n)
    if form = 8 then !e.s2 && e.ctx == ctx && cover
    else if form = 9 then !e.s2 && e.ctx == ctx
    else if form = 10 then e.part == part && (!e.s2 || cover)
    else e.part == part
  { s with
    walkc := s.walkc.filter fun e => !(namedW e)
    cores := s.cores.map fun c => (c.1, { c.2 with tlb1 := c.2.tlb1.filter fun e => !(named e) })
    clusters := s.clusters.map fun c => (c.1, { c.2 with
      tlb2 := c.2.tlb2.filter fun e => !(named e), tlbLp := c.2.tlbLp.filter fun e => !(named e) }) }

end Sys2Proof.Machine
end

