-- ==== Sys2Proof/Machine/Regs.lean ====
section
/-! DEFINITION. Workspace words, the register cache, the scoreboard, residency and the backing store (chapters 03 and
07). A place is a resident slot, 0 to 15, or a shadow bank, 16 to 19; word i of a place has key 64·place + i. -/

namespace Sys2Proof.Machine

/-! ### Register words -/

def wordKey (place i : Nat) : Nat := place * 64 + i

/-- The value of a workspace word: in the register cache if it is there, else in its place (R180). -/
def Core.word (c : Core) (k : Nat) : W64 :=
  match c.rc.find? (·.key == k) with
  | some e => e.val
  | none => kget c.rf k 0#64

/-- Makes an entry the most recent of 32, writing back the least recent one when it leaves dirty (R180). -/
def Core.rcPut (c : Core) (e : RcEnt) : Core :=
  let l := c.rc.filter (·.key != e.key)
  if l.length < 32 then { c with rc := e :: l }
  else
    match l.getLast? with
    | some o => { c with rc := e :: l.dropLast, rf := if o.dirty then kput c.rf o.key o.val else c.rf }
    | none => { c with rc := [e] }

/-- A read through the cache: a miss fills (R180); a shadow bank bypasses it. -/
def Core.touch (c : Core) (k : Nat) : Core :=
  if 16 * 64 ≤ k then c
  else
    match c.rc.find? (·.key == k) with
    | some e => c.rcPut e
    | none => c.rcPut { key := k, val := kget c.rf k 0#64, dirty := false }

/-- A write of a word: into the cache as dirty, or into a shadow bank (R180). -/
def Core.putWord (c : Core) (k : Nat) (v : W64) : Core :=
  if 16 * 64 ≤ k then { c with rf := kput c.rf k v } else c.rcPut { key := k, val := v, dirty := true }

/-- Writes back and removes every cached word of a place (R180, R394). -/
def Core.flushPlace (c : Core) (place : Nat) : Core :=
  let mine := c.rc.filter fun e => e.key / 64 == place
  { c with
    rf := mine.foldl (fun f e => if e.dirty then kput f e.key e.val else f) c.rf
    rc := c.rc.filter fun e => e.key / 64 != place }

def Core.flushAll (c : Core) : Core := (List.range 16).foldl Core.flushPlace c

/-- Register `i` of the running firing as an owner sees it: g0 reads zero (R177). -/
def Core.reg (c : Core) (i : R6) : W64 := if i = 0#6 then 0#64 else c.word (wordKey c.cur i.toNat)

/-- Whether an owner read of register `i` interlocks (R196). -/
def Core.isArmed (c : Core) (i : R6) : Bool := i != 0#6 && kfind c.sb (wordKey c.cur i.toNat) == some .armed

/-- What an owner read does beside giving the value: it uses the cache, and leaves a full register plain unless its keep
bit is set (R196). -/
def Core.consume (c : Core) (i : R6) : Core :=
  if i = 0#6 then c
  else
    let k := wordKey c.cur i.toNat
    let c := c.touch k
    if kfind c.sb k = some .full && !(c.keep.contains k) then { c with sb := kdel c.sb k } else c

/-- An owner write: the value is written and the register is plain; writes to g0 are discarded (R177, R196). -/
def Core.setReg (c : Core) (i : R6) (v : W64) : Core :=
  if i = 0#6 then c
  else
    let k := wordKey c.cur i.toNat
    let c := c.putWord k v
    { c with sb := kdel c.sb k }

def State.reg (s : State) (l : Nat) (i : R6) : W64 := (s.core l).reg i
def State.setReg (s : State) (l : Nat) (i : R6) (v : W64) : State := s.updCore l fun c => c.setReg i v

/-- The second register of a pair (R214). -/
def pairHi (i : R6) : R6 := i + 1#6

/-! ### ECC of LM, typed buffers and locked SRAM (R72, R79, R83) -/

/-- Counts a corrected error of the tile that holds a key; a typed buffer and the locked SRAM count under numbers of their
own (R72; DESIGN CHOICE, log entry 124). -/
def State.countFixed (s : State) (key : Nat) : State := { s with tileCorr := kupd s.tileCorr (key >>> 48) 0 (· + 1) }

/-- Reads the 64-bit words from the one at `key` on: the first that shows a double-bit error, if one does; corrected
errors are counted. -/
def State.eccWords (s : State) (key : Nat) : Nat → State × Option Nat
  | 0 => (s, none)
  | n + 1 =>
    if s.eccBad key then (s, some key)
    else (if s.eccSoft key then s.countFixed key else s).eccWords (key + 8) n

/-- A read of `n` bytes at a key: how far from it the first bad word begins, below it when the read begins inside the
word. -/
def State.eccSpan (s : State) (key n : Nat) : State × Option Int :=
  match s.eccWords (key / 8 * 8) ((key + n + 7) / 8 - key / 8) with
  | (s, bad) => (s, bad.map fun k => (k : Int) - key)

/-- Words that the hardware reads for itself and no party waits for: one with a double-bit error reads as a free value
(R72, log entry 7). -/
def State.hwWords (s : State) (key : Nat) : List W64 → State × List W64
  | [] => (s, [])
  | w :: t =>
    let (s', w') := if s.eccBad key then (s, Config.lostWord s.tick key) else (if s.eccSoft key then s.countFixed key else s, w)
    let r := s'.hwWords (key + 8) t
    (r.1, w' :: r.2)

/-- The address of the bad word that a read at `a` met (R72). -/
def eccAddr (a : W64) (d : Int) : W64 := a + BitVec.ofInt 64 d

/-- The LM key of a word of a resident slot (R70, R178). -/
def slotKey (l k : Nat) : Nat := lmKey (tileOf l) (0x18000 + l % 4 * 0x2000 + k * 8)

/-- The LM address of register `i` of the running firing, when reading it fills the register cache (R180). -/
def Core.fillAddr (c : Core) (l : Nat) (i : R6) : Option Nat :=
  let k := wordKey c.cur i.toNat
  if i = 0#6 ∨ 16 ≤ c.cur ∨ !(isArrayCore l) ∨ c.rc.any (·.key == k) then none else some (slotKey l k)

/-- The register-cache fills that reading registers makes: the first that meets a double-bit error gives its LM address
(R72). -/
def State.fillRegs (s : State) (l : Nat) : List R6 → State × Option Nat
  | [] => (s, none)
  | i :: t =>
    match (s.core l).fillAddr l i with
    | none => s.fillRegs l t
    | some a =>
      match s.eccWords a 1 with
      | (s, some k) => (s, some k)
      | (s, none) => s.fillRegs l t

/-! ### The directory -/

/-- The directory entry of the workspace in a place (R75). -/
def Core.wkAt (c : Core) (place : Nat) : Option Wk := c.dir.find? fun w => w.place == some place

/-- The workspace of the running firing (R188). -/
def Core.curWk (c : Core) : Option Wk := c.wkAt c.cur

def Core.wkById (c : Core) (id : BitVec 16) : Option Wk := c.dir.find? fun w => w.wsid == id
def Core.wkEnt (c : Core) (e : Nat) : Option Wk := c.dir.find? fun w => w.ent == e

def Core.updWk (c : Core) (e : Nat) (f : Wk → Wk) : Core :=
  { c with dir := c.dir.map fun w => if w.ent = e then f w else w }

/-- The allotment of the running firing: 64 on a Station core, which runs no actor (R182, log entry 1). -/
def Core.allot (c : Core) : Nat := match c.curWk with | some w => w.allot | none => 64

/-- The partition and context of the running firing (R45). -/
def Core.part (c : Core) : BitVec 6 := BitVec.ofNat 6 (fld c.xctx 15 10)
def Core.ctx (c : Core) : BitVec 10 := BitVec.ofNat 10 (fld c.xctx 9 0)

/-! ### Intervals (R387) -/

def inIval (w : W64) (l : Nat) : Bool := bit w 63 && decide (fld w 11 0 ≤ l) && decide (l < fld w 11 0 + fld w 27 16)

def State.homeIval (s : State) (p a : Nat) : W64 := s.dcw (0x046000 + 16 * p + 8 * a)
def State.commonIval (s : State) (c : Nat) : W64 := s.dcw (0x078040 + 8 * c)
def State.isHome (s : State) (p l : Nat) : Bool := inIval (s.homeIval p 0) l || inIval (s.homeIval p 1) l
def State.isCommon (s : State) (l : Nat) : Bool := (List.range 4).any fun c => inIval (s.commonIval c) l

/-- Whether a partition holds a core now: home, or common while it holds the slot (R392). -/
def State.holdsCore (s : State) (p l : Nat) : Bool := s.isHome p l || (s.isCommon l && s.slot.holder == some p)

def State.slotEntry (s : State) (i k : Nat) : W64 := s.dcw (0x078100 + 32 * i + 8 * k)
def State.slotCount (s : State) : Nat := fld (s.dcw 0x078000) 55 49

/-- The donees of an entry in order (R390). -/
def State.donees (s : State) (i : Nat) : List Nat :=
  (List.range 4).filterMap fun k =>
    let w := s.slotEntry i 1
    if bit w (7 * k + 6) then some (fld w (7 * k + 5) (7 * k)) else none

/-- Whether some valid entry gives a partition the common intervals as Owner or donee (R75, R381, R464). -/
def State.entryGives (s : State) (p : Nat) : Bool :=
  (List.range s.slotCount).any fun i =>
    let w := s.slotEntry i 0
    bit w 63 && ((bit w 62 && fld w 61 56 == p) || (s.donees i).contains p)

/-- Cores the partition could ever hold (R381). -/
def State.couldHold (s : State) (p l : Nat) : Bool := s.isHome p l || (s.isCommon l && s.entryGives p)

def State.limLive (s : State) (p : Nat) : Nat := fld (s.dcw (0x040000 + 8 * p)) 57 49
def State.limRes (s : State) (p : Nat) : Nat := fld (s.dcw (0x040000 + 8 * p)) 48 44

/-! ### The backing store (R75, R76) -/

def State.backEn (s : State) (p : Nat) : Bool := bit (s.dcw (0x042000 + 8 * p)) 63

/-- The PA of a workspace's backing record. -/
def State.backAddr (s : State) (p l idx : Nat) : Nat :=
  let rank := (List.range l).countP (s.couldHold p)
  fld (s.dcw (0x042000 + 8 * p)) 47 16 <<< 16 + (rank * s.limLive p + idx) * 1024

def sbCode : Option Sb → Nat
  | none => 0 | some .armed => 1 | some .full => 2

/-- The 1 KiB backing record of a workspace in a place. -/
def Core.record (c : Core) (place : Nat) (w : Wk) : List Byte :=
  let words := (List.range 64).flatMap fun i => toBytes 8 (kget c.rf (wordKey place i) 0#64).toNat
  let sbs := (List.range 64).foldl (fun a i => a + sbCode (kfind c.sb (wordKey place i)) * 4 ^ i) 0
  let kps := (List.range 64).foldl (fun a i => a + b2n (c.keep.contains (wordKey place i)) * 2 ^ i) 0
  words ++ toBytes 16 sbs ++ toBytes 8 kps ++ toBytes 2 w.wsid.toNat ++ toBytes 2 w.gen.toNat ++
    List.replicate 484 0#8

/-- Takes a place's words, scoreboard and keep bits away. -/
def Core.clearPlace (c : Core) (place : Nat) : Core :=
  { c with
    rc := c.rc.filter fun e => e.key / 64 != place
    rf := c.rf.filter fun e => e.1 / 64 != place
    sb := c.sb.filter fun e => e.1 / 64 != place
    keep := c.keep.filter fun k => k / 64 != place }

/-- The words of a place are read for a save: those of a resident slot lie in LM and may show errors (R70, R72). -/
def State.readPlace (s : State) (l place : Nat) : State :=
  if s.upset && decide (place < 16) then
    let ks := (List.range 64).map (wordKey place)
    let r := s.hwWords (slotKey l (wordKey place 0)) (ks.map fun k => kget (s.core l).rf k 0#64)
    r.1.updCore l fun c => { c with rf := (ks.zip r.2).foldl (fun f x => kput f x.1 x.2) c.rf }
  else s

/-- Saves the workspace in a place to its backing record and frees the place (R74, R76). -/
def State.saveOut (s : State) (l place : Nat) : State :=
  match (s.core l).wkAt place with
  | none => s
  | some w =>
    let s := (s.updCore l fun c => c.flushPlace place).readPlace l place
    let s := s.hwWrite w.part 0#10 false (s.backAddr w.part.toNat l w.idx) ((s.core l).record place w)
    s.updCore l fun c => (c.clearPlace place).updWk w.ent fun w => { w with place := none }

/-- Loads a workspace from its backing record into a place (R76, R191). -/
def State.loadIn (s : State) (l e place : Nat) : State :=
  match (s.core l).wkEnt e with
  | none => s
  | some w =>
    let (s, bs) := s.hwRead w.part 0#10 false (s.backAddr w.part.toNat l w.idx) 536
    let bs := bs.getD ((List.range 67).flatMap fun i => toBytes 8 (Config.lostWord s.tick i).toNat)
    let word (i : Nat) : W64 := BitVec.ofNat 64 (ofBytes ((bs.drop (8 * i)).take 8))
    let sbs := ofBytes ((bs.drop 512).take 16)
    let kps := ofBytes ((bs.drop 528).take 8)
    s.updCore l fun c =>
      let c := c.clearPlace place
      let c := (List.range 64).foldl (fun (c : Core) i =>
        let k := wordKey place i
        let code := sbs / 4 ^ i % 4
        { c with
          rf := if word i = 0#64 then c.rf else kput c.rf k (word i)
          sb := if code = 1 then kput c.sb k .armed else if code = 2 then kput c.sb k .full else c.sb
          keep := if kps.testBit i then k :: c.keep else c.keep }) c
      c.updWk e fun w => { w with place := some place }

/-- Whether a core may evict a workspace: not while its firing runs, is held or is interrupted (R74). -/
def Wk.evictable (w : Wk) : Bool :=
  match w.st with
  | .idle => true
  | .queued => !w.resumed
  | .running | .interrupted | .held => false

/-- Of two candidates the one whose last firing ended longer ago, then the lower slot (R74). -/
def olderWk (a b : Wk) : Wk :=
  if a.lastEnd.toNat < b.lastEnd.toNat then a
  else if b.lastEnd.toNat < a.lastEnd.toNat then b
  else if a.place.getD 0 ≤ b.place.getD 0 then a else b

def pickVictim : List Wk → Option Wk
  | [] => none
  | w :: t => match pickVictim t with | none => some w | some v => some (olderWk w v)

/-- A resident slot of core `l` for a workspace of partition `p`: the lowest-numbered free one (log entry 104), else that
of the workspace evicted under R74; none when no candidate may leave, or its leaving needs a backing store that is not
enabled (R75). -/
def State.freeSlotFor (s : State) (l : Nat) (p : BitVec 6) : Option (State × Nat) :=
  let res := (s.core l).dir.filter fun x => match x.place with | some k => decide (k < 16) | none => false
  let mine := res.filter (·.part == p)
  let free := (List.range 16).find? fun k => !(res.any (·.place == some k))
  let full := decide (s.limRes p.toNat ≤ mine.length)
  match full, free with
  | false, some k => some (s, k)
  | _, _ =>
    match pickVictim ((if full then mine else res).filter fun x => x.evictable && s.backEn x.part.toNat) with
    | none => none
    | some v => v.place.map fun k => (s.saveOut l k, if full then free.getD k else k)

/-- Makes a workspace resident. A shadow-bank workspace returns to its bank (R191). -/
def State.makeResident (s : State) (l e : Nat) : Option State :=
  let c := s.core l
  match c.wkEnt e with
  | none => none
  | some w =>
    if w.place.isSome then some s
    else if 0 < w.bank then
      if (c.wkAt (15 + w.bank)).isSome then none else some (s.loadIn l e (15 + w.bank))
    else
      (s.freeSlotFor l w.part).map fun x =>
        (x.1.loadIn l e x.2).updCore l fun c => c.updWk e fun w => { w with lastEnd := s.time }

/-! ### Workspace ids (R33, R34) -/

/-- Takes the next id off the free list: ids never used first, in rising order (DESIGN CHOICE, log entry 123), then freed ids
in order, one generation on. -/
def Core.takeId (c : Core) : Option (Core × BitVec 16 × BitVec 12) :=
  if c.nextId ≤ 0xFFFF then
    some ({ c with nextId := c.nextId + 1 }, BitVec.ofNat 16 c.nextId, 1#12)
  else
    match c.freed with
    | [] => none
    | (i, g) :: t => some ({ c with freed := t }, i, g + 1#12)

/-- Frees an id: parked at generation 0xFFF until its partition's next key write (R34). -/
def Core.giveId (c : Core) (i : BitVec 16) (g : BitVec 12) (p : BitVec 6) : Core :=
  if g = 0xFFF#12 then { c with parked := c.parked ++ [(i, p)] } else { c with freed := c.freed ++ [(i, g)] }

/-- A key write returns the partition's parked ids, to be issued at generation 1 (R34). -/
def Core.unpark (c : Core) (p : BitVec 6) : Core :=
  { c with
    freed := c.freed ++ (c.parked.filter (·.2 == p)).map fun x => (x.1, 0#12)
    parked := c.parked.filter (·.2 != p) }

/-- Frees a workspace: its place and its id (R187, R412). -/
def Core.freeWk (c : Core) (w : Wk) : Core :=
  let c := (match w.place with | some p => c.clearPlace p | none => c).giveId w.wsid w.gen w.part
  { c with dir := c.dir.filter (·.ent != w.ent), runq := c.runq.filter (·.ent != w.ent) }

/-- Live workspaces of a partition on a core. -/
def Core.liveOf (c : Core) (p : BitVec 6) : Nat := c.dir.countP (·.part == p)

/-- Allocates a workspace on a core for the actor `w` describes: the lowest free entry (log entry 104), the lowest index
below LimLive the partition does not use there, an id, and its shadow bank or a resident slot; every word is zero but
those of g1 to g4, which `g` gives (R75, R89, R177, R191). None when the allocation fails: a limit is reached, the bank is
taken, or no workspace may leave for it (log entry 105). -/
def State.allocWk (s : State) (l : Nat) (w : Wk) (g : List W64) : Option (State × Wk) :=
  let c := s.core l
  let lim := min 256 (s.limLive w.part.toNat)
  let ent := (List.range 256).find? fun e => !(c.dir.any (·.ent == e))
  let idx := (List.range lim).find? fun i => !(c.dir.any fun x => x.part == w.part && x.idx == i)
  if lim ≤ c.liveOf w.part then none
  else
    match ent, idx with
    | some e, some i =>
      let room : Option (State × Nat) :=
        if 0 < w.bank then (if (c.wkAt (15 + w.bank)).isSome then none else some (s, 15 + w.bank))
        else s.freeSlotFor l w.part
      match room with
      | none => none
      | some (s, k) =>
        match (s.core l).takeId with
        | none => none
        | some (c, id, gen) =>
          let w : Wk := { w with ent := e, idx := i, wsid := id, gen := gen, place := some k, lastEnd := s.time }
          let c := (List.range 4).foldl (fun (c : Core) i =>
            { c with rf := kput c.rf (wordKey k (i + 1)) (g.getD i 0#64) }) (c.clearPlace k)
          some (s.setCore l { c with dir := c.dir ++ [w] }, w)
    | _, _ => none

end Sys2Proof.Machine
end

