-- ==== Sys2Proof/Machine/Ops.lean ====
section
/-! DEFINITION. The shared operations: readiness of actors, posting records, taking a fault and returning from one,
events counted, parks, and the issue of a word with its checks (chapters 07, 09, 16). -/

namespace Sys2Proof.Machine

/-! ### LM words and readiness (R185, R186) -/

def State.lmNat (s : State) (tile off n : Nat) : Nat := ofBytes (memReadN s.mem (lmKey tile off) n)
def State.lm64 (s : State) (tile off : Nat) : W64 := BitVec.ofNat 64 (s.lmNat tile off 8)
def State.setLm (s : State) (tile off n v : Nat) : State :=
  { s with mem := memWriteN s.mem (lmKey tile off) (toBytes n v) }

/-- Hardware that acts for no firing and no engine is about to read `n` words of a tile's LM: corrected errors are counted, and
a word that does not correct is a free value from here on (R72; DESIGN CHOICE, log entries 7 and 138). -/
def State.scrub (s : State) (tile off n : Nat) : State :=
  if !s.upset then s
  else
    let k := lmKey tile off
    let r := s.hwWords k ((List.range n).map fun i => s.lm64 tile (off + 8 * i))
    { r.1 with mem := memWriteN r.1.mem k (r.2.flatMap fun w => toBytes 8 w.toNat) }

/-- Messages of a circular buffer that count as available: those from Head up to the first of a masked class, skip
markers passed (R185, R209). -/
def State.bufAvail (s : State) (tile : Nat) (mask : W64) (base units : Nat) : Nat → Nat → Nat → Nat
  | 0, _, _ => 0
  | fuel + 1, head, used =>
    if used = 0 ∨ units = 0 then 0
    else
      let h := s.lm64 tile (base + 64 * head)
      let len := fld h 15 0
      let n := max 1 ((len + 63) / 64)
      let rest := s.bufAvail tile mask base units fuel ((head + n) % units) (used - n)
      if bit h 63 then rest else if bit mask (fld h 62 59) then 0 else rest + 1

/-- The core whose class masks hold for a buffer of a tile: the first with a binding that names its descriptor, else the
actor's own `l` (R204, R209; DEDUCED, log entry 129). -/
def State.bufCore (s : State) (l d : Nat) : Nat :=
  ((List.range 4).map (tileOf l + ·)).find? (fun k => (s.core k).cls.any fun x =>
    bit x.2 63 && fld x.2 61 59 == 1 && fld x.2 16 0 == d) |>.getD l

/-- Units available or room at port `k` of a declaration at LM offset `decl` (R185); an unused port has none (DESIGN CHOICE, log
entry 149). -/
def State.portUnits (s : State) (l : Nat) (decl k : Nat) : Nat × Nat :=
  let tile := tileOf l
  let cfg := s.lm64 tile (decl + 32 + 16 * k)
  let st := s.lm64 tile (decl + 40 + 16 * k)
  let ref := fld cfg 47 0
  let units :=
    match fld cfg 63 60 with
    | 1 =>
      let o := ref % 2 ^ 17
      let d0 := s.lm64 tile o
      let d1 := s.lm64 tile (o + 8)
      s.bufAvail tile (s.core (s.bufCore l o)).cmask (fld d0 16 0) (fld d0 27 17) 1024 (fld d1 9 0) (fld d1 42 32)
    | 2 => if s.time.toNat < st.toNat then 0 else (s.time.toNat - st.toNat) / max 1 ref + 1
    | 3 => (s.lmNat tile (ref % 2 ^ 17 + 14) 2 + 2 ^ 16 - fld st 15 0) % 2 ^ 16
    | 4 =>
      let c := s.lmNat tile (ref % 2 ^ 17) 8
      if c < st.toNat then 0 else c - st.toNat
    | 5 => st.toNat
    | _ => 0
  (units, fld cfg 59 48)

/-- Whether a team's actors are eligible for readiness (R380, R403, R407). -/
def State.teamRuns (s : State) (t : Nat) : Bool :=
  match kfind s.teams t with
  | some x => x.st == .placed
  | none => false

/-- Whether an idle actor is ready (R186, R187). A single-shot actor is ready at placement whatever room its outputs have (DESIGN
CHOICE, log entry 140). -/
def State.isReady (s : State) (l : Nat) (w : Wk) : Bool :=
  w.st == .idle && s.teamRuns w.team &&
  (match w.decl with
   | none => !w.fired
   | some d =>
     if w.nin = 0 then !w.fired
     else (List.range (w.nin + w.nout)).all fun k => let p := s.portUnits l d k; decide (p.2 ≤ p.1))

/-- The headers of a buffer that are read from Head on: up to a message of a masked class, or the one after `rate` messages
(R185, R209). -/
def State.bufHeads (s : State) (tile : Nat) (mask : W64) (base units : Nat) : Nat → Nat → Nat → Nat → List (Nat × Nat)
  | 0, _, _, _ => []
  | fuel + 1, rate, head, used =>
    if used = 0 ∨ units = 0 then []
    else
      let h := s.lm64 tile (base + 64 * head)
      let n := max 1 ((fld h 15 0 + 63) / 64)
      let rest (r : Nat) := s.bufHeads tile mask base units fuel r ((head + n) % units) (used - n)
      (base + 64 * head, 8) :: if bit h 63 then rest rate else if rate = 0 || bit mask (fld h 62 59) then [] else rest (rate - 1)

/-- What is read in LM for port `k` of a declaration: the port's words, and what its kind refers to (R72, R185); `fin` at the end
of a firing, which reads no more messages than it consumes, else for readiness. -/
def State.portReads (s : State) (l decl k : Nat) (fin : Bool) : List (Nat × Nat) :=
  let tile := tileOf l
  let at_ := decl + 32 + 16 * k
  let cfg := s.lm64 tile at_
  let o := fld cfg 16 0
  (at_, 16) :: match fld cfg 63 60 with
    | 1 =>
      let d0 := s.lm64 tile o
      let d1 := s.lm64 tile (o + 8)
      let mask := if fin then 0#64 else (s.core (s.bufCore l o)).cmask
      (o, 16) :: s.bufHeads tile mask (fld d0 16 0) (fld d0 27 17) 1024 (if fin then fld cfg 59 48 else 1024) (fld d1 9 0) (fld d1 42 32)
    | 3 => [(o, 16)]
    | 4 => [(o, 8)]
    | _ => []

/-- Reads LM ranges of a tile; the first double-bit error, if there is one, by its offset in the tile. -/
def State.eccRanges (s : State) (tile : Nat) : List (Nat × Nat) → State × Option Nat
  | [] => (s, none)
  | r :: t =>
    match s.eccSpan (lmKey tile r.1) r.2 with
    | (s, some d) => (s, some (r.1 + d).toNat)
    | (s, none) => s.eccRanges tile t

/-- Reads the ports of an actor (R72): none for one without a declaration. -/
def State.eccPorts (s : State) (l n : Nat) (w : Wk) (fin : Bool) : State × Option Nat :=
  match w.decl with
  | some d => if s.upset then s.eccRanges (tileOf l) ((List.range n).flatMap fun k => s.portReads l d k fin) else (s, none)
  | none => (s, none)

/-- Of a list of ready actors, those whose port words are read without a double-bit error; another is not made ready by
this evaluation (R72, R186; DESIGN CHOICE, log entry 130). -/
def State.readable (s : State) (l : Nat) : List Wk → State × List Wk
  | [] => (s, [])
  | w :: t =>
    match s.eccPorts l (w.nin + w.nout) w false with
    | (s, some _) => s.readable l t
    | (s, none) => let r := s.readable l t; (r.1, w :: r.2)

/-- Re-evaluates readiness on a core: each ready actor enters the tail of its priority, at most once (R186, R383). -/
def State.reeval (s : State) (l : Nat) : State :=
  let (s, rs) := s.readable l ((s.core l).dir.filter (s.isReady l))
  if rs.isEmpty then s
  else
    s.updCore l fun c => { c with
      dir := c.dir.map fun w => if rs.any (·.ent == w.ent) then { w with st := .queued } else w
      runq := c.runq ++ rs.map fun w => { pri := w.pri, ent := w.ent, since := s.time } }

/-- Re-evaluates the four cores of a tile. -/
def State.reevalTile (s : State) (tile : Nat) : State :=
  (List.range 4).foldl (fun s c => s.reeval (tile + c)) s

/-- Adds to an 8-byte LM counter, an arrival for counter ports (R185, R357). -/
def State.lmCount (s : State) (tile off : Nat) : State :=
  let s := s.scrub tile off 1
  (s.setLm tile off 8 ((s.lmNat tile off 8 + 1) % 2 ^ 64)).reevalTile tile

/-- An arrival at a cluster in retention starts its exit (R411). -/
def State.startExit (s : State) (cl : Nat) : State :=
  if (s.clu cl).ret = .retained then s.updClu cl fun x => { x with ret := .exiting } else s

/-- Whether the LM of a tile takes an access now: its cluster is not in retention and its clock runs (R411, R423). -/
def State.lmLive (s : State) (tile : Nat) : Bool := (s.clu (clusterOf tile)).ret == .active && !(s.stopped.contains tile)

/-- The fault actor's counter: it is incremented at once, or when its tile takes the increment, which starts the exit of a retained
cluster (R357, R411). -/
def State.lmPost (s : State) (tile off : Nat) : State :=
  if s.lmLive tile then s.lmCount tile off
  else { s.startExit (clusterOf tile) with countq := s.countq ++ [(tile, off)] }

/-- The increments that wait for their tiles are made once these take them, in their order. -/
def State.flushCounts (s : State) : State :=
  (s.countq.filter fun x => s.lmLive x.1).foldl (fun s x => s.lmCount x.1 x.2)
    { s with countq := s.countq.filter fun x => !(s.lmLive x.1) }

/-! ### Records (R356, R357) -/

/-- Key of a byte of foreign memory (R14). -/
def hostKey (spare : Bool) (a : Nat) : Nat := clsBase 8 + (if spare then 1 <<< 57 else 0) + a

/-- What the far side returns for a read of `n` bytes: what the device wrote last, unless the far side has written since,
else what the far side holds (R128, log entry 10). -/
def State.hostRead (s : State) (spare : Bool) (a n : Nat) : List Byte :=
  (List.range n).map fun i =>
    match kfind s.hostMem (hostKey spare (a + i)) with
    | some b => if Config.hostOver s.tick spare (a + i) then Config.hostByte s.tick spare (a + i) else b
    | none => Config.hostByte s.tick spare (a + i)

def State.hostWrite (s : State) (spare : Bool) (a : Nat) (bs : List Byte) : State :=
  { s with hostMem := (bs.zipIdx).foldl (fun m b => kput m (hostKey spare (a + b.2)) b.1) s.hostMem }

/-- Posts a record of eight words to a partition's fault queue: Lost, or the record, Tail and the fault actor's counter
(R357). When the queue's header cannot be read the record is lost (log entry 107). -/
def State.postRecord (s : State) (p : BitVec 6) (ws : List W64) : State :=
  let d0 := s.dcw (0x044000 + 16 * p.toNat)
  let d1 := s.dcw (0x044008 + 16 * p.toNat)
  let base := fld d0 47 12 <<< 12
  let n := 2 ^ fld d0 51 48
  match s.hwRead p 0#10 false base 24 with
  | (s, none) => s
  | (s, some h) =>
    let head := ofBytes (h.take 8)
    let tail := ofBytes ((h.drop 8).take 8)
    if !(bit d0 63) || (tail + 2 ^ 64 - head) % 2 ^ 64 == n then
      s.hwWrite p 0#10 false (base + 16) (toBytes 8 (satAdd (ofBytes (h.drop 16)) 1 (2 ^ 64 - 1)))
    else
      let s := s.hwWrite p 0#10 false (base + 64 + 64 * (tail % n)) (ws.flatMap fun w => toBytes 8 w.toNat)
      let s := s.hwWrite p 0#10 false (base + 8) (toBytes 8 (tail + 1))
      let s := if bit d1 63 then s.lmPost (tileOf (fld d1 59 48)) (fld d1 16 0) else s
      if bit (ws.getD 0 0#64) 51 then s.signal 3 else s

/-- Posts an event to the PF's event queue in host memory (R121, R430). -/
def State.postPf (s : State) (ws : List W64) : State :=
  let base := fld s.pfQueue 47 12 <<< 12
  let n := 2 ^ fld s.pfQueue 51 48
  let rd (a : Nat) : Nat := ofBytes (s.hostRead false a 8)
  let tail := rd (base + 8)
  if !(bit s.pfQueue 63) || (tail + 2 ^ 64 - rd base) % 2 ^ 64 == n then
    s.hostWrite false (base + 16) (toBytes 8 (satAdd (rd (base + 16)) 1 (2 ^ 64 - 1)))
  else
    let s := s.hostWrite false (base + 64 + 64 * (tail % n)) (ws.flatMap fun w => toBytes 8 w.toNat)
    let s := s.hostWrite false (base + 8) (toBytes 8 (tail + 1))
    { s with msi := kupd s.msi 0 0 (· + 1) }

def modeCode : Mode → Nat
  | .firing => 0 | .partition => 1 | .hypervisor => 2 | .station => 3

/-- The handle of a workspace: its core, id and generation (R356, word 1). -/
def Wk.handle (w : Wk) (l : Nat) : W64 := mkWord [(48, l), (32, w.wsid.toNat), (20, w.gen.toNat)]

/-- The firing of a workspace, as the faults it causes name it. -/
def Wk.owner (w : Wk) (l : Nat) : Owner := { id := w.fid, ws := w.handle l, mode := w.mode }

/-- The firing that runs on core `l`; a Station core runs none. -/
def Core.owner (c : Core) (l : Nat) : Owner :=
  match c.curWk with
  | some w => { w.owner l with mode := c.mode }
  | none => { mode := c.mode }

/-- The record of a fault of the firing `o` (R356). -/
def State.faultRecord (s : State) (l : Nat) (f : Flt) (o : Owner) (held nested : Bool) (g : Guard) (pc : W64) :
    List W64 :=
  let c := s.core l
  let w0 := mkWord [(56, f.code.toNat), (55, b2n f.late), (54, b2n f.seq), (52, f.eng.toNat), (51, b2n held),
    (50, b2n nested), (46, g.rem), (45, b2n g.sense), (44, b2n g.pred), (42, modeCode o.mode), (0, l)]
  [w0, o.ws, if f.seq then c.seq.vpc else pc, BitVec.ofNat 64 f.word.toNat, f.faddr.getD c.faddr, f.xinfo.getD c.xinfo,
    if f.seq then pc else f.detail, s.time]

/-- The record of an event (R356): cause and detail, no firing. -/
def State.eventRecord (s : State) (code : Nat) (detail : W64) : List W64 :=
  [mkWord [(56, code)], 0#64, 0#64, 0#64, 0#64, 0#64, detail, s.time]

/-! ### Taking a fault (R355, R373) -/

/-- The directory entry of the running firing; 0 where no workspace runs. -/
def Core.curEnt (c : Core) : Nat := match c.curWk with | some w => w.ent | none => 0

def causeBadCap : BitVec 8 := 0x0C#8

/-- Faults that may enter a trap entry (R354). -/
def trappable (code : BitVec 8) : Bool := 0x01#8 ≤ code && code ≤ 0x13#8

def Core.inT (c : Core) : Bool := bit c.tstat 63

/-- cw.tstat with a guard window saved and InT as given (R355, R364). -/
def tstatWord (inT : Bool) (g : Guard) : W64 :=
  mkWord [(63, b2n inT), (11, b2n g.pred), (10, b2n g.sense), (6, g.rem)]

def causeWord (f : Flt) : W64 :=
  mkWord [(63, 1), (62, b2n f.late), (61, b2n f.seq), (59, f.eng.toNat), (0, f.code.toNat)]

/-- What every fault sets first: cw.cause, and cw.faddr and cw.xinfo as its rule requires (R355). -/
def Core.latchFault (c : Core) (f : Flt) : Core :=
  { c with cause := causeWord f, faddr := f.faddr.getD c.faddr, xinfo := f.xinfo.getD c.xinfo }

/-- Saved status word of a workspace (R178); PcCls of a PC in another class is 00 (DESIGN CHOICE, log entry 128). -/
def savedStatus (st : Nat) (pc : W64) : W64 :=
  let cls := fld pc 63 60
  mkWord [(62, st), (60, if cls = 1 then 1 else if cls = 6 then 2 else 0), (2, fld pc 47 2)]

/-- The trap word of the running firing's actor; a Station core uses cw.tvec (R355, R373). -/
def Core.trapEntry (c : Core) : W64 := match c.curWk with | some w => w.trap | none => 0#64

/-- Whether a fault enters the trap entry (R355). -/
def Core.entersTrap (c : Core) (f : Flt) : Bool :=
  if c.mode = .station then true else trappable f.code && c.trapEntry != 0#64 && !c.inT

/-- Entry of a trap handler: the resume address and the guard window are saved, InT set, and the same firing goes on at
the handler in the same mode (R355, R373). -/
def Core.enterTrap (c : Core) (resume handler : W64) : Core :=
  { c with
    tpc := resume, tstat := tstatWord true c.guard, guard := {}, pc := handler, wait := .none }

/-- The sequencer stops at its next word, Hld as told: Run and Stl are clear (R305). -/
def Seq.halt (q : Seq) (hld : Bool) : Seq :=
  { q with stopDue := none, vstat := setFld (setFld (setFld q.vstat 63 63 0) 62 62 0) 60 60 (b2n hld) }

/-- The sequencer is to stop: it parks, when it has results or a fault to park for, and then stops (R305). -/
def Seq.stop (q : Seq) (hld : Bool) : Seq :=
  if q.held.isEmpty && q.due.isNone then { q with parkDue := false }.halt hld
  else { q with parkDue := true, stopDue := some hld }

/-- Stops it for a hold of its firing (R305). -/
def Seq.stopHeld (q : Seq) (e : Nat) : Seq := if bit q.vstat 63 && q.owner == e then q.stop true else q

/-- Stops it when its firing is given up: it parks like one that is held, and Hld is clear. A held result that waits for
one of the queue words `gone`, which it no longer takes, is dropped; a fault it has found is still reported at its park
(R304, R305). -/
def Seq.stopGone (q : Seq) (gone : List Nat) : Seq :=
  let hs := q.held.filter fun h => !(h.waits.any gone.contains)
  let q := { q with held := hs, parkDue := !hs.isEmpty || q.due.isSome }
  if bit q.vstat 63 then q.stop false else { q with stopDue := none, vstat := setFld q.vstat 60 60 0 }

/-- Resumption of the held firing sets Run again when the sequencer stopped only for its hold; one that had still to stop goes
on (R305). -/
def Seq.resume (q : Seq) (e : Nat) : Seq :=
  if q.stopDue = some true ∧ q.owner = e then { q with stopDue := none }
  else if bit q.vstat 60 && q.owner == e then { q with vstat := setFld (setFld q.vstat 60 60 0) 63 63 1 } else q

/-- A byte read as a two's complement temperature. -/
def temp8 (b : Nat) : Int := if b < 128 then b else (b : Int) - 256

/-- The temperature of a physical core: its core site's sensor (R422). -/
def State.coreTemp (s : State) (ph : Nat) : Int :=
  temp8 (fld (s.cw (tileOf ph) 0x900) (8 * (ph % 4) + 15) (8 * (ph % 4) + 8))

/-- The end of a firing of core `l` by END, YIELD or a hold: whether the device may move the core before its next firing. Its
physical core is at Tmig or above, an actor waits in its run queue, its sequencer is idle and it has not moved in the last 100 µs
(R290, R425). -/
def State.judgeMove (s : State) (l : Nat) : State :=
  let c := s.core l
  let hot : Bool := decide ((fld (s.dcw 0x0E0008) 15 8 : Int) ≤ s.coreTemp (s.phys l))
  let idle : Bool := !(bit c.seq.vstat 63) && !c.seq.parkDue
  s.setCore l { c with mayMove := isGrove l && hot && idle && !c.runq.isEmpty &&
    (c.moved == 0#64 || decide (100000 ≤ (s.time - c.moved).toNat)) }

/-- Holds the running firing: St held, Pc the resume address, and what its resumption restores, a reply of its stalled word among
it (R178, R193, R355; DESIGN CHOICE, log entry 144). -/
def Core.holdFiring (c : Core) (resume : W64) : Core :=
  let nested := c.inT
  let g := c.guard
  let c := match c.curWk with
    | some w => c.updWk w.ent fun w =>
        { w with st := .held, hpc := resume, hguard := g, hinl := c.inl, nested := nested, hwait := c.wait, hjoin := c.joined }
    | none => c
  let c := { c with rf := kput c.rf (wordKey c.cur 0) (savedStatus 2 resume) }
  { c with
    run := false, guard := {}, wait := .none, joined := none, inl := [], seq := c.seq.stopHeld c.curEnt }

/-- A Station crash: record, Why bit 5, the Station halts; Rdy falls when all eight have halted (R373, R442). -/
def State.crash (s : State) (l : Nat) : State :=
  let c := s.core l
  let r : Crash :=
    { id := l, cause := c.cause, tpc := c.tpc, tvec := c.tvec, time := s.time, svn := s.firm.svnVer, faddr := c.faddr,
      xinfo := c.xinfo, regs := (List.range 63).map fun i => c.reg (BitVec.ofNat 6 (i + 1)) }
  let s := s.setCore l { c with run := false, halted := true }
  let s := { s with
    crashes := (if s.crashes.length < 63 then s.crashes else s.crashes.drop 1) ++ [r], crashCount := s.crashCount + 1 }
  let s := s.setWhy 5
  if (List.range 8).all fun k => (s.core (0xF00 + k)).halted then { s with firm := { s.firm with rdy := false } } else s

/-- Ends the overrun of the firing of a workspace on core `l` and charges its Debt, in µs rounded up (R393). -/
def State.endOverrun (s : State) (l e : Nat) : State :=
  match s.slot.overruns.find? fun o => o.core == l && o.ent == e with
  | none => s
  | some o =>
    let us := (s.time.toNat - o.since + 999) / 1000
    let w := s.dcw (0x047000 + 8 * o.part)
    let s := s.setDcw (0x047000 + 8 * o.part) (setFld w 31 0 (satAdd (fld w 31 0) us (2 ^ 32 - 1)))
    { s with slot := { s.slot with overruns := s.slot.overruns.filter fun o => !(o.core == l && o.ent == e) } }

/-- The stalled word waits for no episode and no grant any more. -/
def Core.endWait (c : Core) : Core := { c with wait := .none }

/-- An arrival whose BAR is given up before its episode completes, or a lease request whose WLEASE is given up before its
grant, did not take effect (R307, R315, R336). -/
def State.dropArrival (s : State) (l : Nat) : State :=
  match (s.core l).wait with
  | .sent t =>
    let mine (a : BarArr) : Bool := a.core == l && a.tag == t
    let asks (w : LeaseReq) : Bool := w.core == l && w.tag == t
    if (s.teams.any fun (x : Nat × Team) => x.2.bars.any fun (b : Nat × List BarArr) => b.2.any mine) ||
        (s.clusters.any fun (c : Nat × Cluster) => c.2.waiters.any asks) then
      { s with
        teams := s.teams.map fun (x : Nat × Team) =>
          (x.1, { x.2 with bars := x.2.bars.map fun (b : Nat × List BarArr) => (b.1, b.2.filter fun a => !(mine a)) })
        clusters := s.clusters.map fun (c : Nat × Cluster) =>
          (c.1, { c.2 with waiters := c.2.waiters.filter fun w => !(asks w) }) }.updCore l Core.endWait
    else s
  | _ => s

/-- Deferred faults of the firing that has just taken one wait for its resumption (R307). -/
def Core.laterFaults (c : Core) (l : Nat) : Core :=
  { c with deferred := c.deferred.map fun f => if f.owner.id = (c.owner l).id then { f with later := true } else f }

/-- On its resumption they wait no longer. -/
def Core.nowFaults (c : Core) (l : Nat) : Core :=
  { c with deferred := c.deferred.map fun f => if f.owner.id = (c.owner l).id then { f with later := false } else f }

/-- One guard word is used up (R219). -/
def Guard.tick (g : Guard) : Guard := if g.rem ≤ 1 then {} else { g with rem := g.rem - 1 }

/-- The cause of a software trap. -/
def causeTrap : BitVec 8 := 0x01#8

/-- A software trap has used up its word of the guard window: its firing resumes at the word after (R219, R355). -/
def Core.usedTrap (c : Core) (f : Flt) : Core := if f.code = causeTrap then { c with guard := c.guard.tick } else c

/-- A fault reaches the running firing of core `l`: ONE operation for every fault of the manual (R355, R373).
`resume` is the address R355 gives it. The record that R38 asks of a bad capability is sent when the fault enters the trap
entry too (log entry 108). -/
def State.takeFault (s : State) (l : Nat) (f : Flt) (resume : W64) : State :=
  let s := s.dropArrival l
  let c0 := s.core l
  let c := ((c0.latchFault f).laterFaults l).usedTrap f
  if c.mode = .station then
    if c.inT || c.tvec == 0#64 then (s.setCore l c).crash l
    else s.setCore l (c.enterTrap resume c.tvec)
  else if c.entersTrap f then
    let s := s.setCore l (c.enterTrap resume c.trapEntry)
    if f.code = causeBadCap then s.postRecord c.part (s.faultRecord l f (c.owner l) false c.inT c.guard resume) else s
  else
    let s := s.setCore l c
    let rec_ := s.faultRecord l f (c.owner l) true c.inT c.guard resume
    (((s.updCore l fun c => c.holdFiring resume).judgeMove l).endOverrun l c.curEnt).postRecord (c.part) rec_

/-- A fault that waits for the park of its run and is none of the word's own is pending again: the firing is given up, or
another fault takes its place (R307). -/
def Core.unhold (c : Core) : Core :=
  match c.holdDue with
  | some (f, _) => { c with holdDue := none, deferred := if f.late || f.seq then f :: c.deferred else c.deferred }
  | none => c

/-- A fault found at a word: it holds the firing only after a park (R217), so a fault that will hold waits for the held
results first; one that enters a handler is taken at once. -/
def State.raise (s : State) (l : Nat) (f : Flt) (resume : W64) : State :=
  let s := s.updCore l Core.unhold
  let c := s.core l
  if c.held.isEmpty || c.entersTrap f then s.takeFault l f resume
  else s.setCore l { c with holdDue := some (f, resume), parkDue := true }

/-- Return from the running firing's handler (R360): the guard window is restored, InT cleared, the next PC is cw.tpc, and
deferred faults that waited for it may be taken. -/
def Core.trapReturn (c : Core) (l : Nat) : Core :=
  { c.nowFaults l with
    guard := { rem := fld c.tstat 9 6, sense := bit c.tstat 10, pred := bit c.tstat 11 }
    tstat := setFld c.tstat 63 63 0, pc := c.tpc }

/-- Whether the firing that a fault names has not ended: it runs, is interrupted, is held, or waits to resume. -/
def Core.alive (c : Core) (o : Owner) : Bool :=
  c.dir.any fun w => w.fid == o.id && (w.resumed || match w.st with
    | .running | .interrupted | .held => true
    | .idle | .queued => false)

/-- A fault that its firing `o` will take before its next word; when the firing has gone, its record goes to the queue of
partition `p` (R304, R307). -/
def State.giveFlt (s : State) (l : Nat) (o : Owner) (p : BitVec 6) (f : Flt) : State :=
  let c := s.core l
  let f := { f with owner := o }
  if c.alive o || isStation l then s.setCore l { c with deferred := c.deferred ++ [f] }
  else s.postRecord p (s.faultRecord l f o false false {} (Config.gonePc s.tick))

/-- Whether a firing has a deferred fault before a new one: it runs the handler of one, or others wait for its resumption
(R307). -/
def Core.faultBefore (c : Core) (o : Owner) : Bool :=
  let inHandler (e : Nat) (tstat : W64) : Bool :=
    bit tstat 63 && bit c.cause 62 && (match c.wkEnt e with | some w => w.fid == o.id | none => false)
  c.deferred.any (fun f => f.later && f.owner.id == o.id) || (c.run && inHandler c.curEnt c.tstat) ||
    c.intr.any fun i => inHandler i.ent i.tstat

/-- A deferred fault, which an acknowledgement carries: those of one firing are taken one at a time, in the order of their
acknowledgements (R307). -/
def State.deferFlt (s : State) (l : Nat) (o : Owner) (p : BitVec 6) (f : Flt) : State :=
  s.giveFlt l o p { f with late := true, later := (s.core l).faultBefore o }

/-- A fault of the sequencer's own stream: it stops with Flt and Cause, for good even if a hold had stopped it, and the
fault waits for the control thread (R304). The word stays at cw.vpc. -/
def State.seqFault (s : State) (l : Nat) (f : Flt) : State :=
  let s := s.updCore l fun c =>
    { c with seq := { c.seq with
        vstat := setFld (setFld (setFld (setFld (setFld c.seq.vstat 63 63 0) 62 62 0) 61 61 1) 60 60 0) 51 44 f.code.toNat
        stopDue := none } }
  s.giveFlt l (s.core l).seq.firing (s.core l).part { f with seq := true }

/-- The sequencer of an interrupted firing goes on under that firing's mode, context and workspace (R45, R385). -/
def State.seqEnter (s : State) (l : Nat) : State :=
  let c := s.core l
  if c.intr.any (·.ent == c.seq.owner) then
    match c.wkEnt c.seq.owner with
    | some w => s.setCore l { c with
        mode := w.mode, xctx := mkWord [(10, w.part.toNat), (0, w.ctx.toNat)], cur := w.place.getD 0 }
    | none => s
  else s

/-- After its turn the core is the running firing's again; `c` is the core before. -/
def State.seqLeave (s : State) (l : Nat) (c : Core) : State :=
  if c.intr.any (·.ent == c.seq.owner) then s.updCore l fun k => { k with mode := c.mode, xctx := c.xctx, cur := c.cur }
  else s

/-- A fault found at a word of the sequencer: it parks before it stops for it (R296, R304). -/
def State.seqTrap (s : State) (l : Nat) (f : Flt) : State :=
  if (s.core l).seq.held.isEmpty then s.seqFault l f
  else s.updCore l fun c => { c with seq := { c.seq with parkDue := true, due := some f } }

/-! ### Events counted (R253, R364) -/

/-- Adds `n` of event `code` to every counter that selects it (R364). -/
def Core.countEv (c : Core) (code n : Nat) : Core :=
  if n = 0 then c
  else
    { c with ev := (List.range 8).foldl (fun e i =>
        if fld c.evsel (4 * i + 3) (4 * i) = code then
          kput e i (BitVec.ofNat 32 (satAdd (kget e i 0#32).toNat n (2 ^ 32 - 1)))
        else e) c.ev }

def State.countEv (s : State) (l code n : Nat) : State := s.updCore l fun c => c.countEv code n

/-! ### Parks (R215 to R218, R296) -/

/-- The value that returned words give a destination. -/
def extVal (e : Ext) (vals : List W64) : W64 :=
  match e with
  | .raw => vals.getD 0 0#64
  | .zero n => lowBits (vals.getD 0 0#64) n
  | .sign n => sextN (vals.getD 0 0#64) n
  | .elems _ => vals.getD 0 0#64

/-- Elements of a width packed in ascending order (R237). -/
def packElems (bits : Nat) (vals : List W64) : V512 :=
  BitVec.ofNat 512 ((vals.zipIdx).foldl (fun a p => a + (p.1.toNat % 2 ^ bits) * 2 ^ (bits * p.2)) 0)

/-- Replaces 64-bit element `j` of a vector. -/
def setElem64 (v : V512) (j : Nat) (x : W64) : V512 :=
  let m : V512 := BitVec.ofNat 512 ((2 ^ 64 - 1) <<< (64 * j))
  (v &&& ~~~m) ||| BitVec.ofNat 512 (x.toNat <<< (64 * j))

def Seq.vreg (q : Seq) (n : Nat) : V512 := kget q.v n 0#512

/-- All the words a held result waits for, when they have come back; with the first fault one of them carries. -/
def Core.heldVals (c : Core) (h : Held) : List W64 × Option Flt :=
  h.waits.foldl (fun (a : List W64 × Option Flt) n =>
    match kfind c.ret n with
    | some r => (a.1 ++ r.vals, a.2 <|> r.flt)
    | none => a) (h.vals, none)

def Core.heldReady (c : Core) (h : Held) : Bool := h.waits.all fun n => (kfind c.ret n).isSome

/-- Writes one held result to its destination, with the flags and events recorded at the park (R256, R277). -/
def Core.writeHeld (c : Core) (h : Held) : Core × Option Flt :=
  let (vals, flt) := c.heldVals h
  let c := { c with ret := h.waits.foldl kdel c.ret }
  match flt with
  | some f => (c, some { f with word := h.word })
  | none =>
    let c := match h.dest with
      | .reg d => { c.setReg d (extVal h.ext vals) with fflags := c.fflags ||| h.fflags }
      | .pair d =>
        let c' := (c.setReg d (vals.getD 0 0#64)).setReg (pairHi d) (vals.getD 1 0#64)
        { c' with fflags := c.fflags ||| h.fflags }
      | .vec d =>
        let v := match h.ext with
          | .elems b => packElems b vals
          | .raw | .zero _ | .sign _ => packElems 64 vals
        { c with seq := { c.seq with
            v := kput c.seq.v d v, vstat := c.seq.vstat ||| BitVec.ofNat 64 h.fflags.toNat } }
      | .vecWord d j =>
        { c with seq := { c.seq with v := kput c.seq.v d (setElem64 (c.seq.vreg d) j (vals.getD 0 0#64)) } }
    (h.events.foldl (fun c e => c.countEv e 1) c, none)

/-- Writes every held result in issue order; the faults that results carry are collected (R215, R218). -/
def Core.writeAll (c : Core) : List Held → Core × List Flt
  | [] => (c, [])
  | h :: t =>
    let (c, f) := c.writeHeld h
    let (c, fs) := c.writeAll t
    (c, f.toList ++ fs)

/-- Whether a stream's park can be taken: every held result has returned (R215). -/
def Core.parkReady (c : Core) (seq : Bool) : Bool := (if seq then c.seq.held else c.held).all c.heldReady

/-- Faults that returned results carried and that are not taken at their park wait for the resumption (R218, R307, log
entry 36). -/
def Core.keepFaults (c : Core) (l : Nat) (fs : List Flt) : Core :=
  { c with deferred := (fs.map fun f => { f with owner := c.owner l, later := true }) ++ c.deferred }

/-- The park of the control thread: results written, then a fault that a result carried, or the fault that waited for
this park, is taken (R215, R217, R218). Where both are there, a fault found at the word is left, since the word issues
again, and a deferred one waits. -/
def State.parkCtl (s : State) (l : Nat) : State :=
  let c := s.core l
  if !(c.parkReady false) then s
  else
    let (c', fs) := ({ c with held := [], parkDue := false } : Core).writeAll c.held
    match fs, c.holdDue with
    | f :: rest, h =>
      let waits := match h with | some (d, _) => if d.late || d.seq then [d] else [] | none => []
      (s.setCore l ({ c' with holdDue := none }.keepFaults l (rest ++ waits))).takeFault l f c.pc
    | [], some (f, r) => (s.setCore l { c' with holdDue := none }).takeFault l f r
    | [], none => s.setCore l c'

/-- Whether what the sequencer's held results still wait for is nothing but words of its queues, which a sequencer that is to
stop takes no more (R305). -/
def Core.queueOnly (c : Core) : Bool :=
  c.seq.held.all fun h => h.waits.all fun n =>
    (kfind c.ret n).isSome || c.acc.any fun a => a.n == n && a.party == .seq && (match a.kind with | .qpop _ => true | _ => false)

/-- A sequencer that a hold is to stop, and whose results wait only for words that it no longer takes, stops with them (R305). -/
def Core.haltSeq (c : Core) : Core :=
  if c.seq.stopDue = some true ∧ c.queueOnly then { c with seq := c.seq.halt true } else c

/-- The stop that waited for the sequencer's park (R305). -/
def Core.afterPark (c : Core) : Core :=
  match c.seq.stopDue with
  | some hld => { c with seq := c.seq.halt hld }
  | none => c

/-- The park of the sequencer (R296): a fault a result carried stops it, else the fault found at its word does (R218,
R304), else a stop that waited for it is made (R305). -/
def State.parkSeq (s : State) (l : Nat) : State :=
  let c := s.core l
  if !(c.parkReady true) then s.setCore l c.haltSeq
  else
    let (c', fs) := ({ c with seq := { c.seq with held := [], parkDue := false, due := none } } : Core).writeAll c.seq.held
    match fs, c.seq.due with
    | f :: rest, _ => rest.foldl (fun s f => s.giveFlt l c.seq.firing c.part { f with seq := true, later := true })
        ((s.setCore l c').seqFault l f)
    | [], some f => (s.setCore l c').seqFault l f
    | [], none => s.setCore l c'.afterPark

/-! ### Issue of a word (R215 to R220, R229) -/

/-- What a word's own effect comes to: done, control moved to an address, not issued yet (it issues again), a fault
(with its resume address, when that is not the word itself), or the firing gone. -/
inductive Out where
  | done (s : State)
  | jump (s : State) (pc : W64)
  | stall (s : State)
  | trap (s : State) (f : Flt)
  | trapAt (s : State) (f : Flt) (resume : W64)
  | gone (s : State)

/-- A fault with only a cause. -/
def flt (code : BitVec 8) : Flt := { code := code }
/-- A fault with its address (cw.faddr). -/
def fltAt (code : BitVec 8) (a : W64) : Flt := { code := code, faddr := some a }

def causeIllegal : BitVec 8 := 0x02#8
def causePrivilege : BitVec 8 := 0x03#8
def causeReserved : BitVec 8 := 0x04#8
def causeOutOfWs : BitVec 8 := 0x05#8
def causeAlign : BitVec 8 := 0x06#8
def causeAddress : BitVec 8 := 0x07#8
def causeRange : BitVec 8 := 0x09#8
def causeXlat : BitVec 8 := 0x0A#8
def causeStale : BitVec 8 := 0x0D#8
def causeNotArmed : BitVec 8 := 0x0E#8
def causeOverwrite : BitVec 8 := 0x0F#8
def causeMailbox : BitVec 8 := 0x10#8
def causeRefused : BitVec 8 := 0x11#8
def causeWain : BitVec 8 := 0x12#8
def causeFormat : BitVec 8 := 0x13#8
def causeWatchdog : BitVec 8 := 0x14#8

/-- How a word is issued: the stream it belongs to, the least mode, whether it is long-latency, whether it parks first
(R217), the general registers it names (R183) and those it reads (R196); `array` words are illegal on a Station core. -/
structure Issue where
  strm : Stream := .ctl
  array : Bool := false
  least : Mode := .firing
  long : Bool := false
  park : Bool := false
  names : List R6 := []
  reads : List R6 := []

/-- The end of a word that took effect: the next PC, the guard window, and the run's end at a marker (R212, R215,
R219). -/
def Core.finish (c : Core) (m jumped : Bool) (pc : W64) : Core :=
  { c with
    pc := pc, guard := if jumped then {} else c.guard.tick
    parkDue := c.parkDue || (m && !c.held.isEmpty), wait := .none }

def Seq.finish (q : Seq) (m : Bool) (pc : W64) : Seq :=
  { q with vpc := pc, vstat := setFld q.vstat 62 62 0, parkDue := q.parkDue || (m && !q.held.isEmpty) }

/-- Ends a word of the control thread by what its effect came to. -/
def endCtl (l : Nat) (m : Bool) : Out → State
  | .done s => s.updCore l fun c => c.finish m false (c.pc + 4#64)
  | .jump s pc => s.updCore l fun c => c.finish m true pc
  | .stall s => s
  | .trap s f => let c := s.core l; s.raise l { f with word := c.curWord } c.pc
  | .trapAt s f r => let c := s.core l; s.raise l { f with word := c.curWord } r
  | .gone s => s

/-- Ends a word of the sequencer. -/
def endSeq (l : Nat) (m : Bool) : Out → State
  | .done s => s.updCore l fun c => { c with seq := c.seq.finish m (c.seq.vpc + 4#64) }
  | .jump s pc => s.updCore l fun c => { c with seq := c.seq.finish m pc }
  | .stall s => s.updCore l fun c => { c with seq := { c.seq with vstat := setFld c.seq.vstat 62 62 1 } }
  | .trap s f => s.seqTrap l { f with word := (s.core l).seq.curWord }
  | .trapAt s f _ => s.seqTrap l { f with word := (s.core l).seq.curWord }
  | .gone s => s

def modeGe (a b : Mode) : Bool := modeCode b ≤ modeCode a

/-- The checks of R229 at orders 3 to 5: stream, mode, allotment. The decoder has made orders 1 and 2. -/
def issueCheck (i : Issue) (mv : Mover) (c : Core) : Option Flt :=
  if mv.strm ≠ i.strm ∨ (i.array && isStation mv.core) then some (flt causeIllegal)
  else if !(modeGe c.mode i.least) then some (flt causePrivilege)
  else if i.names.any fun r => decide (c.allot ≤ r.toNat) then some (flt causeOutOfWs)
  else none

/-- The operands of a word come out of the register cache; the fault where a fill meets a double-bit error (R72, R180). -/
def State.operands (s : State) (l : Nat) (rs : List R6) : State × Option Flt :=
  match s.fillRegs l rs with
  | (s, some a) => (s, some { code := causeData, faddr := some (BitVec.ofNat 64 a) })
  | (s, none) => (s, none)

/-- A word of the control thread that passed the checks: suppressed by its guard window, or parked before, or stalled on
an armed register, or executed (R196, R217, R220). -/
def runCtl (i : Issue) (m : Bool) (l : Nat) (s : State) (body : State → Nat → Out) : State :=
  let c := s.core l
  if 0 < c.guard.rem && c.guard.pred != c.guard.sense then endCtl l m (.done s)
  else if (i.long && 32 ≤ c.held.length) || (i.park && !c.held.isEmpty) then s.setCore l { c with parkDue := true }
  else if i.reads.any c.isArmed then s
  else
    match s.operands l i.reads with
    | (s, some f) => endCtl l m (.trap s f)
    | (s, none) => endCtl l m (body (s.updCore l fun c => i.reads.foldl Core.consume c) l)

/-- A word of the sequencer that passed the checks (R296). -/
def runSeq (i : Issue) (m : Bool) (l : Nat) (s : State) (body : State → Nat → Out) : State :=
  let c := s.core l
  if (i.long && 32 ≤ c.seq.held.length) || (i.park && !c.seq.held.isEmpty) then
    s.setCore l { c with seq := { c.seq with parkDue := true } }
  else
    match s.operands l i.reads with
    | (s, some f) => endSeq l m (.trap s f)
    | (s, none) => endSeq l m (body s l)

/-- Issues a word in the stream that the mover names: the checks in the order of R229, then its effect. -/
def issueWord (i : Issue) (m : Bool) (s : State) (body : State → Nat → Out) : State :=
  let l := s.mover.core
  match issueCheck i s.mover (s.core l) with
  | some f => (if s.mover.strm = .ctl then endCtl l m else endSeq l m) (.trap s f)
  | none => if s.mover.strm = .ctl then runCtl i m l s body else runSeq i m l s body

/-- The same, as the answer of `exec`. -/
def issue (i : Issue) (m : Bool) (s : State) (body : State → Nat → Out) : Host.Outcome State Fault Refusal :=
  .next (issueWord i m s body)

/-- A word that writes one register with a value of the state it issues in. -/
def writes (d : R6) (val : State → Nat → W64) : State → Nat → Out := fun s l => .done (s.setReg l d (val s l))

/-- Holds a result aside until the park of the run (R215, R296). -/
def State.holdResult (s : State) (l : Nat) (h : Held) : State :=
  s.updCore l fun c => { c with held := c.held ++ [{ h with word := c.curWord }] }
def State.holdVec (s : State) (l : Nat) (h : Held) : State :=
  s.updCore l fun c => { c with seq := { c.seq with held := c.seq.held ++ [{ h with word := c.seq.curWord }] } }

/-- An event that happened, or did not because it was not due: either way the machine goes on. -/
def event (s : State) : Host.Outcome State Fault Refusal := .next s

end Sys2Proof.Machine
end

