-- ==== Sys2Proof/Machine/Operands.lean ====
section
/-! DEFINITION. Operand forms that name storage: well-formed fabric addresses, who may use a class, which bytes a
partition holds, the range-lock table, and CheckAccess (R14, R15, R39, R40, R43, R85, R86, R147, R268, R269). -/

namespace Sys2Proof.Machine

/-- The address `gA + SignExtend(imm12)` (R267). -/
def effAddr (x : W64) (i : BitVec 12) : W64 := x + i.signExtend 64

def clsOf (a : W64) : Nat := fld a 63 60

/-- Size in bytes of a typed buffer of a cluster: W-buffer or A-buffer (R77). -/
def bufSize (cl : Nat) (w : Bool) : Nat :=
  if cl < 0x80 then (if w then 2 ^ 19 else 2 ^ 18) else if cl < 0x84 then (if w then 2 ^ 21 else 2 ^ 19) else 0

/-! ### Mailbox objects as an address names them (R158, R159) -/

def State.objCfg (s : State) (n : Nat) : W64 := s.dcw (0x060000 + 64 * n)
def objEn (w : W64) : Bool := bit w 63
def objPart (w : W64) : Nat := fld w 53 48
def objSlots (w : W64) : Nat := fld w 43 39
def objLimit (w : W64) : Nat := fld w 47 44
def objSize (w : W64) : Nat := fld w 16 0
def objStride (w : W64) : Nat := (objSize w + 63) / 64 * 64
/-- MBM byte of slot `k` (R158). -/
def objByte (w : W64) (k : Nat) : Nat := fld w 38 28 * 4096 + k * objStride w
/-- An object's run-time state; Follow is set while the device follows and the object has Mirror set (R159). -/
def State.obj (s : State) (n : Nat) : Obj := { kget s.objs n {} with follow := s.flw && bit (s.objCfg n) 62 }
def State.setObj (s : State) (n : Nat) (o : Obj) : State := { s with objs := kput s.objs n o }

/-! ### Well formed (R15) -/

def targetOk (t : Nat) : Bool :=
  t < 0x840 || (0xC00 ≤ t && t < 0xC40) || (0xD00 ≤ t && t < 0xD20) || (0xE00 ≤ t && t < 0xE84) ||
    (0xF00 ≤ t && t < 0xF08) || t == 0xFFF

/-- Whether an access of `n` bytes is well formed; the class is 0x0 to 0x8 (R15). -/
def State.wellFormed (s : State) (a : W64) (n : Nat) : Bool :=
  let hi := fld a 59 48
  let lo := fld a 47 0
  match clsOf a with
  | 0 => hi == 0 && decide (lo + n ≤ 2 ^ 48)
  | 1 => hi < 0x840 && decide (lo + n ≤ 0x20000)
  | 2 => hi < 0x840 && fld a 19 9 == 0 && fld a 2 0 == 0 && fld a 8 3 != 0 && decide (fld a 8 0 + n ≤ 512)
  | 3 => decide (lo + n ≤ bufSize hi true)
  | 4 => decide (lo + n ≤ bufSize hi false)
  | 5 =>
    let w := s.objCfg (fld a 41 32)
    hi == 0 && fld a 47 42 == 0 && fld a 31 20 == 0 && objEn w && fld a 19 16 < objSlots w &&
      decide (fld a 15 0 + n ≤ objSize w)
  | 6 => hi == 0 && decide (lo + n ≤ 0x2600000)
  | 7 => targetOk hi && decide (lo + n ≤ 2 ^ 24)
  | 8 => fld a 59 57 < 2 && decide (fld a 56 0 + n ≤ 2 ^ 57)
  | _ => false

/-- The home of an address and the key of its first byte (R17, R126). -/
def State.homeOf (s : State) (a : W64) : Home × Nat :=
  let hi := fld a 59 48
  let lo := fld a 47 0
  match clsOf a with
  | 0 => (.mem, lo)
  | 1 => (.lm (tileOf hi), lmKey (tileOf hi) lo)
  | 2 => (.ws hi, a.toNat)
  | 3 => (.wbuf hi, clsBase 3 + hi <<< 48 + lo)
  | 4 => (.abuf hi, clsBase 4 + hi <<< 48 + lo)
  | 5 => (.mbm, clsBase 5 + objByte (s.objCfg (fld a 41 32)) (fld a 19 16) + fld a 15 0)
  | 6 => (.sram, clsBase 6 + lo)
  | 7 => (.ctl, a.toNat)
  | _ => (.foreign, clsBase 8 + fld a 59 0)

/-! ### Who may use a class (R39) -/

/-- The parties of R39. -/
inductive Party where
  | thread | dray | wain | tender
  deriving DecidableEq, Repr

/-- Whether a partition holds a cluster by a seizure that is not being ended (R41). -/
def State.seizedBy (s : State) (p cl : Nat) : Bool := (s.clu cl).seized == some p && !(s.clu cl).ceding

/-- Whether storage of cluster `cl` is in reach of an issuer: its own array, or seized by its partition (R39). -/
def State.reach (s : State) (l : Nat) (p : BitVec 6) (cl : Nat) : Bool :=
  if isStation l then true
  else if isGrove l then cl < 0x80
  else 0x80 ≤ cl || s.seizedBy p.toNat cl

/-- R39's table: whether the party of core `l` may read or write a class. -/
def State.mayUse (s : State) (l : Nat) (p : BitVec 6) (party : Party) (a : W64) (wr : Bool) : Bool :=
  let c := clsOf a
  let hi := fld a 59 48
  let cl := if c = 1 then clusterOf hi else hi
  let grove := isGrove l
  let near := s.reach l p cl
  match party with
  | .thread =>
    match c with
    | 0 => !(isClearing l)
    | 1 => near
    | 3 => near && !wr
    | 4 => near
    | 5 => true
    | 6 => !grove
    | 7 => true
    | 8 => !(isClearing l)
    | _ => false
  | .dray =>
    match c with
    | 0 => grove
    | 1 => near
    | 3 => near && wr
    | 4 => near
    | 5 => !wr
    | 6 => !grove
    | 8 => grove
    | _ => false
  | .wain =>
    match c with
    | 0 => grove && !wr
    | 1 | 3 | 4 => near && !wr
    | 6 => !grove && !wr
    | _ => false
  | .tender =>
    match c with
    | 0 => grove && wr
    | 1 | 4 => near && wr
    | 6 => !grove && wr
    | _ => false

/-! ### What a partition holds (R40, R84 to R90, R464) -/

/-- The interval a core lies in: a partition's home interval, or 64 + c for common interval c. -/
def State.ivalOf (s : State) (l : Nat) : Option Nat :=
  match (List.range 64).find? fun p => s.isHome p l with
  | some p => some p
  | none => ((List.range 4).find? fun c => inIval (s.commonIval c) l).map (64 + ·)

/-- Whether an interval belongs to a partition now. -/
def State.ivalHeld (s : State) (i p : Nat) : Bool := i == p || (64 ≤ i && s.slot.holder == some p)

/-- A window word names granules that a partition holds now (R86, R464). -/
def State.winHeld (s : State) (w : W64) (p : Nat) : Bool :=
  bit w 63 && (if bit w 62 then s.slot.holder == some p else fld w 53 48 == p)

def winCovers (w : W64) (g : Nat) : Bool := decide (fld w 7 0 ≤ g) && decide (g < fld w 7 0 + fld w 23 16)

/-- The granules of a structure a partition holds through windows: at most `lim`, the lowest first (R464). -/
def State.heldGranules (s : State) (wins : List W64) (p lim total : Nat) : List Nat :=
  ((List.range total).filter fun g => wins.any fun w => s.winHeld w p && winCovers w g).take lim

/-- Whether a partition holds `n` bytes from `off` of a structure shared by the cores `cs`: whole, split or none (R85).
`wins` are its window words, `gran` the granule, `lim` the limit in granules. -/
def State.holdsBytes (s : State) (p : Nat) (cs : List Nat) (wins : List W64) (gran lim total off n : Nat) : Bool :=
  let is := cs.map s.ivalOf
  match is.head? with
  | none => false
  | some i0 =>
    if is.all (· == none) then false
    else if is.all (· == i0) then
      match i0 with
      | some i => s.ivalHeld i p && decide (off + n ≤ min lim total * gran)
      | none => false
    else
      let held := s.heldGranules wins p lim total
      let g0 := off / gran
      let g1 := (off + n - 1) / gran
      (List.range (g1 - g0 + 1)).all fun k => held.contains (g0 + k)

def State.limOf (s : State) (p hi lo : Nat) : Nat := fld (s.dcw (0x040000 + 8 * p)) hi lo

def tileCores (tile : Nat) : List Nat := (List.range 4).map (tile + ·)
def clusterCores (cl : Nat) : List Nat := (List.range 16).map (16 * cl + ·)

/-- LM bytes of a tile's data region that a partition holds (R85). -/
def State.holdsLm (s : State) (p tile off n : Nat) : Bool :=
  decide (off + n ≤ 0x18000) &&
  (match (s.clu (clusterOf tile)).seized with
   | some q => q == p && !(s.clu (clusterOf tile)).ceding
   | none =>
     s.holdsBytes p (tileCores tile) ((List.range 4).map fun w => s.cw tile (0x1000 + 8 * w)) 4096
       (s.limOf p 21 16) 24 off n)

/-- Typed-buffer bytes that a partition holds (R85, R88). -/
def State.holdsBuf (s : State) (p cl : Nat) (w : Bool) (off n : Nat) : Bool :=
  match (s.clu cl).seized with
  | some q => q == p && !(s.clu cl).ceding
  | none =>
    let gran := if w then 16384 else 8192
    let lim0 := if w then s.limOf p 35 28 else s.limOf p 43 36
    let lim := if cl < 0x80 then min lim0 32 else lim0
    s.holdsBytes p (clusterCores cl)
      ((List.range 4).map fun k => s.cw (0xE00 + cl) ((if w then 0x2000 else 0x2040) + 8 * k)) gran lim
      (bufSize cl w / gran) off n

/-- A partition's locked-SRAM range word `i` (R84). -/
def State.sramRange (s : State) (p i : Nat) : W64 := s.dcw (0x041000 + 32 * p + 8 * i)

/-- Locked-SRAM bytes inside a partition's ranges: each granule in one of them (R84). -/
def State.holdsSram (s : State) (p off n : Nat) : Bool :=
  let g0 := off / 65536
  (List.range ((off + n - 1) / 65536 - g0 + 1)).all fun k => (List.range 4).any fun i =>
    let w := s.sramRange p i
    bit w 63 && decide (fld w 9 0 ≤ g0 + k) && decide (g0 + k < fld w 9 0 + fld w 25 16)

/-- R40: the access falls within storage its partition holds; hypervisor and station mode bypass the check. -/
def State.holds (s : State) (p : BitVec 6) (mode : Mode) (a : W64) (n : Nat) : Bool :=
  if modeGe mode .hypervisor then true
  else
    let hi := fld a 59 48
    match clsOf a with
    | 1 => s.holdsLm p.toNat (tileOf hi) (fld a 47 0) n
    | 3 => s.holdsBuf p.toNat hi true (fld a 47 0) n
    | 4 => s.holdsBuf p.toNat hi false (fld a 47 0) n
    | 5 => objPart (s.objCfg (fld a 41 32)) == p.toNat
    | 6 => s.holdsSram p.toNat (fld a 47 0) n
    | _ => true

/-- Every core of a tile is retired (R31). -/
def State.deadTile (s : State) (tile : Nat) : Bool := (tileCores tile).all s.retired

/-! ### Range locks (R146, R147) -/

/-- The address as the range-lock table compares it: class 0x1 without bits 49:48. -/
def rlAddr (a : W64) : Nat := if clsOf a = 1 then fld a 59 50 <<< 50 + fld a 47 0 else fld a 59 0

/-- Whether an access hits a locked range: any byte of a destination, or a write to a source (R147). -/
def Core.rangeHit (c : Core) (a : W64) (n : Nat) (wr : Bool) : Bool :=
  c.rlk.any fun r => r.part == c.part && r.ctx == c.ctx && r.cls == clsOf a && (!r.src || wr) &&
    decide (r.lo < rlAddr a + n) && decide (rlAddr a < r.hi)

/-! ### Slot state of class 0x5 (R161) -/

def mpEq (a b : MParty) : Bool := a == b

/-- Whether a payload access of a party is admitted. -/
def Obj.admits (o : Obj) (q : MParty) (slot : Nat) (wr : Bool) : Bool :=
  match kfind o.slots slot with
  | some .reserved => o.resv == some (slot, q)
  | some (.committed _ _ _) => !wr && o.pins.any fun p => p.1 == q && p.2.1 == slot
  | none => false

/-! ### CheckAccess (R43, R269) -/

/-- Where a checked access goes: its home, key, whether it is no-allocate, and the TLB entry's page. -/
structure Target where
  home : Home
  key : Nat
  na : Bool := false
  tlb : Option (Nat × Nat) := none
  deriving DecidableEq, Repr

/-- How an access is to be checked; `only` says which address classes the instruction takes beyond R39. -/
structure Want where
  acc : XAcc
  n : Nat
  align : Nat := 1
  party : Party := .thread
  locks : Bool := true
  only : Nat → Bool := fun _ => true

/-- Orders 1 to 5 of R43 for an access of `n` bytes. -/
def State.checkClass (s : State) (l : Nat) (p : BitVec 6) (mode : Mode) (party : Party) (wr : Bool) (a : W64) (n : Nat) :
    Option Flt :=
  if 9 ≤ clsOf a then some (fltAt causeAddress a)
  else if !(s.wellFormed a n) then some (fltAt causeAddress a)
  else if clsOf a = 7 ∧ !(modeGe mode .hypervisor) ∧ party = .thread then some (fltAt causePrivilege a)
  else if !(s.mayUse l p party a wr) then some (fltAt causeAccess a)
  else if clsOf a = 1 ∧ s.deadTile (tileOf (fld a 59 48)) then some (fltAt causeAccess a)
  else if clsOf a = 1 ∧ party ≠ .thread ∧ 0x18000 < fld a 47 0 + n then some (fltAt causeAccess a)
  else if !(s.holds p mode a n) then some (fltAt causeAccess a)
  else none

/-- A translation fault as the fault of the access (R57). -/
def xlatFlt (f : XFault) (acc : XAcc) (ctx : BitVec 10) (a : W64) : Flt :=
  { code := causeXlat, faddr := some a, xinfo := some (f.word acc ctx) }

/-- R268's restrictions by class, beyond R39 and R40. -/
def State.classCond (s : State) (acc : XAcc) (a : W64) (n : Nat) : Bool :=
  match clsOf a with
  | 3 => acc != .atomic
  | 4 => acc != .atomic
  | 7 => (n == 4 || n == 8) && acc != .atomic
  | 8 => fld a 59 57 == 0 || (s.up && !s.flw)
  | _ => true

/-- CheckAccess of a thread of core `l` under partition, context and mode (R269), with the translation it is to settle. -/
def State.checkLater (s : State) (l : Nat) (p : BitVec 6) (ctx : BitVec 10) (mode : Mode) (w : Want) (a : W64) :
    State × Except Flt (Target × Option XOk) :=
  let wr := w.acc.writes
  match s.checkClass l p mode w.party wr a w.n with
  | some f => (s, .error f)
  | none =>
    if a.toNat % w.align ≠ 0 then (s, .error (fltAt causeAlign a))
    else if w.locks && (s.core l).rangeHit a w.n wr then (s, .error (fltAt causeRange a))
    else if !(w.only (clsOf a)) then (s, .error (fltAt causeAccess a))
    else
      let (h, k) := s.homeOf a
      if clsOf a = 0 then
        match s.xlate l p ctx mode w.acc (fld a 47 0) with
        | (s, .error f) => (s, .error (xlatFlt f w.acc ctx a))
        | (s, .ok r) => (s, .ok ({ home := .mem, key := r.pa, na := r.na, tlb := some (r.ent.va, r.ent.size) }, some r))
      else if clsOf a = 5 ∧ !((s.obj (fld a 41 32)).admits (.core l) (fld a 19 16) wr) then
        (s, .error (fltAt causeMailbox a))
      else if !(s.classCond w.acc a w.n) then (s, .error (fltAt causeAccess a))
      else (s, .ok ({ home := h, key := k }, none))

/-- CheckAccess of an access of one page (R269). -/
def State.checkAs (s : State) (l : Nat) (p : BitVec 6) (ctx : BitVec 10) (mode : Mode) (w : Want) (a : W64) :
    State × Except Flt Target :=
  match s.checkLater l p ctx mode w a with
  | (s, .error f) => (s, .error f)
  | (s, .ok (t, r)) => (s.settleAll l p ctx w.acc r.toList, .ok t)

/-- CheckAccess for the running firing of core `l`. -/
def State.check (s : State) (l : Nat) (w : Want) (a : W64) : State × Except Flt Target :=
  let c := s.core l
  s.checkAs l c.part c.ctx c.mode w a

/-- CheckAccess for the running firing of core `l` of a record that may reach a second page of class 0x0: where its bytes lie,
piece by piece. A page that faults leaves no AF or D on the other (R44, R58). -/
def State.checkSpan (s : State) (l : Nat) (w : Want) (a : W64) : State × Except Flt (List (Target × Nat)) :=
  let c := s.core l
  let n1 := min w.n (4096 - a.toNat % 4096)
  match s.checkLater l c.part c.ctx c.mode w a with
  | (s, .error f) => (s, .error f)
  | (s, .ok (t, r)) =>
    if clsOf a ≠ 0 ∨ n1 = w.n then (s.settleAll l c.part c.ctx w.acc r.toList, .ok [(t, w.n)])
    else
      match s.xlate l c.part c.ctx c.mode w.acc (fld a 47 0 + n1) with
      | (s, .error f) => (s, .error (xlatFlt f w.acc c.ctx a))
      | (s, .ok q) =>
        (s.settleAll l c.part c.ctx w.acc (r.toList ++ [q]), .ok [(t, n1), ({ home := .mem, key := q.pa, na := q.na }, w.n - n1)])

/-- The check of an instruction fetch (R211, R39, R40, R54): the key of the word, and whether its translation sets NA
(R106). A PC of a class that holds no code is the access fault, whatever else is wrong with it. -/
def State.checkFetch (s : State) (l : Nat) (pc : W64) : State × Except Flt (Nat × Bool) :=
  let c := s.core l
  if pc.toNat % 4 ≠ 0 then (s, .error (fltAt causeAlign pc))
  else if isStation l then (s, .ok (stationKey (fld pc 47 0), false))
  else if ¬ (clsOf pc = 0 ∨ clsOf pc = 1 ∨ clsOf pc = 6) then (s, .error (fltAt causeAccess pc))
  else if !(s.wellFormed pc 4) then (s, .error (fltAt causeAddress pc))
  else
    let own := clsOf pc = 1 ∧ tileOf (fld pc 59 48) = tileOf l
    let ok := (clsOf pc = 0 ∧ isGrove l) ∨ own ∨ (clsOf pc = 6 ∧ isClearing l)
    if ¬ ok then (s, .error (fltAt causeAccess pc))
    else if !(s.holds c.part c.mode pc 4) ∨ (clsOf pc = 1 ∧ 0x18000 < fld pc 47 0 + 4) then
      (s, .error (fltAt causeAccess pc))
    else if clsOf pc = 0 then
      match s.translate l c.part c.ctx c.mode .fetch (fld pc 47 0) with
      | (s, .error f) => (s, .error (xlatFlt f .fetch c.ctx pc))
      | (s, .ok r) => (s, .ok (r.pa, r.na))
    else (s, .ok ((s.homeOf pc).2, false))

end Sys2Proof.Machine
end

