-- ==== Sys2Proof/Machine/Order.lean ====
section
/-! DEFINITION. Accesses a thread has issued, their scopes, and what may be performed when (chapter 05). An access stays
in its core's list until it is performed (a read) or acknowledged (a write). -/

namespace Sys2Proof.Machine

/-- Accesses that read, and accesses that write, as FENCE counts them (R136). -/
def AccKind.isRead : AccKind → Bool
  | .load | .atomic _ | .mpub | .mread | .mreadv | .qpop _ | .flgtst _ => true
  | .store | .mcommit | .munpin | .mreclaim | .remote | .qpush _ | .flgset _ _ | .vstart | .fence _ _ => false

def AccKind.isWrite (k : AccKind) : Bool := k.counts

/-- cw.out (R132). -/
def Core.out (c : Core) : Nat := c.acc.countP fun a => a.kind.counts

/-- Whether a home lies inside the scope instance of core `l` (R126, R127). -/
def insideScope (l : Nat) (scope : BitVec 3) (h : Home) : Bool :=
  let sc := scope.toNat
  match h with
  | .inCore => true
  | .lm t => 1 ≤ sc && ((sc == 1 && t == tileOf l) || (sc == 2 && clusterOf t == clusterOf l) ||
      (sc == 3 && (isGrove t == isGrove l) && !(isStation l)) || 4 ≤ sc)
  | .ws k => 1 ≤ sc && ((sc == 1 && tileOf k == tileOf l) || (sc == 2 && clusterOf k == clusterOf l) ||
      (sc == 3 && (isGrove k == isGrove l) && !(isStation l)) || 4 ≤ sc)
  | .wbuf c => (sc == 2 && c == clusterOf l) || (sc == 3 && (decide (c < 0x80) == isGrove l) && !(isStation l)) || 4 ≤ sc
  | .abuf c => (sc == 2 && c == clusterOf l) || (sc == 3 && (decide (c < 0x80) == isGrove l) && !(isStation l)) || 4 ≤ sc
  | .sram => (sc == 3 && isClearing l) || 4 ≤ sc
  | .mem => 4 ≤ sc
  | .mbm => 4 ≤ sc
  | .ctl => 4 ≤ sc
  | .foreign => 5 ≤ sc

/-- The bytes an access touches from its key on: ADDZ has its notify word beside the counter (R308). -/
def Acc.span (a : Acc) : Nat := if a.kind = .atomic .addz then 16 else a.len

/-- Two accesses that touch one location (R125). -/
def Acc.overlaps (a b : Acc) : Bool :=
  a.home == b.home && decide (a.key < b.key + b.span) && decide (b.key < a.key + a.span)

/-- The accesses of a stream that a release at a scope must wait for (R135, R138): every earlier one whose home lies
inside the scope and that is not yet performed, or not yet acknowledged; a FENCE is no access. -/
def Core.releaseWaits (c : Core) (l : Nat) (p : Stream) (scope : BitVec 3) : List Nat :=
  (c.acc.filter fun a => a.party == p && insideScope l scope a.home && !a.kind.isFence).map (·.n)

/-- Issues an access: it takes the next number and, when it is a release, the set it waits for (R138). -/
def Core.issueAcc (c : Core) (l : Nat) (a : Acc) : Core :=
  let ws := match a.rel with
    | some sc => c.releaseWaits l a.party sc
    | none => a.waits
  let st : AccSt := if a.rel.isSome && a.home == .mem then .marker else .issued
  let w := if a.party = .ctl then c.curWord else c.seq.curWord
  { c with
    acc := c.acc ++ [{ a with n := c.accNext, waits := ws, st := st, word := w, part := c.part, ctx := c.ctx, owner := c.owner l }]
    accNext := c.accNext + 1 }

/-- Issues an access of core `l`; its number is `(s.core l).accNext`. -/
def State.issueAcc (s : State) (l : Nat) (a : Acc) : State := s.updCore l fun c => c.issueAcc l a

/-- The unit that performs the accesses to a home (R20, R71, R83, R126): the LM or SRAM bank, the control-space target. -/
def Acc.unit (a : Acc) : Nat :=
  match a.home with
  | .lm _ => a.key / 64 % 8
  | .sram => a.key / 64 % 48
  | .ctl => a.key >>> 48
  | .mem | .wbuf _ | .abuf _ | .mbm | .foreign | .inCore | .ws _ => 0

/-- Whether program order of a thread keeps an earlier access before a later one (R130, R134): one location, or an acquire
whose scope contains the later home. A mailbox operation that may wait does not hold back those that end its wait, nor an
MREAD, which waits for nobody (R171). -/
def holdsBack (l : Nat) (e a : Acc) : Bool :=
  e.st != .performed && e.party == a.party &&
  ((e.overlaps a && !((e.kind == .mpub || e.kind == .mreadv) &&
      (a.kind == .munpin || a.kind == .mreclaim || a.kind == .mread))) ||
   (match e.acq with | some sc => insideScope l sc a.home | none => false))

/-- Whether a release is held in its core: what it waits for is not all acknowledged (R138, R141). -/
def Core.relHeld (c : Core) (e : Acc) : Bool :=
  e.rel.isSome && e.home != .mem && e.st == .issued && e.waits.any fun n => c.acc.any (·.n == n)

/-- Whether a held release keeps a later write to its home behind it (R141); pushes and flags are kept behind those of
their own queue or flag only (R468). -/
def Core.behindRelease (c : Core) (e a : Acc) : Bool :=
  e.party == a.party && a.kind.isWrite && e.home == a.home && e.unit == a.unit && e.home != .inCore && c.relHeld e

/-- Whether a FENCE between them orders `e` before `a` (R136): bits rr, rw, wr, ww. -/
def fenceOrders (l : Nat) (sc : BitVec 3) (kinds : BitVec 4) (e a : Acc) : Bool :=
  insideScope l sc e.home && insideScope l sc a.home &&
  ((bit kinds 3 && e.kind.isRead && a.kind.isRead) || (bit kinds 2 && e.kind.isRead && a.kind.isWrite) ||
   (bit kinds 1 && e.kind.isWrite && a.kind.isRead) || (bit kinds 0 && e.kind.isWrite && a.kind.isWrite))

/-- Whether the fences between `e` and `a` keep `a` back. -/
def fenced (l : Nat) (acc : List Acc) (e a : Acc) : Bool :=
  e.st != .performed && acc.any fun f =>
    match f.kind with
    | .fence sc k => e.n < f.n && f.n < a.n && f.party == a.party && e.party == a.party && fenceOrders l sc k e a
    | _ => false

/-- Whether access `a` of core `l` may be performed now, by every rule of chapter 05. -/
def Core.mayPerform (c : Core) (l : Nat) (a : Acc) : Bool :=
  let earlier := c.acc.filter fun e => e.n < a.n
  !(earlier.any fun e => holdsBack l e a || c.behindRelease e a || fenced l earlier e a) &&
  a.waits.all fun n => !(c.acc.any fun e => e.n == n)

/-- Access `n` of a core and those that the orders of their thread keep behind it, one behind another (R130 to R141). -/
def Core.behind (c : Core) (l n : Nat) : List Acc :=
  c.acc.foldl (fun bs a =>
    if a.n = n || bs.any fun e => a.waits.contains e.n || holdsBack l e a || c.behindRelease e a || fenced l c.acc e a then bs ++ [a]
    else bs) []

/-- A thread stalls before a write that would raise Out above 4,096 (R132). -/
def Core.outFull (c : Core) (k : Nat) : Bool := decide (4096 < c.out + k)

/-- The release buffer of the core, of 8 entries, is full (R141). -/
def Core.relFull (c : Core) : Bool := decide (8 ≤ c.acc.countP c.relHeld)

/-- Held-release entries of a slice in use, at most 64 (R139, R140). -/
def State.slotsHeld (s : State) (pa : Nat) : Nat :=
  s.cores.foldl (fun n c => n + c.2.acc.countP fun a => a.st == .marker && a.home == .mem && sliceOf a.key == sliceOf pa) 0

/-- Whether a release must wait at issue for an entry (R140, R141). -/
def State.relBlocked (s : State) (l : Nat) (h : Home) (key : Nat) : Bool :=
  if h = .mem then decide (64 ≤ s.slotsHeld key) else (s.core l).relFull

/-- Local releases: pushes to qv and qg, flags and VSTART have their home in the core (R126, R468). Their keys set the
locations apart: queues by code, flags from 64, VSTART 128. -/
def localAcc (party : Stream) (kind : AccKind) (key : Nat) (data : W64) (rel acq : Bool) : Acc :=
  { n := 0, party := party, kind := kind, home := .inCore, key := key, len := 1, data := data,
    rel := if rel then some 1#3 else none, acq := if acq then some 1#3 else none }

end Sys2Proof.Machine
end

