-- ==== Sys2Proof/Machine/Formats.lean ====
section
/-! DEFINITION. Number formats (chapter 10): exact values, rounding, conversion. A finite value is (−1)^neg · num · 2^exp.
An exact result that is no such number (a quotient, a root, a power) is carried by a number strictly inside the gap it
lies in, far below the last place of the destination, so every rounding of it is the rounding of the result itself. -/

namespace Sys2Proof.Machine

/-- A value of a format, or an exact result. -/
inductive Val where
  | nan
  | inf (neg : Bool)
  | fin (neg : Bool) (num : Nat) (exp : Int)
  deriving DecidableEq, Repr

/-- A floating format (R241, R244): fraction bits, bias, width, largest finite code, and the codes of ∞ and NaN. -/
structure Fmt where
  width : Nat
  m : Nat
  bias : Nat
  maxCode : Nat
  infCode : Option Nat
  nanCode : Option Nat
  deriving DecidableEq, Repr

def F64 : Fmt := ⟨64, 52, 1023, 0x7FEF_FFFF_FFFF_FFFF, some 0x7FF0_0000_0000_0000, some 0x7FF8_0000_0000_0000⟩
def F32 : Fmt := ⟨32, 23, 127, 0x7F7F_FFFF, some 0x7F80_0000, some 0x7FC0_0000⟩
def F16 : Fmt := ⟨16, 10, 15, 0x7BFF, some 0x7C00, some 0x7E00⟩
def B16 : Fmt := ⟨16, 7, 127, 0x7F7F, some 0x7F80, some 0x7FC0⟩
def E5M2 : Fmt := ⟨8, 2, 15, 0x7B, some 0x7C, some 0x7E⟩
def E4M3 : Fmt := ⟨8, 3, 7, 0x7E, none, some 0x7F⟩
def E3M4 : Fmt := ⟨8, 4, 3, 0x7E, none, some 0x7F⟩
def E3M2 : Fmt := ⟨6, 2, 3, 0x1F, none, none⟩
def E2M3 : Fmt := ⟨6, 3, 1, 0x1F, none, none⟩
def E2M1 : Fmt := ⟨4, 1, 1, 0x7, none, none⟩

/-- The value a code of a format stands for (R241, R242, R244). -/
def decodeF (f : Fmt) (code : Nat) : Val :=
  let c := code % 2 ^ f.width
  let neg := c.testBit (f.width - 1)
  let mag := c % 2 ^ (f.width - 1)
  if f.infCode = some mag then .inf neg
  else if f.maxCode < mag then .nan
  else
    let e := mag / 2 ^ f.m
    let fr := mag % 2 ^ f.m
    if e = 0 then .fin neg fr (1 - (f.bias : Int) - f.m)
    else .fin neg (2 ^ f.m + fr) ((e : Int) - f.bias - f.m)

/-- Rounding modes (R251). -/
inductive RMode where
  | rne | rtz | rdn | rup
  deriving DecidableEq, Repr

def rmode (c : BitVec 3) : RMode := if c = 1#3 then .rtz else if c = 2#3 then .rdn else if c = 3#3 then .rup else .rne

/-- `num · 2^sh` rounded to an integer magnitude, and whether that changed it (R251, RoundInt). -/
def roundInt (neg : Bool) (num : Nat) (sh : Int) (md : RMode) : Nat × Bool :=
  if 0 ≤ sh then (num <<< sh.toNat, false)
  else
    let k := (-sh).toNat
    let q := num >>> k
    let r := num % 2 ^ k
    let up :=
      match md with
      | .rne => decide (2 ^ k < 2 * r) || (2 * r == 2 ^ k && q % 2 == 1)
      | .rtz => false
      | .rdn => neg && r != 0
      | .rup => !neg && r != 0
    (if up then q + 1 else q, r != 0)

/-- The five flag bits NV, DZ, OF, UF, NX, in the places of cw.fflags (R276). -/
def fNV : BitVec 5 := 0x10#5
def fDZ : BitVec 5 := 0x08#5
def fOF : BitVec 5 := 0x04#5
def fUF : BitVec 5 := 0x02#5
def fNX : BitVec 5 := 0x01#5

/-- What a conversion or operation gives: the code, its conditions as flag bits, integer saturation. -/
structure FRes where
  code : Nat
  flags : BitVec 5 := 0#5
  sat : Bool := false
  deriving DecidableEq, Repr

def signBit (f : Fmt) (neg : Bool) : Nat := if neg then 2 ^ (f.width - 1) else 0

/-- RoundToFormat and Overflow (R251). -/
def roundTo (f : Fmt) (md : RMode) (neg : Bool) (num : Nat) (exp : Int) : FRes :=
  if num = 0 then { code := signBit f neg }
  else
    let lg : Int := (Nat.log2 num : Int) + exp
    let e := max lg (1 - (f.bias : Int))
    let (q, inexact) := roundInt neg num (exp - (e - f.m)) md
    let mag := (e + f.bias - 1).toNat * 2 ^ f.m + q
    if f.maxCode < mag then
      let toInf := md == .rne || (md == .rup && !neg) || (md == .rdn && neg)
      let c := match f.infCode with
        | some i => if toInf then i else f.maxCode
        | none => f.maxCode
      { code := signBit f neg + c, flags := fOF ||| fNX }
    else
      { code := signBit f neg + mag
        flags := if inexact then (if lg < 1 - (f.bias : Int) then fUF ||| fNX else fNX) else 0#5 }

def canonNan (f : Fmt) : Nat := f.nanCode.getD 0

/-- A value into a floating format (R252). -/
def toFloat (f : Fmt) (md : RMode) : Val → FRes
  | .nan => match f.nanCode with
    | some n => { code := n }
    | none => { code := 0, flags := fNV }
  | .inf neg => match f.infCode with
    | some i => { code := signBit f neg + i }
    | none => { code := signBit f neg + f.maxCode, flags := fNV }
  | .fin neg num exp => roundTo f md neg num exp

/-- Two's complement code of an integer in a width. -/
def intCode (w : Nat) (x : Int) : Nat := (x % (2 ^ w : Nat)).toNat

def clampInt (lo hi x : Int) : Int := if x < lo then lo else if hi < x then hi else x

def sgn (neg : Bool) (n : Nat) : Int := if neg then -(n : Int) else n

/-- A value into an integer range (R252). -/
def toInt (lo hi : Int) (w : Nat) (md : RMode) : Val → FRes
  | .nan => { code := 0, flags := fNV }
  | .inf neg => { code := intCode w (if neg then lo else hi), flags := fNV }
  | .fin neg num exp =>
    let (q, inexact) := roundInt neg num exp md
    let x := sgn neg q
    if x < lo ∨ hi < x then { code := intCode w (clampInt lo hi x), flags := fNV }
    else { code := intCode w x, flags := if inexact then fNX else 0#5 }

def sintOf (w x : Nat) : Int := if 2 ^ (w - 1) ≤ x % 2 ^ w then (x % 2 ^ w : Nat) - (2 ^ w : Nat) else (x % 2 ^ w : Nat)

def ofInt (x : Int) : Val := .fin (decide (x < 0)) x.natAbs 0

/-! ### Exact arithmetic (R274, R275) -/

/-- Sum of two finite values: a zero sum is −0 only when both are −0 (R274). -/
def addFin (n1 : Bool) (a1 : Nat) (e1 : Int) (n2 : Bool) (a2 : Nat) (e2 : Int) : Val :=
  let e := min e1 e2
  let x := sgn n1 (a1 <<< (e1 - e).toNat) + sgn n2 (a2 <<< (e2 - e).toNat)
  if x = 0 then .fin (if a1 = 0 ∧ a2 = 0 then n1 && n2 else false) 0 0
  else .fin (decide (x < 0)) x.natAbs e

def vNeg : Val → Val
  | .nan => .nan
  | .inf n => .inf (!n)
  | .fin n a e => .fin (!n) a e

/-- An exact result with whether the operation was invalid. -/
def vAdd : Val → Val → Val × Bool
  | .nan, _ => (.nan, false)
  | _, .nan => (.nan, false)
  | .inf a, .inf b => if a = b then (.inf a, false) else (.nan, true)
  | .inf a, .fin _ _ _ => (.inf a, false)
  | .fin _ _ _, .inf b => (.inf b, false)
  | .fin n1 a1 e1, .fin n2 a2 e2 => (addFin n1 a1 e1 n2 a2 e2, false)

def vMul : Val → Val → Val × Bool
  | .nan, _ => (.nan, false)
  | _, .nan => (.nan, false)
  | .inf a, .inf b => (.inf (a != b), false)
  | .inf a, .fin b x _ => if x = 0 then (.nan, true) else (.inf (a != b), false)
  | .fin a x _, .inf b => if x = 0 then (.nan, true) else (.inf (a != b), false)
  | .fin n1 a1 e1, .fin n2 a2 e2 => (.fin (n1 != n2) (a1 * a2) (e1 + e2), false)

/-- A number strictly between `q` and `q + 1` units, or `q` itself when nothing is left over. -/
def gap (q : Nat) (exact : Bool) (e : Int) : Nat × Int := if exact then (2 * q, e - 1) else (2 * q + 1, e - 1)

/-- Quotient, invalid, and division of a finite non-zero value by zero (R275). -/
def vDiv : Val → Val → Val × Bool × Bool
  | .nan, _ => (.nan, false, false)
  | _, .nan => (.nan, false, false)
  | .inf _, .inf _ => (.nan, true, false)
  | .inf a, .fin b _ _ => (.inf (a != b), false, false)
  | .fin a _ _, .inf b => (.fin (a != b) 0 0, false, false)
  | .fin n1 a1 e1, .fin n2 a2 e2 =>
    if a2 = 0 then (if a1 = 0 then (.nan, true, false) else (.inf (n1 != n2), false, true))
    else
      let k := 130 + Nat.log2 a2
      let (q, e) := gap ((a1 <<< k) / a2) ((a1 <<< k) % a2 == 0) (e1 - e2 - k)
      (if a1 = 0 then .fin (n1 != n2) 0 0 else .fin (n1 != n2) q e, false, false)

/-- Integer square root, bit by bit from the top; `k` bits of root. -/
def isqrt (n : Nat) : Nat → Nat → Nat
  | 0, r => r
  | k + 1, r => isqrt n k (if (r + 2 ^ k) * (r + 2 ^ k) ≤ n then r + 2 ^ k else r)

def vSqrt : Val → Val × Bool
  | .nan => (.nan, false)
  | .inf false => (.inf false, false)
  | .inf true => (.nan, true)
  | .fin neg a e =>
    if a = 0 then (.fin neg 0 0, false)
    else if neg then (.nan, true)
    else
      let k : Nat := if (e % 2 : Int) = 0 then 240 else 241
      let n := a <<< k
      let r := isqrt n (Nat.log2 n / 2 + 1) 0
      let (q, x) := gap r (r * r == n) ((e - k) / 2)
      (.fin false q x, false)

/-- Order of two values that are not NaN: less, with zeros equal. -/
def vLt : Val → Val → Bool
  | .inf a, .inf b => a && !b
  | .inf a, .fin _ _ _ => a
  | .fin _ _ _, .inf b => !b
  | .fin n1 a1 e1, .fin n2 a2 e2 =>
    let e := min e1 e2
    decide (sgn n1 (a1 <<< (e1 - e).toNat) < sgn n2 (a2 <<< (e2 - e).toNat))
  | _, _ => false

def vIsNan : Val → Bool
  | .nan => true
  | .inf _ => false
  | .fin _ _ _ => false

def vEq (a b : Val) : Bool := !(vIsNan a) && !(vIsNan b) && !(vLt a b) && !(vLt b a)

/-! ### Operations on codes (R274 to R286) -/

def invalid (f : Fmt) : FRes := { code := canonNan f, flags := fNV }

/-- Rounds an exact result, or gives the canonical NaN and invalid. -/
def finish1 (f : Fmt) (r : Val × Bool) : FRes := if r.2 then invalid f else toFloat f .rne r.1

def fAdd (f : Fmt) (a b : Nat) : FRes := finish1 f (vAdd (decodeF f a) (decodeF f b))
def fSub (f : Fmt) (a b : Nat) : FRes := finish1 f (vAdd (decodeF f a) (vNeg (decodeF f b)))
def fMul (f : Fmt) (a b : Nat) : FRes := finish1 f (vMul (decodeF f a) (decodeF f b))
def fDiv (f : Fmt) (a b : Nat) : FRes :=
  let (v, inv, dz) := vDiv (decodeF f a) (decodeF f b)
  let r := finish1 f (v, inv)
  if dz then { r with flags := r.flags ||| fDZ } else r
def fSqrt (f : Fmt) (a : Nat) : FRes := finish1 f (vSqrt (decodeF f a))

/-- `d ± a·b`, rounded once; 0 × ∞ is invalid even when d is NaN (R275, R279). -/
def fMac (f : Fmt) (neg : Bool) (d a b : Nat) : FRes :=
  let (p, inv) := vMul (decodeF f a) (decodeF f b)
  if inv then invalid f else finish1 f (vAdd (decodeF f d) (if neg then vNeg p else p))

def fNegBit (f : Fmt) (c : Nat) : Bool := c.testBit (f.width - 1)

/-- FMIN (`mx` false) and FMAX: −0 below +0; a single NaN gives the other operand (R280). -/
def fMinMax (f : Fmt) (mx : Bool) (a b : Nat) : FRes :=
  let a := a % 2 ^ f.width
  let b := b % 2 ^ f.width
  let x := decodeF f a
  let y := decodeF f b
  if vIsNan x then (if vIsNan y then { code := canonNan f } else { code := b })
  else if vIsNan y then { code := a }
  else
    let aLess := vLt x y || (!(vLt y x) && fNegBit f a && !(fNegBit f b))
    { code := if aLess != mx then a else b }

def fNeg (f : Fmt) (a : Nat) : Nat := (a % 2 ^ f.width) ^^^ 2 ^ (f.width - 1)
def fAbs (f : Fmt) (a : Nat) : Nat := a % 2 ^ (f.width - 1)
def fCps (f : Fmt) (a b : Nat) : Nat := a % 2 ^ (f.width - 1) + signBit f (fNegBit f b)

def fCmp (f : Fmt) (op : Nat) (a b : Nat) : Bool × BitVec 5 :=
  let x := decodeF f a
  let y := decodeF f b
  let bad := vIsNan x || vIsNan y
  if op = 0 then (vEq x y, 0#5)
  else (!bad && (if op = 1 then vLt x y else !(vLt y x)), if bad then fNV else 0#5)

/-- The class mask of R283. -/
def fClass (f : Fmt) (a : Nat) : Nat :=
  match decodeF f a with
  | .nan => 2 ^ 8
  | .inf n => if n then 1 else 2 ^ 7
  | .fin n x e =>
    let sub := decide (x < 2 ^ f.m)
    if x = 0 then (if n then 2 ^ 3 else 2 ^ 4)
    else if sub && e == 1 - (f.bias : Int) - f.m then (if n then 2 ^ 2 else 2 ^ 5)
    else (if n then 2 ^ 1 else 2 ^ 6)

/-- Rounds to an integral value of the format (R284). -/
def fRint (f : Fmt) (md : RMode) (a : Nat) : FRes :=
  match decodeF f a with
  | .nan => { code := canonNan f }
  | .inf n => { code := signBit f n + f.infCode.getD 0 }
  | .fin n x e =>
    let (q, inexact) := roundInt n x e md
    { code := (roundTo f .rne n q 0).code, flags := if inexact then fNX else 0#5 }

/-- ln 2 in units of 2^−p, below the true value by less than the number of terms. -/
def ln2Fix (p : Nat) : Nat → Nat
  | 0 => 0
  | k + 1 => ln2Fix p k + 2 ^ p / ((k + 1) * 2 ^ (k + 1))

/-- exp(y) in units of 2^−p by its series, y in the same units: `t` is the term, `k` its number. -/
def expFix (p : Nat) (y : Int) : Nat → Nat → Int → Int → Int
  | 0, _, _, acc => acc
  | fuel + 1, k, t, acc =>
    let t' := t * y / (2 ^ p : Nat) / (k : Int)
    expFix p y fuel (k + 1) t' (acc + t')

/-- 2^f for a dyadic f between −1/2 and 1/2, correctly rounded: the series at a precision whose error bound decides the
rounding, with one further precision tried when it does not (R285). -/
def exp2Round (f : Fmt) (neg : Bool) (num : Nat) (exp : Int) : List Nat → FRes
  | [] => { code := canonNan f }
  | p :: ps =>
    let y0 := num * ln2Fix p p
    let y : Int := sgn neg (if 0 ≤ exp then y0 <<< exp.toNat else y0 >>> (-exp).toNat)
    let v := (expFix p y p 1 (2 ^ p : Nat) (2 ^ p : Nat)).toNat
    let lo := roundTo f .rne false (v - 4 * p) (-(p : Int))
    let hi := roundTo f .rne false (v + 4 * p) (-(p : Int))
    if lo.code = hi.code ∨ ps.isEmpty then { lo with flags := fNX } else exp2Round f neg num exp ps

/-- FEXP2F (R285). -/
def fExp2 (f : Fmt) (a : Nat) : FRes :=
  match decodeF f a with
  | .nan => { code := canonNan f }
  | .inf _ => invalid f
  | .fin n x e =>
    if x = 0 then { code := (roundTo f .rne false 1 0).code }
    else if vLt (.fin false 1 (-1)) (.fin false x e) then invalid f
    else if (Nat.log2 x : Int) + e < -80 then { code := (roundTo f .rne false 1 0).code, flags := fNX }
    else exp2Round f n x e [200, 400, 800]

/-- FSCALE (R286). -/
def fScale (f : Fmt) (a b : Nat) : FRes :=
  let x := decodeF f a
  match x, decodeF f b with
  | .nan, _ => { code := canonNan f }
  | _, .nan => { code := canonNan f }
  | .fin n 0 _, .inf false => let _ := n; invalid f
  | .inf _, .inf true => invalid f
  | .inf n, .inf false => { code := signBit f n + f.infCode.getD 0 }
  | .fin n _ _, .inf false => { code := signBit f n + f.infCode.getD 0 }
  | .fin n _ _, .inf true => { code := signBit f n }
  | .inf n, .fin _ _ _ => { code := signBit f n + f.infCode.getD 0 }
  | .fin n y e, .fin nb yb eb =>
    if y = 0 then { code := signBit f n }
    else
      let k := if 64 ≤ (Nat.log2 yb : Int) + eb then 2200 else (roundInt nb yb eb .rtz).1
      roundTo f .rne n y (e + clampInt (-2200) 2200 (sgn nb k))

/-! ### Wain formats (R239 to R247) -/

/-- The floating format of a Wain code, if it is one. -/
def wainFloat (c : Nat) : Option Fmt :=
  match c with
  | 0 => some F32 | 1 => some F16 | 2 => some B16 | 3 => some E5M2 | 4 => some E4M3 | 5 => some E3M4
  | 6 => some E3M2 | 7 => some E2M3 | 8 => some E2M1 | _ => none

/-- Element width of a Wain code (T5 is decoded by the byte). -/
def wainWidth (c : Nat) : Nat :=
  match c with
  | 0 => 32 | 1 => 16 | 2 => 16 | 3 => 8 | 4 => 8 | 5 => 8 | 6 => 6 | 7 => 6 | 8 => 4 | 9 => 16
  | 10 => 8 | 11 => 8 | 12 => 4 | 13 => 4 | 14 => 2 | 15 => 2 | 17 => 1 | 18 => 4 | 19 => 8 | _ => 8

/-- Bits of element `i` of a row (R238). -/
def rowElem (row : Nat) (w i : Nat) : Nat := row >>> (w * i) % 2 ^ w

/-- KrayrScale (R246): none for a zero block, some none for a NaN block. -/
def krayr (s : Nat) : Option (Option Val) :=
  if s = 0 then none
  else if s = 255 then some none
  else
    let t : Int := (s : Int) - 128
    let m := match (t % 4).toNat with | 0 => 0x100 | 1 => 0x130 | 2 => 0x16A | _ => 0x1AE
    some (some (.fin false m (t / 4 - 8)))

/-- Trit `i` of a T5 row and whether its byte is invalid (R245). -/
def t5Trit (row i : Nat) : Int × Bool :=
  let v := row >>> (8 * (i / 5)) % 256
  if 243 ≤ v then (0, true)
  else match v / 3 ^ (i % 5) % 3 with | 0 => (0, false) | 1 => (1, false) | _ => (-1, false)

/-- Element `k` of an operand row in a Wain format, scales of K4 and K8 left out; with invalid trit (R239 to R247). -/
def wainElem (c row k : Nat) : Val × Bool :=
  match wainFloat c with
  | some f => (decodeF f (rowElem row f.width k), false)
  | none =>
    match c with
    | 9 => (ofInt (sintOf 16 (rowElem row 16 k)), false)
    | 10 => (ofInt (sintOf 8 (rowElem row 8 k)), false)
    | 11 => (ofInt (rowElem row 8 k), false)
    | 12 => (ofInt (sintOf 4 (rowElem row 4 k)), false)
    | 13 => (ofInt (rowElem row 4 k), false)
    | 14 => (ofInt (sintOf 2 (rowElem row 2 k)), false)
    | 15 =>
      match rowElem row 2 k with
      | 0 => (ofInt 0, false) | 1 => (ofInt 1, false) | 3 => (ofInt (-1), false) | _ => (ofInt 0, true)
    | 16 => let (t, b) := t5Trit row k; (ofInt t, b)
    | 17 => (ofInt (if rowElem row 1 k = 0 then 1 else -1), false)
    | 18 => (decodeF E2M1 (rowElem row 4 k), false)
    | _ => (decodeF E4M3 (rowElem row 8 k), false)

/-- A value into a Wain output format under RNE (R252). -/
def toWain (c : Nat) (v : Val) : FRes :=
  match wainFloat c with
  | some f => toFloat f .rne v
  | none =>
    match c with
    | 9 => toInt (-32768) 32767 16 .rne v
    | 10 => toInt (-128) 127 8 .rne v
    | 11 => toInt 0 255 8 .rne v
    | 12 => toInt (-8) 7 4 .rne v
    | 13 => toInt 0 15 4 .rne v
    | 14 => toInt (-2) 1 2 .rne v
    | 15 =>
      match v with
      | .nan => { code := 0, flags := fNV }
      | .inf n => { code := if n then 3 else 1, flags := fNV }
      | .fin n x e =>
        let (q, ix) := roundInt n x e .rne
        let r := sgn n q
        { code := intCode 2 (clampInt (-1) 1 r), flags := if ix then fNX else 0#5, sat := decide (1 < q) }
    | _ =>
      match v with
      | .nan => { code := 0 }
      | .inf n => { code := b2n n }
      | .fin n _ _ => { code := b2n n }

/-- MaxFinite of a Wain output format, as a value (R350). -/
def maxOf (c : Nat) : Val :=
  match wainFloat c with
  | some f => decodeF f f.maxCode
  | none =>
    match c with
    | 9 => ofInt 32767 | 10 => ofInt 127 | 11 => ofInt 255 | 12 => ofInt 7 | 13 => ofInt 15 | _ => ofInt 1

end Sys2Proof.Machine
end

