-- ==== Sys2Proof/Machine/Flags.lean ====
section
/-! DEFINITION. Conditions of results: sticky flags and event counters (R253, R276, R277, R291, R364). -/

namespace Sys2Proof.Machine

/-- Event selectors that number-format conditions feed (R364): NV 1, OF 2, UF 3, NX 4; DZ feeds none (R275). -/
def flagEvents (f : BitVec 5) : List Nat :=
  (if bit f 4 then [1] else []) ++ (if bit f 2 then [2] else []) ++ (if bit f 1 then [3] else []) ++
    (if bit f 0 then [4] else [])

def evIntSat : Nat := 5
def evWainSat : Nat := 6
def evTrit : Nat := 7
def evStale : Nat := 8
def evRefusal : Nat := 9

/-- Records the conditions of a scalar instruction in both places at issue (R276, R277). -/
def Core.recordFlags (c : Core) (f : BitVec 5) (sat : Bool) : Core :=
  let c := { c with fflags := c.fflags ||| f }
  let c := (flagEvents f).foldl (fun c e => c.countEv e 1) c
  if sat then c.countEv evIntSat 1 else c

def State.recordFlags (s : State) (l : Nat) (f : BitVec 5) (sat : Bool) : State :=
  s.updCore l fun c => c.recordFlags f sat

/-- Counts the conditions of one element and sets the sequencer's sticky bits (R291). -/
def Core.recordElem (c : Core) (r : FRes) : Core :=
  let c := { c with seq := { c.seq with vstat := c.seq.vstat ||| BitVec.ofNat 64 r.flags.toNat } }
  let c := (flagEvents r.flags).foldl (fun c e => c.countEv e 1) c
  if r.sat then c.countEv evIntSat 1 else c

def State.recordElems (s : State) (l : Nat) (rs : List FRes) : State :=
  s.updCore l fun c => rs.foldl Core.recordElem c

/-- Counts the conditions an engine met, never into cw.fflags (R329). -/
def State.recordEngine (s : State) (l : Nat) (r : FRes) : State :=
  s.updCore l fun c =>
    let c := (flagEvents r.flags).foldl (fun c e => c.countEv e 1) c
    if r.sat then c.countEv evIntSat 1 else c

end Sys2Proof.Machine
end

