-- ==== Sys2Proof/Machine/Wain.lean ====
section
/-! DEFINITION. The arithmetic of the Wain and the Tender on exact values (R238, R340 to R351, R248 to R250). -/

namespace Sys2Proof.Machine

/-! ### Rows -/

/-- Bytes of a row image of a format (R238). -/
def imageBytes (c : Nat) : Nat :=
  match c with
  | 6 => 96 | 7 => 96 | 16 => 52 | 17 => 32 | 18 => 72 | 19 => 66 | _ => 64

def isWideB (b : Nat) : Bool := b == 14 || b == 15 || b == 16 || b == 17

/-- K of a pair (R339). -/
def pairK (a b : Nat) : Nat :=
  if isWideB b then 256
  else match a with
    | 0 => 16 | 1 => 32 | 2 => 32 | 9 => 32 | 3 => 64 | 4 => 64 | 5 => 64 | 10 => 64 | 11 => 64 | 19 => 64 | _ => 128

/-- Bytes of an A row: 256 activations under the last row of R339's table. -/
def aBytes (a b : Nat) : Nat := if isWideB b then (if a = 12 then 128 else 256) else imageBytes a

/-- The pairs and accumulators of R339's table: Acc 0 A32F, 1 A32I, 2 S40. -/
def pairLegal (a b acc : Nat) : Bool :=
  let fs := acc == 0 || acc == 2
  let is := acc == 1 || acc == 2
  let in_ (x lo hi : Nat) : Bool := decide (lo ≤ x) && decide (x ≤ hi)
  (a == 0 && b == 0 && fs) || (in_ a 1 2 && in_ b 1 2 && fs) || (in_ a 3 5 && in_ b 3 5 && fs) ||
    (in_ a 6 8 && in_ b 6 8 && fs) || (a == 18 && b == 18 && acc == 0) || (a == 19 && b == 19 && acc == 0) ||
    (a == 9 && b == 9 && is) || (in_ a 10 11 && in_ b 10 11 && is) || (in_ a 12 13 && in_ b 12 13 && is) ||
    ((a == 10 || a == 12) && isWideB b && is)

/-- What a Clearing Wain implements (R339). -/
def clearingPair (a b acc : Nat) : Bool :=
  (a == 10 || a == 12) && (b == 15 || b == 16 || b == 17) && acc == 1

/-- Group size: the block for K4 and K8, else 16 (R342). -/
def groupSize (a : Nat) : Nat := if a = 18 then 16 else if a = 19 then 32 else 16

/-- The block scale of group `g` of a row: 1 for formats without scales; none is a NaN block, zero a zero block. -/
def rowScale (c row g : Nat) : Option Val :=
  if c = 18 ∨ c = 19 then
    match krayr (row >>> (8 * (64 + g)) % 256) with
    | none => some (.fin false 0 0)
    | some none => none
    | some (some v) => some v
  else some (.fin false 1 0)

def isZeroBlock (c row g : Nat) : Bool := (c == 18 || c == 19) && row >>> (8 * (64 + g)) % 256 == 0

/-- A group's products, each with invalid (0 × ∞). -/
def groupProducts (a b arow bcol : Nat) (ks : List Nat) : List (Val × Bool) :=
  ks.map fun k =>
    let g := k / groupSize a
    vMul (if isZeroBlock a arow g then .fin false 0 0 else (wainElem a arow k).1)
      (if isZeroBlock b bcol g then .fin false 0 0 else (wainElem b bcol k).1)

/-- Their exact sum: NaN where one is NaN or infinities of both signs meet; the latter, and 0 × ∞, are invalid (R342). -/
def groupSum (ps : List (Val × Bool)) : Val × Bool :=
  let both := ps.any (·.1 == .inf false) && ps.any (·.1 == .inf true)
  let sum := match ps with
    | [] => .fin false 0 0
    | p :: t => t.foldl (fun r q => (vAdd r q.1).1) p.1
  (if both then .nan else sum, both || ps.any (·.2))

/-- An exact product, with invalid gathered. -/
def scaleBy (x : Val × Bool) (y : Val) : Val × Bool :=
  let (v, i) := vMul x.1 y
  (v, x.2 || i)

/-- The k of group `g` below `kd`. -/
def groupKs (a g kd : Nat) : List Nat := (List.range (min (groupSize a) (kd - g * groupSize a))).map (g * groupSize a + ·)

/-- A group's contribution, scales applied (R342). -/
def groupVal (c : FmtCtx) (arow bcol g kd : Nat) : Val × Bool :=
  let a := c.a.toNat
  let b := c.b.toNat
  let s := groupSum (groupProducts a b arow bcol (groupKs a g kd))
  if a = 18 ∨ a = 19 then
    match rowScale a arow g, rowScale b bcol g with
    | some x, some y => scaleBy (scaleBy (scaleBy (scaleBy s x) y) (decodeF F32 c.tA.toNat)) (decodeF F32 c.tB.toNat)
    | _, _ => (.nan, s.2)
  else s

/-- An element's new accumulator code under A32F or A32I, its conditions, and Wain saturation (R342, R249). -/
structure AccRes where
  code : W32
  flags : BitVec 5 := 0#5
  wsat : Bool := false

def accStep (c : FmtCtx) (arow bcol kd : Nat) (r : AccRes) (g : Nat) : AccRes :=
  let (s, inv) := groupVal c arow bcol g kd
  if c.acc = 0#2 then
    let (v, i2) := vAdd (decodeF F32 r.code.toNat) s
    let x := toFloat F32 .rne v
    { r with code := BitVec.ofNat 32 x.code, flags := r.flags ||| x.flags ||| (if inv || i2 then fNV else 0#5) }
  else
    let y := match s with
      | .fin n a e => r.code.toInt + sgn n (if 0 ≤ e then a <<< e.toNat else a >>> (-e).toNat)
      | _ => r.code.toInt
    let z := clampInt (-2 ^ 31) (2 ^ 31 - 1) y
    { r with code := BitVec.ofInt 32 z, wsat := r.wsat || decide (y ≠ z) }

def groupsOf (a kd : Nat) : Nat := (kd + groupSize a - 1) / groupSize a

/-- One selected element of a WMMA under A32F or A32I (R342). -/
def mmaElem (c : FmtCtx) (arow bcol kd : Nat) (old : W32) : AccRes :=
  (List.range (groupsOf c.a.toNat kd)).foldl (accStep c arow bcol kd) { code := old }

def Val.isFin : Val → Bool
  | .fin _ _ _ => true
  | .nan | .inf _ => false

/-- The exact value a WMMA adds to an S40 element: a non-finite product contributes 0 and is invalid (R342); no pair of
R339 with S40 has scales. -/
def s40Elem (c : FmtCtx) (arow bcol kd : Nat) : Val × Bool :=
  let ps := groupProducts c.a.toNat c.b.toNat arow bcol (List.range kd)
  ((groupSum (ps.filter (·.1.isFin))).1, ps.any fun p => !p.1.isFin)

/-! ### S40 rows (R250) -/

/-- Value of significand `q` under exponent `e`. -/
def s40Val (q : BitVec 40) (e : Nat) : Val :=
  let x := q.toInt
  .fin (decide (x < 0)) x.natAbs ((e : Int) - 166)

def rne40 (v : Val) (e : Nat) : Int :=
  match v with
  | .fin n a x => sgn n (roundInt n a (x - ((e : Int) - 166)) .rne).1
  | _ => 0

def fits40 (x : Int) : Bool := decide (-2 ^ 39 ≤ x) && decide (x ≤ 2 ^ 39 - 1)

/-- The exponent S40Fit settles on. -/
def s40Exp (xs : List Val) (e : Nat) : Nat → Nat
  | 0 => e
  | k + 1 => if e < 255 && !(xs.all fun x => fits40 (rne40 x e)) then s40Exp xs (e + 1) k else e

/-- S40Fit: new significands, exponent and the number of saturations (R250). -/
def s40Fit (xs : List Val) (e : Nat) : List (BitVec 40) × Nat × Nat :=
  let e := s40Exp xs e 255
  let qs := xs.map fun x => rne40 x e
  (qs.map fun q => BitVec.ofInt 40 (clampInt (-2 ^ 39) (2 ^ 39 - 1) q), e, qs.countP fun q => !(fits40 q))

/-- WNORM of one row: the largest exact left shift (R346). -/
def s40Norm (qs : List (BitVec 40)) (e : Nat) : List (BitVec 40) × Nat :=
  let mx := qs.foldl (fun m q => max m q.toInt.natAbs) 0
  if mx = 0 then (qs, e)
  else
    let k := min (38 - Nat.log2 mx) e
    (qs.map fun q => BitVec.ofInt 40 (q.toInt * (2 ^ k : Nat)), e - k)

/-! ### Accumulator storage (R80, R250) -/

/-- Key of element n of 32-bit tile t. -/
def accKey (t n : Nat) : Nat := t * 1024 + n

def Cluster.el32 (c : Cluster) (t i j : Nat) : W32 := kget c.acc32 (accKey t (i * 32 + j)) 0#32
def Cluster.setEl32 (c : Cluster) (t i j : Nat) (v : W32) : Cluster :=
  { c with acc32 := kput c.acc32 (accKey t (i * 32 + j)) v }

/-- The 64-bit word of element j of row i of S40 tile t, in the storage of 32-bit tiles 2t and 2t + 1. -/
def Cluster.s40Word (c : Cluster) (t i j : Nat) : Nat :=
  let k := accKey (2 * t) (2 * (i * 32 + j))
  (kget c.acc32 k 0#32).toNat + 2 ^ 32 * (kget c.acc32 (k + 1) 0#32).toNat
def Cluster.setS40Word (c : Cluster) (t i j w : Nat) : Cluster :=
  let k := accKey (2 * t) (2 * (i * 32 + j))
  { c with acc32 := kput (kput c.acc32 k (BitVec.ofNat 32 w)) (k + 1) (BitVec.ofNat 32 (w >>> 32)) }

def Cluster.s40Row (c : Cluster) (t i : Nat) : List (BitVec 40) × Nat :=
  ((List.range 32).map fun j => BitVec.ofNat 40 (c.s40Word t i j), c.s40Word t i 0 >>> 40 % 256)
def Cluster.setS40Row (c : Cluster) (t i : Nat) (qs : List (BitVec 40)) (e : Nat) : Cluster :=
  (qs.zipIdx).foldl (fun c p => c.setS40Word t i p.2 (p.1.toNat + e <<< 40)) c

/-- Zeroises a 32-bit tile's storage. -/
def Cluster.zeroTile (c : Cluster) (t : Nat) : Cluster :=
  { c with acc32 := c.acc32.filter fun x => x.1 / 1024 != t }

/-! ### The Tender's value (R350) -/

/-- Act of R350 on an exact value: bit 0 ReLU, bit 1 saturate. -/
def tepiAct (act out : Nat) (y : Val) : Val :=
  let y := if act.testBit 0 ∧ vLt y (.fin false 0 0) then .fin false 0 0 else y
  if act.testBit 1 then
    let mx := maxOf out
    if vIsNan y then y else if vLt mx y then mx else if vLt y (vNeg mx) then vNeg mx else y
  else y

/-- TepiValue: the output code of an exact value and its conditions (R350). -/
def tepiValue (out act : Nat) (scl bias : Option Val) (v : Val) : FRes :=
  let (y, i1) := match scl with | some x => vMul v x | none => (v, false)
  let (y, i2) := match bias with | some x => vAdd y x | none => (y, false)
  let r := toWain out (tepiAct act out y)
  if i1 || i2 then { r with flags := r.flags ||| fNV } else r

end Sys2Proof.Machine
end

