-- ==== Sys2Proof/Machine/Engine.lean ====
section
/-! DEFINITION. Shared engine operations: counters, status words, range locks, leases, held tiles, grants, and the retiring
of Wain commands (chapter 15). -/

namespace Sys2Proof.Machine

/-! ### Homes that wait (R411, R423) -/

def State.cluLive (s : State) (cl : Nat) : Bool := (s.clu cl).ret == .active

/-- Whether the clock of the tile that serves a core is stopped (R423). -/
def State.coreStopped (s : State) (l : Nat) : Bool := isGrove l && s.stopped.contains (tileOf (s.phys l))

/-- Whether a home takes accesses now: its cluster is not in retention and its tile's clock runs. -/
def State.homeLive (s : State) (h : Home) : Bool :=
  match h with
  | .lm t => s.lmLive t
  | .ws k => s.cluLive (clusterOf k) && !(s.coreStopped k)
  | .wbuf c => s.cluLive c
  | .abuf c => s.cluLive c
  | .mem | .mbm | .sram | .ctl | .foreign | .inCore => true

/-- The cluster that a home lies in. -/
def Home.cluster : Home → Option Nat
  | .lm t => some (clusterOf t)
  | .ws k => some (clusterOf k)
  | .wbuf c => some c
  | .abuf c => some c
  | .mem | .mbm | .sram | .ctl | .foreign | .inCore => none

/-- The first access that waits for a retained cluster starts its exit (R411). -/
def State.wakeHome (s : State) (h : Home) : State :=
  match h.cluster with
  | some c => s.startExit c
  | none => s

/-- Whether an edge has still to zeroise bytes that the slot's new holder means to use (R394). -/
def State.unclean (s : State) (p : BitVec 6) (key n : Nat) : Bool :=
  s.slot.holder == some p.toNat && s.slot.zero.any fun r => decide (key < r.2) && decide (r.1 < key + n)

/-- Whether bytes at a home take an access of a partition now. -/
def State.homeReady (s : State) (p : BitVec 6) (h : Home) (key n : Nat) : Bool := s.homeLive h && !(s.unclean p key n)

/-! ### Counters, locks and status words -/

/-- Reads `n` bytes at a home that is no control word: the cache or memory, and for the workspace region the words as
they lie in their slots (R70, R128). -/
def State.homeByte (s : State) (h : Home) (key : Nat) : Byte :=
  match h with
  | .mem => s.cohByte key
  | .lm tile =>
    let off := key % 2 ^ 48
    if off < 0x18000 then memRead s.mem key
    else
      let r := off - 0x18000
      let w := kget (s.core (tile + r / 0x2000)).rf (r % 0x2000 / 8) 0#64
      BitVec.ofNat 8 (w.toNat >>> (8 * (r % 8)))
  | _ => memRead s.mem key

def State.homeNat (s : State) (h : Home) (key n : Nat) : Nat :=
  ofBytes ((List.range n).map fun i => s.homeByte h (key + i))

/-- Writes one byte at such a home. Word 0 of a resident slot holds read-only fields, which a write leaves (R9, R178). -/
def State.setHomeByte (s : State) (h : Home) (key : Nat) (b : Byte) : State :=
  match h with
  | .mem => s.cohWriteLine key [b]
  | .lm tile =>
    let off := key % 2 ^ 48
    if off < 0x18000 then { s with mem := memWrite s.mem key b }
    else
      let r := off - 0x18000
      let k := r % 0x2000 / 8
      if k % 64 = 0 then s
      else s.updCore (tile + r / 0x2000) fun c =>
        let w := (kget c.rf k 0#64)
        { c with rf := kput c.rf k (setFld w (8 * (r % 8) + 7) (8 * (r % 8)) b.toNat) }
  | _ => { s with mem := memWrite s.mem key b }

def State.setHomeN (s : State) (h : Home) (key : Nat) : List Byte → State
  | [] => s
  | b :: t => (s.setHomeByte h key b).setHomeN h (key + 1) t

/-- Writes bytes at a home; a slice takes those of one line together. -/
def State.setHome (s : State) (h : Home) (key : Nat) (bs : List Byte) : State :=
  if h = .mem then s.cohWrite key bs else s.setHomeN h key bs

/-- Readiness follows an arrival in LM (R186). -/
def State.afterWrite (s : State) (h : Home) : State :=
  match h with
  | .lm tile => s.reevalTile tile
  | _ => s

/-- Frees the range locks of an operation (R148). -/
def Core.freeLocks (c : Core) (op : Nat) : Core := { c with rlk := c.rlk.filter (·.op != op) }

/-- AtomicAdd(counter, 1) at the counter's home (R331, R366), which frees the operation's locks (R148). A class 0x0 counter is
translated afresh (R64). Where that fails, or the counter cannot be read, it stays, and the fault reaches the command's
firing as a deferred one; the failed translation of every counter reports Acc 110 (DESIGN CHOICE, log entry 109). -/
def State.counterAdd (s : State) (x : CtrAdd) : State :=
  let c := x.ctr
  let s := match x.op with
    | some o => s.updCore x.core fun c => c.freeLocks o
    | none => s
  let bad (s : State) (f : Flt) : State := s.deferFlt x.core x.owner x.part { f with eng := x.eng, word := x.word }
  if c.home = .mem then
    match s.translate x.core x.part x.ctx x.mode .drayWrite (fld c.va 47 0) with
    | (s, .error f) => bad s (xlatFlt f .drayWrite x.ctx c.va)
    | (s, .ok r) =>
      match s.hwTouch x.part x.ctx r.na true r.pa with
      | (s, true) => bad s (fltAt causeData c.va)
      | (s, false) => s.cohWrite r.pa (toBytes 8 (ofBytes (s.cohBytes r.pa 8) + 1))
  else
    match s.eccSpan c.key 8 with
    | (s, some d) => bad s (fltAt causeData (eccAddr c.va d))
    | (s, none) => (s.setHome c.home c.key (toBytes 8 (s.homeNat c.home c.key 8 + 1))).afterWrite c.home

/-- Whether a counter's home takes the increment now. -/
def State.ctrReady (s : State) (x : CtrAdd) : Bool := s.homeReady x.part x.ctr.home x.ctr.key 8

/-- The counter's home, while it does not take an increment: the operation that the increment completes is outstanding until
it does (R63, R95, R366, R411). -/
def State.ctrAsleep (s : State) : Option CtrAdd → Option Home
  | none => none
  | some x => if s.ctrReady x then none else some x.ctr.home

/-- A completion increments its counter, at once or when the counter's home takes it; the first that waits for a retained
cluster starts its exit (R331, R411). -/
def State.counterPost (s : State) : Option CtrAdd → State
  | none => s
  | some x => if s.ctrReady x then s.counterAdd x else { s.wakeHome x.ctr.home with addq := s.addq ++ [x] }

/-- The increments that wait are made once their homes take them, in their order. -/
def State.flushAdds (s : State) : State :=
  (s.addq.filter s.ctrReady).foldl State.counterAdd { s with addq := s.addq.filter fun x => !(s.ctrReady x) }

/-- The increment that completes an engine command of core `l`; the engine is 1 Dray, 2 Wain, 3 Tender (R329, R331). -/
def EngCmd.add (e : EngCmd) (l eng : Nat) : Option CtrAdd :=
  e.ctr.map fun c =>
    { core := l, op := some e.op, part := e.part, ctx := e.ctx, mode := e.mode, ctr := c, owner := e.owner, eng := BitVec.ofNat 2 eng
      word := e.word }

/-- A word of a record. -/
def rw (r : List W64) (i : Nat) : W64 := r.getD i 0#64

/-- A range of the range-lock table over `n` pieces of `len` bytes from `a`, one every `stride` bytes (R146). -/
def spanLock (c : Core) (op : Nat) (src : Bool) (a : W64) (stride : Int) (n len : Nat) : RLock :=
  let far : Int := stride * ((n : Int) - 1)
  let at_ : Int := rlAddr a
  { op := op, src := src, part := c.part, ctx := c.ctx, cls := clsOf a, lo := (at_ + min 0 far).toNat
    hi := (at_ + max 0 far).toNat + len }

/-- A status word of R330: kind, fn6, index within the lease. -/
def statusWord (kind fn idx : Nat) : W64 := mkWord [(60, kind), (54, fn), (48, idx)]

/-- The tag word of a command, the last of its record (R331). -/
def EngCmd.tag (e : EngCmd) : W64 := e.recs.getLast?.getD 0#64
def EngCmd.rpt (e : EngCmd) : Bool := bit e.tag 15

/-- Completes a Wain command: counter, status word if asked, locks freed (R148, R330, R331). -/
def State.wainDone (s : State) (l : Nat) (e : EngCmd) (kind idx : Nat) : State :=
  let s := s.counterPost (e.add l 2)
  s.updCore l fun c =>
    let c := if e.ctr.isNone then c.freeLocks e.op else c
    if e.rpt then { c with qms := c.qms ++ [statusWord kind e.fn idx] } else c

/-! ### Performing Wain commands -/

def fnMarker : Nat := 0xFF
def fnCopy : Nat := 0x00
def fnWfmt : Nat := 0x0B
def fnWmma : Nat := 0x0C
def fnWzero : Nat := 0x0D
def fnWstep : Nat := 0x0E
def fnWnorm : Nat := 0x0F
def fnWretry : Nat := 0x10
def fnTepi : Nat := 0x18

/-- Commands that count against a lease (R337). -/
def EngCmd.counted (e : EngCmd) : Bool := fnWmma ≤ e.fn && e.fn ≤ fnWnorm

/-- Drops a command: its counter, status and locks when it counts, and Drop (R337). A WRETRY that finds no lease any more is
the Wain-state fault, in a trap handler too (R348, R459; log entry 64). -/
def State.wainDrop (s : State) (w : WCmd) : State :=
  if w.internal then s
  else if w.cmd.fn = fnWretry then
    s.giveFlt w.core w.cmd.owner w.cmd.part { flt causeWain with eng := 2#2, word := w.cmd.word, late := true }
  else
    (if w.cmd.counted then s.wainDone w.core w.cmd 2 w.index else s).updCore w.core fun c => { c with wdrop := true }

def Cluster.fmtOf (c : Cluster) (l : Nat) : FmtCtx := kget c.fmt l {}

def WCmd.rec_ (w : WCmd) (i : Nat) : W64 := w.cmd.recs.getD i 0#64

/-- The tiles of 32 bits a command names (R338, R343). -/
def EngCmd.tiles (e : EngCmd) : List Nat :=
  let r (i : Nat) : W64 := e.recs.getD i 0#64
  let s40 := e.fmt.acc == 2#2
  if e.fn = fnWmma then
    if s40 then [2 * fld (r 3) 5 3, 2 * fld (r 3) 5 3 + 1] else [fld (r 3) 6 3]
  else if e.fn = fnWzero then (List.range 16).filter fun t => bit (r 0) t
  else if e.fn = fnWstep then [2 * fld (r 1) 38 36, 2 * fld (r 1) 38 36 + 1, fld (r 1) 35 32]
  else if e.fn = fnWnorm then [2 * fld (r 0) 34 32, 2 * fld (r 0) 34 32 + 1]
  else if e.fn = fnTepi then
    if s40 then [2 * fld (r 3) 33 31, 2 * fld (r 3) 33 31 + 1] else [fld (r 3) 34 31]
  else []

/-- Steps a command stages, in order (R65, R345). -/
def EngCmd.steps (e : EngCmd) : List Nat :=
  let r (i : Nat) : W64 := e.recs.getD i 0#64
  if e.fn = fnWmma then
    (List.range 32).filter (fun i => bit (r 2) i) ++
      ((List.range 32).filter fun j => bit (r 2) (32 + j)).map (32 + ·)
  else if e.fn = fnWstep then (List.range 32).filter fun i => bit (r 1) i
  else []

/-- The next step of a command that is not staged. -/
def WCmd.nextStep (w : WCmd) : Option Nat := w.cmd.steps.find? fun k => (kfind w.staged k).isNone

/-- Signed 24-bit stride (R332, R340). -/
def stride24 (x : W64) (hi : Nat) : Int := sintOf 24 (fld x hi (hi - 23))

/-- Address of a step's operand: A row, B column or decay row (R340, R345). -/
def EngCmd.stepAddr (e : EngCmd) (k : Nat) : W64 :=
  let r (i : Nat) : W64 := e.recs.getD i 0#64
  if e.fn = fnWmma then
    if k < 32 then r 0 + BitVec.ofInt 64 (stride24 (r 3) 63 * k)
    else r 1 + BitVec.ofInt 64 (stride24 (r 3) 39 * ((k : Int) - 32))
  else r 0 + BitVec.ofInt 64 (stride24 (r 1) 63 * k)

/-- Bytes a step reads. -/
def EngCmd.stepBytes (e : EngCmd) (k : Nat) : Nat :=
  if e.fn = fnWmma then (if k < 32 then aBytes e.fmt.a.toNat e.fmt.b.toNat else imageBytes e.fmt.b.toNat) else 64

/-- The spans of the selected steps of a Wain command. -/
def EngCmd.spans (e : EngCmd) : List (W64 × Nat) := e.steps.map fun k => (e.stepAddr k, e.stepBytes k)

/-! ### What copies and epilogues name (R332, R349) -/

def cpRows (r : List W64) : Nat := fld (rw r 2) 15 0 + 1
def cpLen (r : List W64) : Nat := fld (rw r 3) 23 0 + 1
def cpSrc (r : List W64) (i : Nat) : W64 := rw r 0 + BitVec.ofInt 64 (sintOf 24 (fld (rw r 2) 39 16) * i)
def cpDst (r : List W64) (i : Nat) : W64 := rw r 1 + BitVec.ofInt 64 (sintOf 24 (fld (rw r 2) 63 40) * i)

/-- The sync word that a copy names. -/
def cpSync (r : List W64) : Option W64 :=
  if bit (rw r 3) 38 then some (mkWord [(60, 1), (48, fld (rw r 3) 63 52), (4, fld (rw r 3) 51 39)]) else none

def tpOut (r : List W64) : Nat := fld (rw r 3) 39 35
def tpRed (r : List W64) : Bool := bit (rw r 3) 25
def tpRows (r : List W64) : List Nat := (List.range 32).filter fun i => bit (rw r 2) i
def tpCols (r : List W64) : List Nat := (List.range 32).filter fun j => bit (rw r 2) (32 + j)

/-- The output rows with their elements in ascending order: under Red one row of one element per selected row. -/
def tpPlaces (r : List W64) : List (Nat × List Nat) :=
  if tpRed r then [(0, tpRows r)] else (tpRows r).map fun i => (i, tpCols r)

def tpRowAddr (r : List W64) (i : Nat) : W64 := rw r 0 + BitVec.ofInt 64 (stride24 (rw r 3) 63 * i)

/-- The bytes from the first to the last selected element of each output row. -/
def tpSpans (r : List W64) : List (W64 × Nat) :=
  let w := wainWidth (tpOut r)
  (tpPlaces r).filterMap fun x =>
    match x.2.head?, x.2.getLast? with
    | some i, some j => some (tpRowAddr r x.1 + BitVec.ofNat 64 (i * w / 8), (j * w + w - 1) / 8 - i * w / 8 + 1)
    | _, _ => none

/-- The spans of addresses that a command reads or writes: rows, sync word, counter (R39, R331 to R333). -/
def EngCmd.allSpans (e : EngCmd) : List (W64 × Nat) :=
  (match e.ctr with | some c => [(c.va, 8)] | none => []) ++
    if e.fn = fnCopy then
      ((List.range (cpRows e.recs)).flatMap fun i => [(cpSrc e.recs i, cpLen e.recs), (cpDst e.recs i, cpLen e.recs)]) ++
        (match cpSync e.recs with | some x => [(x, 16)] | none => [])
    else if e.fn = fnTepi then tpSpans e.recs
    else e.spans

/-- Whether an engine command reads or writes storage that satisfies `f`. -/
def EngCmd.names (e : EngCmd) (f : W64 → Nat → Bool) : Bool := e.allSpans.any fun x => f x.1 x.2

/-! ### Performing commands -/

def WCmd.row (w : WCmd) (k : Nat) : Nat := ofBytes (kget w.staged k [])

/-- Counts of a command's conditions, applied to the issuing core when it retires; `ev` is what its saturation counts as:
a Wain saturation, or an integer saturation of a conversion (R249, R252, R253, R329). -/
def State.countElems (s : State) (l ev : Nat) (rs : List (BitVec 5 × Bool)) : State :=
  s.updCore l fun c => rs.foldl (fun c r =>
    let c := (flagEvents r.1).foldl (fun c e => c.countEv e 1) c
    if r.2 then c.countEv ev 1 else c) c

/-- Invalid-trit events of the staged B columns: one per element, or per T5 byte, that is used (R245), and at most one
for each accumulator element of the column (R329, log entry 110). -/
def WCmd.badTrits (w : WCmd) (fb kd rows : Nat) : Nat :=
  (w.cmd.steps.filter (32 ≤ ·)).foldl (fun n k =>
    let row := w.row k
    n + min rows (if fb = 15 then (List.range kd).countP fun i => (wainElem 15 row i).2
      else if fb = 16 then (List.range ((kd + 4) / 5)).countP fun i => (t5Trit row (5 * i)).2
      else 0)) 0

/-- C += A·B on the selected elements (R341, R342). -/
def State.doWmma (s : State) (cl : Nat) (w : WCmd) : State :=
  let fc := w.cmd.fmt
  let k := pairK fc.a.toNat fc.b.toNat
  let d := fld (w.rec_ 3) 15 7
  let kd := if d = 0 then k else d
  let rows := (List.range 32).filter fun i => bit (w.rec_ 2) i
  let cols := (List.range 32).filter fun j => bit (w.rec_ 2) (32 + j)
  let s := s.countEv w.core evTrit (w.badTrits fc.b.toNat kd rows.length)
  if fc.acc = 2#2 then
    let t := fld (w.rec_ 3) 5 3
    rows.foldl (fun s i =>
      let c := s.clu cl
      let (qs, ex) := c.s40Row t i
      let adds := (List.range 32).map fun j =>
        if cols.contains j then s40Elem fc (w.row i) (w.row (32 + j)) kd else (.fin false 0 0, false)
      let xs := (qs.zip adds).map fun p => (vAdd (s40Val p.1 ex) p.2.1).1
      let (qs', e', n) := s40Fit xs ex
      let s := s.setClu cl (c.setS40Row t i qs' e')
      (s.countElems w.core evWainSat (adds.filterMap fun a => if a.2 then some (fNV, false) else none)).countEv w.core evWainSat n) s
  else
    let t := fld (w.rec_ 3) 6 3
    rows.foldl (fun s i => cols.foldl (fun s j =>
      let c := s.clu cl
      let r := mmaElem fc (w.row i) (w.row (32 + j)) kd (c.el32 t i j)
      (s.setClu cl (c.setEl32 t i j r.code)).countElems w.core evWainSat [(r.flags, r.wsat)]) s) s

/-- WZERO (R344). -/
def State.doWzero (s : State) (cl : Nat) (w : WCmd) : State :=
  let tiles := (List.range 16).filter fun t => bit (w.rec_ 0) t
  let ex := fld (w.rec_ 0) 23 16
  s.updClu cl fun c =>
    let c := tiles.foldl Cluster.zeroTile c
    if w.cmd.fmt.acc = 2#2 then
      (List.range 8).foldl (fun c t =>
        if bit (w.rec_ 0) (2 * t) then
          (List.range 32).foldl (fun c i => c.setS40Row t i (List.replicate 32 0#40) ex) c
        else c) c
    else c

/-- WNORM's effect on chosen rows of S40 tile `t` (R346). -/
def Cluster.normRows (c : Cluster) (t : Nat) (rows : List Nat) : Cluster :=
  rows.foldl (fun c i => let (qs, e) := c.s40Row t i; let (q', e') := s40Norm qs e; c.setS40Row t i q' e') c

/-- WSTEP (R345). -/
def State.doWstep (s : State) (cl : Nat) (w : WCmd) : State :=
  let t := fld (w.rec_ 1) 38 36
  let u := fld (w.rec_ 1) 35 32
  let fp := (wainFloat w.cmd.fmt.a.toNat).isSome || 18 ≤ w.cmd.fmt.a.toNat
  (w.cmd.steps).foldl (fun s i =>
    let c := s.clu cl
    let (qs, ex) := c.s40Row t i
    let row := w.row i
    let rs := (qs.zipIdx).map fun p =>
      let d := decodeF F16 (rowElem row 16 p.2)
      let v := if fp then decodeF F32 (c.el32 u i p.2).toNat else ofInt (c.el32 u i p.2).toInt
      let fin (x : Val) : Val × Bool := match x with | .fin _ _ _ => (x, false) | _ => (.fin false 0 0, true)
      let (d, b1) := fin d
      let (v, b2) := fin v
      ((vAdd (vMul d (s40Val p.1 ex)).1 v).1, b1 || b2)
    let (q', e', n) := s40Fit (rs.map (·.1)) ex
    let s := s.setClu cl (c.setS40Row t i q' e')
    (s.countElems w.core evWainSat (rs.filterMap fun a => if a.2 then some (fNV, false) else none)).countEv w.core evWainSat n) s

/-- Performs a Wain command's effect on the accumulators. -/
def State.doWain (s : State) (cl : Nat) (w : WCmd) : State :=
  if w.cmd.fn = fnWmma then s.doWmma cl w
  else if w.cmd.fn = fnWzero then s.doWzero cl w
  else if w.cmd.fn = fnWstep then s.doWstep cl w
  else if w.cmd.fn = fnWnorm then
    s.updClu cl fun c => c.normRows (fld (w.rec_ 0) 34 32) ((List.range 32).filter fun i => bit (w.rec_ 0) i)
  else s

/-- Whether a command is in its multiply-accumulate phase once it is active: all its steps are staged (R65). -/
def WCmd.inMac (w : WCmd) : Bool := !w.stopped && w.nextStep.isNone

/-- The same accepted command. -/
def WCmd.same (w x : WCmd) : Bool := x.core == w.core && x.cmd.op == w.cmd.op && x.internal == w.internal

def Cluster.dropCmd (c : Cluster) (w : WCmd) : Cluster := { c with wain := c.wain.filter fun x => !(w.same x) }
def Cluster.updCmd (c : Cluster) (w : WCmd) (f : WCmd → WCmd) : Cluster :=
  { c with wain := c.wain.map fun x => if w.same x then f x else x }

/-- The command a Wain works on: the first whose core has no stopped command (R66, R343). -/
def Cluster.active (c : Cluster) : Option WCmd :=
  c.wain.find? fun w => !(c.wain.any fun x => x.stopped && x.core == w.core)

/-- After the N-th WSTEP of a tile the internal renormalisation follows it (R345). -/
def State.stepCount (s : State) (cl : Nat) (w : WCmd) : State :=
  if w.cmd.fn ≠ fnWstep then s
  else
    let t := fld (w.rec_ 1) 38 36
    let c := s.clu cl
    let n := kget c.steps t 0 + 1
    if w.cmd.fmt.n ≤ n then
      let e : EngCmd := { w.cmd with fn := fnWnorm, recs := [mkWord [(32, t), (0, 2 ^ 32 - 1)], 0#64], waits := [], ctr := none }
      s.setClu cl { c with
        steps := kput c.steps t 0
        wain := { core := w.core, cmd := e, index := 0, internal := true } :: c.wain }
    else s.setClu cl { c with steps := kput c.steps t n }

/-- A lease whose last command has retired ends by count (R337). -/
def State.leaseByCount (s : State) (cl : Nat) : State :=
  match (s.clu cl).lease with
  | some x =>
    if x.cmds ≤ x.accepted && !((s.clu cl).wain.any fun w => w.core == x.core && !w.internal) then
      s.updClu cl fun c => { c with lease := none }
    else s
  | none => s

/-- Retires a command of a Wain: its effect, its events, its counter and status (R145, R330, R343); a resumed one clears
V (R348). -/
def State.retireCmd (s : State) (cl : Nat) (w : WCmd) : State :=
  let s := (s.updClu cl fun c => c.dropCmd w).doWain cl w
  if w.internal then s
  else
    let s := (s.wainDone w.core w.cmd 1 w.index).stepCount cl w
    let s := if w.resumed then s.updCore w.core fun c => { c with rowprog := setFld c.rowprog 63 63 0 } else s
    s.leaseByCount cl

/-- A fault of an engine, as its record carries it (R329, R356): 1 Dray, 2 Wain, 3 Tender. -/
def engFlt (f : Flt) (eng : Nat) (e : EngCmd) : Flt := { f with eng := BitVec.ofNat 2 eng, word := e.word, late := true }

/-- A command of a Wain that a fault ends: accumulators unchanged, Kind 3, the fault deferred (R329, R330). -/
def State.failCmd (s : State) (cl : Nat) (w : WCmd) (f : Flt) : State :=
  let s := s.updClu cl fun c => c.dropCmd w
  let s := s.wainDone w.core w.cmd 3 w.index
  let s := if w.resumed then s.updCore w.core fun c => { c with rowprog := setFld c.rowprog 63 63 0 } else s
  (s.deferFlt w.core w.cmd.owner w.cmd.part (engFlt f 2 w.cmd)).leaseByCount cl

/-- Parity of a tile's storage (R81). -/
def accParity (s : State) (cl t : Nat) : Bool := s.eccBad (clsBase 0xA + cl * 0x10000 + t * 0x1000)

/-- A command whose steps are all staged ends: a WMMA that meets a parity error fails, any other is performed (R81, R343). -/
def State.finishCmd (s : State) (cl : Nat) (w : WCmd) : State :=
  if w.cmd.fn = fnWmma ∧ w.cmd.tiles.any (accParity s cl) then s.failCmd cl w { code := causeData } else s.retireCmd cl w

/-- Whether every unit a copy has to perform is performed (R334). -/
def Copy.quiet (c : Copy) : Bool := c.units.countP (fun u => decide (u < c.total)) == c.total

/-- Whether a core has TEPIs that are not retired. -/
def State.tepiPending (s : State) (l : Nat) : Bool :=
  (s.core l).qe.any (fun e => e.fn == fnTepi) || s.clusters.any fun c => c.2.tender.any fun t => t.core == l

/-! ### The ramp (R427) -/

/-- Whether a Wain must ramp before its next multiply-accumulate (R427). -/
def State.needsRamp (s : State) (cl : Nat) : Bool := cl < 0x80 && decide (1000 ≤ (s.time - (s.clu cl).macAt).toNat)

/-- Whether a Wain's active command is ready to multiply and accumulate. -/
def State.macReady (s : State) (cl : Nat) : Bool :=
  match (s.clu cl).active with
  | some w => w.inMac && !w.internal && (w.cmd.fn == fnWmma || w.cmd.fn == fnWstep)
  | none => false

/-- At most four Wains of a quarter begin a ramp in 125 ns, the lowest cluster first (R427). -/
def State.mayRamp (s : State) (cl : Nat) : Bool :=
  let q := (List.range 32).map (cl / 32 * 32 + ·)
  let begun := q.countP fun k => (s.clu k).ramp == 1 && decide ((s.time - (s.clu k).rampAt).toNat < 125)
  let ahead := q.countP fun k => decide (k < cl) && s.macReady k && s.needsRamp k
  decide (begun + ahead < 4)

/-- An active command whose steps are all staged begins its multiply-accumulate phase, at the ramp's pace, or has none; it
may have to wait for its turn to ramp (R427). -/
def State.macBegin (s : State) (cl : Nat) : Option State :=
  if !(s.macReady cl) then some s
  else if !(s.needsRamp cl) then some (s.updClu cl fun c => { c with macAt := s.time })
  else if s.mayRamp cl then some (s.updClu cl fun c => { c with ramp := 1, rampAt := s.time, macAt := s.time })
  else none

/-! ### Leases (R336 to R338) -/

/-- A stopped command's progress as cw.rowprog shows it (R66). -/
def rowprogWord (idx acc step : Nat) : W64 := mkWord [(63, 1), (48, idx % 64), (44, acc), (0, step)]

/-- Commands issued to a Wain and not accepted yet. -/
def Core.queued (c : Core) (cl : Nat) : List EngCmd := c.qm.filter fun e => e.fn != fnMarker && e.cl == cl

/-- The commands of a list as accepted ones, with the index each counted one would have had. -/
def asCmds (l : Nat) : Nat → List EngCmd → List WCmd
  | _, [] => []
  | i, e :: t => { core := l, cmd := e, index := i } :: asCmds l (if e.counted then i + 1 else i) t

/-- Ends the lease of a Wain other than by count: the command in its multiply-accumulate phase completes, a stopped one
keeps its place with its steps discarded, the others, accepted or still queued, are dropped (R67, R337). -/
def State.endLease (s : State) (cl : Nat) : State :=
  let s := match (s.clu cl).active with
    | some w => if w.inMac && !w.internal then (match s.macBegin cl with | some t => t.finishCmd cl w | none => s) else s
    | none => s
  let c := s.clu cl
  let stopped := (c.wain.filter (·.stopped)).map fun w => { w with staged := [], step := 0 }
  let internals := c.wain.filter (·.internal)
  let gone := c.wain.filter fun w => !w.stopped && !w.internal
  let late := match c.lease with
    | some x => asCmds x.core x.accepted ((s.core x.core).queued cl)
    | none => []
  let s := s.setClu cl { c with lease := none, wain := internals ++ stopped }
  let s := stopped.foldl (fun s w => s.updCore w.core fun k => { k with rowprog := setFld k.rowprog 5 0 0 }) s
  let s := match c.lease with
    | some x => s.updCore x.core fun k => { k with qm := k.qm.filter fun e => e.fn == fnMarker || e.cl != cl }
    | none => s
  (gone ++ late).foldl State.wainDrop s

/-- The tiles of a Wain that a core holds, as a mask (R336, R352). -/
def Cluster.holdMask (c : Cluster) (l : Nat) : Nat :=
  (List.range 16).foldl (fun m t => if kfind c.holder t = some l then m + 2 ^ t else m) 0

/-- Frees and zeroises tiles of a mask that a core holds (R338). -/
def Cluster.freeTiles (c : Cluster) (l mask : Nat) : Cluster :=
  (List.range 16).foldl (fun c t =>
    if mask.testBit t && kfind c.holder t == some l then
      ({ c with holder := kdel c.holder t } : Cluster).zeroTile t
    else c) c

/-- Ends the lease that a core holds on a Wain and frees every tile it holds there (the events of R337's fourth row). -/
def State.stripCore (s : State) (cl l : Nat) : State :=
  let s := match (s.clu cl).lease with
    | some x => if x.core = l then s.endLease cl else s
    | none => s
  s.updClu cl fun c => c.freeTiles l 0xFFFF

/-- The rank of a lease request (R336): 1 a Clearing core that holds a seizure, 2 a common core of the slot's holder, 3
any other; none for the others while the cluster is seized, and none for a Clearing core on a Grove cluster that is not. -/
def State.leaseRank (s : State) (cl l : Nat) : Option Nat :=
  match (s.clu cl).seized with
  | some p => if isClearing l && (s.core l).part.toNat == p then some 1 else none
  | none =>
    if isClearing l && decide (cl < 0x80) then none
    else if s.isCommon l && s.slot.holder == some (s.core l).part.toNat then some 2
    else some 3

/-- The waiting request to grant next: least rank, then round-robin by logical id after the last grantee (R336). -/
def State.nextGrant (s : State) (cl : Nat) : Option LeaseReq :=
  let c := s.clu cl
  let pick (r : Nat) : Option LeaseReq :=
    let ws := c.waiters.filter fun w => s.leaseRank cl w.core == some r
    let dist (l : Nat) : Nat := (l + 0x1000 - c.lastGrant - 1) % 0x1000
    ws.foldl (fun b w => match b with
      | none => some w
      | some x => if dist w.core < dist x.core then some w else some x) none
  (pick 1 <|> pick 2) <|> pick 3

/-- Grants a lease by its specification word: bound, commands, and every named tile no other core holds (R336). -/
def State.grantLease (s : State) (cl l : Nat) (spec : W64) : State :=
  let mx := fld (s.cw (0xE00 + cl) 0x3000) 7 0
  let b := fld spec 47 40
  let bound := if b = 0 then mx else min b mx
  let s := s.updCore l fun c => { c with wlast := some cl }
  s.updClu cl fun c =>
    { c with
      lease := some { core := l, cmds := fld spec 39 34 + 1, until_ := s.time + BitVec.ofNat 64 (bound * 100) }
      lastGrant := l
      waiters := c.waiters.filter (·.core != l)
      holder := (List.range 16).foldl (fun h t =>
        if bit spec (48 + t) && (kfind h t).isNone then kput h t l else h) c.holder }

/-- The cluster on which a core holds a lease, and the lease. -/
def State.leaseOf (s : State) (l : Nat) : Option (Nat × Lease) :=
  s.clusters.findSome? fun c => match c.2.lease with
    | some x => if x.core = l then some (c.1, x) else none
    | none => none

end Sys2Proof.Machine
end

