-- ==== Sys2Proof/Machine/Sched.lean ====
section
/-! DEFINITION. Firings: consumption at END, the end of a firing by END, YIELD, abandonment; starting one, aging, interrupts
of priority 0, and replies to stalled words (chapter 07, R383 to R385). -/

namespace Sys2Proof.Machine

/-! ### Circular buffers and credits (R206, R209) -/

/-- What consuming `rate` messages passes: the new Head and Used, with every skip marker reached before and after. -/
def passMsgs (hdr : Nat → W64) (units : Nat) : Nat → Nat → Nat → Nat → Nat × Nat
  | 0, _, head, used => (head, used)
  | fuel + 1, rate, head, used =>
    if used = 0 ∨ units = 0 then (head, used)
    else
      let h := hdr head
      let n := max 1 ((fld h 15 0 + 63) / 64)
      if bit h 63 then passMsgs hdr units fuel rate ((head + n) % units) (used - n)
      else if rate = 0 then (head, used)
      else passMsgs hdr units fuel (rate - 1) ((head + n) % units) (used - n)

/-- Sends a packet on the message network. -/
def State.sendPkt (s : State) (p : Pkt) : State :=
  { s with net := s.net ++ [{ p with n := s.pktNext }], pktNext := s.pktNext + 1 }

/-- Whether the retry unit of its sender holds a packet back (R322). -/
def State.retrying (s : State) (p : Pkt) : Bool := (s.core p.src).sendq.any fun q => q.1 == p.n

/-- A credit of a buffer, by the key of its descriptor. -/
def creditOf (buf : Nat) (p : Pkt) : Bool :=
  match p.kind with
  | .credit b _ _ => b == buf
  | _ => false

/-- Whether the gateway admits traffic of core `l` for a core: one of its own array, or a Grove core whose cluster is seized
for a Clearing one (R39, R199). -/
def State.gateOk (s : State) (l dst : Nat) : Bool :=
  isArrayCore dst && !(isGrove l && isClearing dst) &&
    !(isClearing l && isGrove dst && (s.clu (clusterOf dst)).seized.isNone)

/-- Whether a message of core `l` may be sent to a core: a live one the gateway admits (R205, R321). -/
def State.destOk (s : State) (l dst : Nat) : Bool := s.gateOk l dst && !(s.retired dst)

/-- A change of Used sends a credit of Units − Used when CrEn is set; at most one of a buffer is in flight, and it carries
the newest count to the port its descriptor names now (R209). The gateway carries none that R39 does not admit (R199). -/
def State.sendCredit (s : State) (l off : Nat) : State :=
  let tile := tileOf l
  let d2 := s.lm64 tile (off + 16)
  if !(bit d2 63) then s
  else
    let v := fld (s.lm64 tile off) 27 17 - fld (s.lm64 tile (off + 8)) 42 32
    let dst := fld d2 40 29
    let port := fld d2 16 0
    let buf := lmKey tile off
    if !(s.gateOk l dst) then s
    else if s.net.any (creditOf buf) then
      { s with net := s.net.map fun p => if creditOf buf p then { p with dst := dst, kind := .credit buf port v } else p }
    else s.sendPkt { n := 0, src := l, dst := dst, part := 0#6, acc := 0, kind := .credit buf port v }

/-- Consumption at END by input port `k` of a declaration at LM offset `decl` (R185, R209). -/
def State.consumePort (s : State) (l decl k : Nat) : State :=
  let tile := tileOf l
  let at_ := decl + 40 + 16 * k
  let cfg := s.lm64 tile (decl + 32 + 16 * k)
  let st := s.lm64 tile at_
  let rate := fld cfg 59 48
  let ref := fld cfg 47 0
  match fld cfg 63 60 with
  | 1 =>
    let o := ref % 2 ^ 17
    let d0 := s.lm64 tile o
    let d1 := s.lm64 tile (o + 8)
    let (h, u) := passMsgs (fun i => s.lm64 tile (fld d0 16 0 + 64 * i)) (fld d0 27 17) 1024 rate (fld d1 9 0) (fld d1 42 32)
    ((s.setLm tile (o + 8) 8 (setFld (setFld d1 9 0 h) 42 32 u).toNat).scrub tile (o + 16) 1).sendCredit l o
  | 2 => s.setLm tile at_ 8 ((st.toNat + rate * ref) % 2 ^ 64)
  | 3 => s.setLm tile at_ 8 (setFld st 15 0 (fld st 15 0 + rate)).toNat
  | 4 => s.setLm tile at_ 8 ((st.toNat + rate) % 2 ^ 64)
  | _ => s

/-! ### The end of a firing (R189, R190, R266) -/

/-- The core gives its running firing up: nothing of its own stream stays in the core. -/
def State.leave (s : State) (l : Nat) : State :=
  ((s.dropArrival l).updCore l fun c =>
    { c.unhold with
      run := false, guard := {}, wait := .none, joined := none, held := [], parkDue := false,
      inl := [] }).endOverrun l (s.core l).curEnt

/-- Writes word 0 of a workspace in its place (R178). -/
def Core.setStatus (c : Core) (place : Option Nat) (st : Nat) (pc : W64) : Core :=
  match place with
  | some p => { c with rf := kput c.rf (wordKey p 0) (savedStatus st pc) }
  | none => c

/-- Deferred faults of a firing that is gone post their records and hold nothing (R307). -/
def State.flushDeferred (s : State) (l e : Nat) : State :=
  let c := s.core l
  match c.wkEnt e with
  | none => s
  | some w =>
    let s := s.setCore l { c with deferred := c.deferred.filter (·.owner.id != w.fid) }
    (c.deferred.filter (·.owner.id == w.fid)).foldl (fun s f =>
      s.postRecord w.part (s.faultRecord l f f.owner false false {} (Config.gonePc s.tick))) s

/-- END's commit: each input port consumes, St becomes idle, and a single-shot workspace is freed (R187, R189). -/
def State.endFiring (s : State) (l : Nat) : State :=
  match (s.core l).curWk with
  | none => s.leave l
  | some w =>
    let s := match w.decl with
      | some d => (List.range w.nin).foldl (fun (s : State) k => s.consumePort l d k) s
      | none => s
    let s := (s.leave l).flushDeferred l w.ent
    let s := s.updCore l fun c =>
      if w.nin = 0 then c.freeWk w
      else (c.setStatus w.place 0 0#64).updWk w.ent fun w =>
        { w with st := .idle, prevDur := s.time - w.started, lastEnd := s.time, fired := true }
    (s.reevalTile (tileOf l)).judgeMove l

/-- YIELD: the firing ends and commits nothing; its actor is evaluated for readiness at once (R266). -/
def State.yieldFiring (s : State) (l : Nat) : State :=
  match (s.core l).curWk with
  | none => s.leave l
  | some w =>
    let s := (s.leave l).flushDeferred l w.ent
    let s := s.updCore l fun c => (c.setStatus w.place 0 0#64).updWk w.ent fun w =>
      { w with st := .idle, prevDur := s.time - w.started, lastEnd := s.time }
    (s.reevalTile (tileOf l)).judgeMove l

/-- Abandons the firing of a workspace, running, interrupted, held or waiting to resume: it commits nothing (R190).
`ends` says that a single-shot actor does not fire again (R187, log entry 15). -/
def State.abandon (s : State) (l e : Nat) (ends : Bool) : State :=
  let c := s.core l
  match c.wkEnt e with
  | none => s
  | some w =>
    let isCur := c.run && (match c.curWk with | some k => k.ent == e | none => false)
    let s := if isCur then (s.leave l).updCore l fun c => { c with mayMove := false } else s
    let s := s.updCore l fun c =>
      let stops := c.seq.owner == e
      let taken := fun (a : Acc) => a.party == Stream.seq && a.home == Home.inCore && a.kind.isRead
      let waits := (c.intr.filter (·.ent == e)).filterMap fun i => i.holdDue.map (·.1)
      let c := { c with
        deferred := waits.filter (fun (f : Flt) => f.late || f.seq) ++ c.deferred
        intr := c.intr.filter (·.ent != e), runq := c.runq.filter (·.ent != e)
        seq := if stops then c.seq.stopGone ((c.acc.filter taken).map fun (a : Acc) => a.n) else c.seq
        acc := if stops then c.acc.filter fun a => !(taken a) else c.acc }
      (c.setStatus w.place 0 0#64).updWk e fun w =>
        { w with st := .idle, hpc := 0#64, hguard := {}, hinl := [], hwait := .none, hjoin := none, nested := false
                 resumed := false, lastEnd := s.time
                 fired := w.fired || (ends && w.nin == 0) }
    ((s.endOverrun l e).flushDeferred l e).reevalTile (tileOf l)

/-! ### The table (R389, R390) -/

def State.slotEn (s : State) : Bool := bit (s.dcw 0x078000) 63
def State.slotPeriod (s : State) : Nat := fld (s.dcw 0x078000) 48 35 * 1000
def State.slotGuard (s : State) : Nat := fld (s.dcw 0x078000) 34 31 * 1000
def State.slotStart (s : State) (i : Nat) : Nat := fld (s.slotEntry i 0) 55 42 * 1000
def State.lastSlot (s : State) : Bool := s.slotCount ≤ s.slot.cur + 1

/-- Device time of the next edge: the begin of period 0, of the next slot, or of the next period. -/
def State.edgeTime (s : State) : Nat :=
  if !s.slot.begun then s.slot.periodAt.toNat
  else if s.lastSlot then s.slot.periodAt.toNat + s.slotPeriod
  else s.slot.periodAt.toNat + s.slotStart (s.slot.cur + 1)

/-- The entry of the next slot. -/
def State.nextEntry (s : State) : Nat := if !s.slot.begun || s.lastSlot then 0 else s.slot.cur + 1

/-- Length of slot `i` in ns. -/
def State.slotLen (s : State) (i : Nat) : Nat :=
  (if s.slotCount ≤ i + 1 then s.slotPeriod else s.slotStart (i + 1)) - s.slotStart i

def State.slotOwner (s : State) (i : Nat) : Option Nat :=
  let w := s.slotEntry i 0
  if bit w 62 then some (fld w 61 56) else none

def State.debtOf (s : State) (p : Nat) : Nat := fld (s.dcw (0x047000 + 8 * p)) 31 0

/-- Lost time, in µs, of the owner of slot `i` (R393). -/
def State.lostTime (s : State) (i : Nat) : Nat :=
  match s.slotOwner i with
  | some p => min (s.debtOf p) (s.slotLen i / 1000)
  | none => 0

/-- The first donee of entry `i`, from position `k` on, that is none of `gone`; with its position (R396). -/
def State.doneeFrom (s : State) (i k : Nat) (gone : List Nat) : Option (Nat × Nat) :=
  ((s.donees i).zipIdx.drop k).find? fun x => !(gone.contains x.1)

/-- The donee that receives the lost time of a slot's owner: it passes on as if the owner had donated (R393). -/
def State.lostDonee (s : State) (i p : Nat) : Option (Nat × Nat) := s.doneeFrom i 0 [p]

/-- The partition that holds the common intervals just after the next edge (R393). -/
def State.nextHolder (s : State) : Option Nat :=
  let i := s.nextEntry
  match s.slotOwner i with
  | none => none
  | some p => if 0 < s.lostTime i then (s.lostDonee i p).map (·.1) else some p

/-- The guard of an edge that changes the holder: from Guard µs before it to the edge (R393). -/
def State.inGuard (s : State) : Bool :=
  s.slotEn && decide (s.edgeTime ≤ s.time.toNat + s.slotGuard) && s.nextHolder != s.slot.holder

/-! ### Starting a firing (R188, R383, R385) -/

/-- Whether an edge, a donation or the edge's steps keep firings from starting on a common core (R393, R394, R396). -/
def State.edgeBars (s : State) (l : Nat) : Bool :=
  s.slot.due.contains l || (s.isCommon l && (s.inGuard || s.slot.pend.isSome || !s.slot.zero.isEmpty))

/-- Whether a team starts no firing but lets a held one that is resumed go on: it is ending (R95, R361, R403). -/
def State.teamEnds (s : State) (t : Nat) : Bool :=
  match kfind s.teams t with
  | some x => x.st == .ended
  | none => true

/-- Whether a firing of a workspace may start on core `l` now: not retired or stopped, on a common core only for the
slot's holder outside the guard and outside a donation, and not on a seized cluster or one in retention (R392, R393, R396,
R398, R411, R423). -/
def State.mayStart (s : State) (l : Nat) (w : Wk) : Bool :=
  let cl := s.clu (clusterOf l)
  (s.teamRuns w.team || (w.resumed && s.teamEnds w.team)) && !(s.retired l) && !(s.coreStopped l) && cl.ret == .active &&
    !(isGrove l && cl.seized.isSome) &&
    !(s.edgeBars l) && (!(s.isCommon l) || s.slot.holder == some w.part.toNat)

/-- The firing of a workspace begins, or a held one resumes, in the place its workspace has (R45, R188, R193, R361). -/
def Core.beginFiring (c : Core) (l : Nat) (now : W64) (e : Nat) : Core :=
  match c.wkEnt e with
  | none => c
  | some w =>
    let p := w.place.getD 0
    let c := { c with runq := c.runq.filter (·.ent != e) }.updWk e fun w =>
      { w with st := .running, started := now, resumed := false, hpc := 0#64, hguard := {}, hinl := [], hwait := .none
               hjoin := none, nested := false, fid := if w.resumed then w.fid else c.nextFid }
    let c := { c with nextFid := c.nextFid + 1, cur := p }.nowFaults l
    { c with
      run := true, mayMove := false, mode := w.mode, xctx := mkWord [(10, w.part.toNat), (0, w.ctx.toNat)], tstat := 0#64
      pc := if w.resumed then w.hpc else w.entry
      guard := if w.resumed then w.hguard else {}
      seq := if w.resumed then c.seq.resume e else c.seq
      started := now, held := [], parkDue := false, holdDue := none, wait := if w.resumed then w.hwait else .none
      joined := if w.resumed then w.hjoin else none, inl := if w.resumed then w.hinl else []
      rf := kput c.rf (wordKey p 0) (savedStatus 1 0#64) }

/-- The first entry of a list that may start and whose workspace is, or can be made, resident (R74). -/
def State.pickStart (s : State) (l : Nat) : List RqEnt → Option (State × Nat)
  | [] => none
  | q :: t =>
    match (s.core l).wkEnt q.ent with
    | none => s.pickStart l t
    | some w =>
      if s.mayStart l w then
        match s.makeResident l w.ent with
        | some s' => some (s', w.ent)
        | none => s.pickStart l t
      else s.pickStart l t

/-- A core's run queue from priority 0 to 3, each first in, first out (R383). -/
def Core.queue (c : Core) : List RqEnt := (List.range 4).flatMap fun p => c.runq.filter (·.pri == p)

/-- The interrupted firing goes on where it was (R385). -/
def Core.backFrom (c : Core) (i : Intr) : Core :=
  let c := { c with intr := c.intr.drop 1 }
  match c.wkEnt i.ent with
  | none => c
  | some w =>
    let c := c.updWk i.ent fun w => { w with st := .running }
    { c with
      run := true, cur := w.place.getD 0, mode := w.mode, pc := i.pc, guard := i.guard, tpc := i.tpc, tstat := i.tstat
      xctx := mkWord [(10, w.part.toNat), (0, w.ctx.toNat)], inl := i.inl, held := i.held, parkDue := i.parkDue
      wait := i.wait, joined := i.joined, holdDue := i.holdDue, started := w.started }

/-- An idle core starts its next firing: priority 0 first, then an interrupted firing, then the queue (R383, R385). -/
def State.startNext (s : State) (l : Nat) : State :=
  let c := s.core l
  if c.run || c.halted || isStation l then s
  else
    match c.intr with
    | i :: _ =>
      match s.pickStart l (c.runq.filter (·.pri == 0)) with
      | some (s', e) => s'.updCore l fun c => c.beginFiring l s.time e
      | none => s.updCore l fun c => c.backFrom i
    | [] =>
      match s.pickStart l c.queue with
      | some (s', e) => s'.updCore l fun c => c.beginFiring l s.time e
      | none => s

/-- A ready actor of priority 0 interrupts a firing of priority 1 to 3 on a Clearing core (R385). -/
def State.interrupt (s : State) (l : Nat) : State :=
  let c := s.core l
  match c.curWk with
  | none => s
  | some w =>
    if !(isClearing l) || !c.run || w.pri == 0 then s
    else
      match s.pickStart l (c.runq.filter (·.pri == 0)) with
      | none => s
      | some (s', e) =>
        s'.updCore l fun c =>
          let i : Intr :=
            { ent := w.ent, pc := c.pc, guard := c.guard, tpc := c.tpc, tstat := c.tstat, inl := c.inl, held := c.held,
              parkDue := c.parkDue, wait := c.wait, joined := c.joined, holdDue := c.holdDue }
          ({ c with intr := i :: c.intr }.updWk w.ent fun w => { w with st := .interrupted }).beginFiring l s.time e

/-- Aging: a ready actor that has waited 64 µs at priority 2 or 3 moves to the tail of the next higher priority, and its
wait starts again (R384). -/
def Core.age (c : Core) (now : W64) : Core :=
  let old (q : RqEnt) : Bool := decide (2 ≤ q.pri) && decide (64000 ≤ (now - q.since).toNat)
  { c with
    runq := c.runq.filter (fun q => !(old q)) ++
      (c.runq.filter old).map fun q => { q with pri := q.pri - 1, since := now } }

/-- Limit of a watchdog class in ns; none when it is 0 (R358). -/
def Core.wdgLimit (c : Core) (cls : Nat) : Option Nat :=
  let n := fld c.wdog (16 * cls + 15) (16 * cls)
  if n = 0 then none else some (n * 100)

/-- Whether the running firing has exceeded its watchdog (R358). -/
def State.wdgDue (s : State) (l : Nat) : Bool :=
  let c := s.core l
  c.run && (match c.curWk with
    | some w => match c.wdgLimit w.wdg with
      | some n => decide (n < (s.time - c.started).toNat)
      | none => false
    | none => false)

/-! ### Replies to stalled words -/

/-- A reply reaches the word that sent tag `t`, its firing running, interrupted or held. -/
def Core.reply (c : Core) (t : Nat) (r : Wait) : Core :=
  { c with
    wait := if c.wait = .sent t then r else c.wait
    intr := c.intr.map fun i => if i.wait = .sent t then { i with wait := r } else i
    dir := c.dir.map fun w => if w.hwait = .sent t then { w with hwait := r } else w }

def State.reply (s : State) (l t : Nat) (r : Wait) : State := s.updCore l fun c => c.reply t r

/-- A write that went over the network has met its outcome, which its acknowledgement will carry (R131). -/
def State.remoteDone (s : State) (l n : Nat) (v : W64) (f : Option Flt) : State :=
  s.updCore l fun c => c.updAcc n fun a => { a with st := .performed, data := v, flt := f }

/-- A tag not used before on this core. -/
def State.newTag (s : State) (l : Nat) : State × Nat :=
  let c := s.core l
  (s.setCore l { c with accNext := c.accNext + 1 }, c.accNext)

end Sys2Proof.Machine
end

