-- ==== Sys2Proof/Machine/Slot.lean ====
section
/-! DEFINITION. The slot table's run time: edges, Debt, donation, and the seizure of Grove clusters (chapter 18). An edge,
a donation and the end of lost time all pass the common intervals on by one operation, and the steps of R394 follow, each
when what it waits for is done. -/

namespace Sys2Proof.Machine

/-! ### Common cores and their work -/

/-- Whether a core has a firing that runs or is interrupted. -/
def Core.busy (c : Core) : Bool := c.run || !c.intr.isEmpty

def State.commonCores (s : State) : List Nat := (s.cores.map (·.1)).filter s.isCommon

/-- A common core has run a firing of the holder, or held a ready actor of it (R396). -/
def State.commonActive (s : State) : Bool :=
  match s.slot.holder with
  | none => false
  | some h => s.commonCores.any fun l => (s.core l).dir.any fun w => w.part.toNat == h && (match w.st with
    | .running | .interrupted | .queued => true
    | .idle | .held => false)

/-- Whether an access of core `l` is one that an edge waits for (R41, R142): every access at a home outside the core, but
not a message that its retry unit still offers; and a release held in the core, but not a push that only waits for room. -/
def State.edgeWaits (s : State) (l : Nat) (a : Acc) : Bool :=
  let q := (s.core l).seq
  match a.home, a.kind with
  | .inCore, .qpush k => decide ((if k = 0 then q.qv else q.qg).length < 16)
  | .inCore, _ => a.rel.isSome
  | _, .remote => !(s.net.any fun p => p.src == l && p.acc == a.n && s.retrying p)
  | _, _ => true

/-- Whether the edge steps 1 to 3 may run on core `l`: its seizure is over, no firing runs or overruns there, and its admitted
accesses and held releases, its handler queue, its copies and its epilogues are done (R41, R142, R394, R400). -/
def State.edgeCoreReady (s : State) (l : Nat) : Bool :=
  let c := s.core l
  !(s.clu (clusterOf l)).ceding && !c.busy && c.acc.all (fun a => !(s.edgeWaits l a)) && c.hq.isEmpty && c.fifo.isEmpty &&
    c.copies.all (·.told) && !(s.tepiPending l)

/-! ### Seizure (R398 to R401) -/

def State.lends (s : State) (i q cl : Nat) : Bool :=
  fld (s.slotEntry i 0) 10 5 == q && (if cl < 64 then bit (s.slotEntry i 2) cl else bit (s.slotEntry i 3) (cl - 64))

/-- Whether a cluster may be seized by partition `q` now: the current slot lends it (R398), and no end of an earlier seizure
waits for admitted work (log entry 81). -/
def State.lendable (s : State) (q cl : Nat) : Bool :=
  s.slotEn && s.slot.begun && s.lends s.slot.cur q cl && !(s.clu cl).ceding

def State.coresOf (cl : Nat) : List Nat := (List.range 16).map (16 * cl + ·)

/-- Takes a Grove cluster for partition `q`: its restartable running firings are abandoned (R398). -/
def State.seizeCluster (s : State) (q cl : Nat) : State :=
  if (s.clu cl).seized == some q then s
  else
    let s := s.updClu cl fun c => { c with seized := some q, seizedAt := s.time }
    (State.coresOf cl).foldl (fun s l =>
      let c := s.core l
      match c.curWk with
      | some w => if c.run && w.rst then s.abandon l w.ent false else s
      | none => s) s

/-- Tiles of a cluster that a core other than one of the array `grove` holds. -/
def Cluster.holders (c : Cluster) (grove : Bool) : List Nat :=
  (c.holder.map (·.2)).filter fun l => isGrove l == grove

/-- Whether Grove cores have TEPIs pending on a cluster's tiles. -/
def State.groveTepis (s : State) (cl : Nat) : Bool :=
  ((s.clu cl).tender.any fun t => isGrove t.core) ||
    (State.coresOf cl).any fun l => (s.core l).qe.any fun e => e.fn == fnTepi

/-- A seizure has taken a Wain that no Grove core leases any more: the tiles Grove cores hold go once their TEPIs are done
(R337, R338, R398). -/
def State.cleanSeized (s : State) (cl : Nat) : State :=
  let leased := match (s.clu cl).lease with | some x => isGrove x.core | none => false
  if (s.clu cl).seized.isNone || leased || s.groveTepis cl then s
  else ((s.clu cl).holders true).foldl (fun s l => s.updClu cl fun c => c.freeTiles l 0xFFFF) s

/-- Ends the seizure of a cluster: the Clearing leases on its Wain end and the tiles they hold are zeroised, with those
that the seizure took from Grove cores; a Clearing core's request that still waits is refused (R336 to R338, R368). -/
def State.cedeCluster (s : State) (cl : Nat) : State :=
  let s := s.cleanSeized cl
  let out := (s.clu cl).waiters.filter fun w => isClearing w.core && decide (cl < 0x80)
  let s := out.foldl (fun s w => s.reply w.core w.tag (.refused (flt causeAccess))) s
  let s := s.updClu cl fun c => { c with waiters := c.waiters.filter fun w => !(out.contains w) }
  let ls := (s.clu cl).holders false ++ (match (s.clu cl).lease with
    | some x => if isClearing x.core then [x.core] else []
    | none => [])
  let s := ls.foldl (fun s l => s.stripCore cl l) s
  let s := s.updClu cl fun c => { c with seized := none, ceding := false }
  (State.coresOf cl).foldl (fun s l => s.reeval l) s

/-- The seizures that entry `i` does not lend on begin to end: accesses issued from now on are refused (R41, R400). -/
def State.cedeUnlent (s : State) (i : Nat) : State :=
  { s with clusters := s.clusters.map fun (c : Nat × Cluster) => match c.2.seized with
    | some q => if s.slotEn && s.lends i q c.1 then c else (c.1, { c.2 with ceding := true })
    | none => c }

/-- Whether an address names LM or a typed buffer of a cluster. -/
def onCluster (cl : Nat) (a : W64) (_n : Nat) : Bool :=
  (clsOf a == 1 && clusterOf (fld a 59 48) == cl) || ((clsOf a == 3 || clsOf a == 4) && fld a 59 48 == cl)

/-- Whether a command reads or writes storage of a cluster, or its accumulators through the Tender. -/
def EngCmd.touches (e : EngCmd) (cl : Nat) : Bool := (e.fn == fnTepi && e.cl == cl) || e.names (onCluster cl)

/-- Whether an accepted Wain command still has a row to stage, or a counter to increment, in storage that satisfies `f`. -/
def WCmd.names (w : WCmd) (f : W64 → Nat → Bool) : Bool :=
  (match w.cmd.ctr with | some c => f c.va 8 | none => false) ||
    w.cmd.steps.any fun k => (kfind w.staged k).isNone && f (w.cmd.stepAddr k) (w.cmd.stepBytes k)

/-- Whether an accepted Wain command still has a row of a cluster to stage. -/
def WCmd.touches (w : WCmd) (cl : Nat) : Bool := w.names (onCluster cl)

/-- Whether the counter of a maintenance operation satisfies `f`. -/
def Maint.counts (x : Maint) (f : Ctr → Bool) : Bool := match x.counter with
  | some c => f c
  | none => false

/-- Whether partitions that satisfy `q` have admitted work on storage that satisfies `f`: accesses not acknowledged, engine
commands and maintenance operations not done, counters still to be incremented (R41). What itself waits for the access that
asks, number `since.2` of core `since.1`, is none of it. -/
def State.workBy (s : State) (since : Option (Nat × Nat)) (q : BitVec 6 → Bool) (f : W64 → Nat → Bool) : Bool :=
  (s.cores.any fun c =>
    let after := match since with
      | some (l, n) => if c.1 = l then (c.2.behind l n).map (fun (a : Acc) => a.n) else []
      | none => []
    let free (ws : List Nat) : Bool := !(ws.any after.contains)
    c.2.acc.any (fun a => q a.part && a.home != .inCore && f a.va a.span && !(after.contains a.n)) ||
      (c.2.fifo ++ c.2.qm ++ c.2.qe).any (fun e => q e.part && e.names f && free e.waits) ||
      c.2.copies.any (fun x => q x.cmd.part && x.cmd.names f && !x.told) ||
      c.2.maint.any fun x => q x.part && x.counts (fun k => f k.va 8) && free x.waits) ||
  (s.clusters.any fun c =>
    c.2.tender.any (fun t => q t.cmd.part && t.cmd.names f) || c.2.wain.any (fun w => q w.cmd.part && w.names f)) ||
  s.addq.any fun x => q x.part && f x.ctr.va 8

/-- Whether a partition has admitted work on storage that satisfies `f` (R41). -/
def State.workOn (s : State) (since : Option (Nat × Nat)) (p : BitVec 6) (f : W64 → Nat → Bool) : Bool :=
  s.workBy since (· == p) f

/-- Whether Clearing cores still have admitted work on a Grove cluster (R41, R368): accesses, copies, Tender commands, counters
still to be incremented, and Wain commands of their own clusters; those on the cluster's own Wain are dropped with their
lease (R337). -/
def State.clearingWork (s : State) (cl : Nat) : Bool :=
  let onCl (h : Home) : Bool := match h with
    | .lm t => clusterOf t == cl
    | .wbuf k => k == cl
    | .abuf k => k == cl
    | _ => false
  (s.cores.any fun c => isClearing c.1 &&
    (c.2.acc.any (fun a => onCl a.home) || c.2.fifo.any (·.touches cl) ||
      c.2.copies.any (fun x => x.cmd.touches cl && !x.told) || c.2.qe.any (·.touches cl) ||
      c.2.qm.any (fun e => e.cl != cl && e.touches cl) || c.2.maint.any fun x => x.counts fun k => onCl k.home)) ||
  (s.addq.any fun x => isClearing x.core && onCl x.ctr.home) ||
  s.clusters.any fun c =>
    c.2.tender.any (fun t => isClearing t.core && t.cmd.touches cl) ||
    (c.1 != cl && c.2.wain.any fun w => isClearing w.core && w.touches cl)

/-- The seizures being ended whose admitted work is done are over (R41). -/
def State.endCedes (s : State) : State :=
  (s.clusters.filter fun c => c.2.ceding && !(s.clearingWork c.1)).foldl (fun s c => s.cedeCluster c.1) s

/-! ### The steps of a change of holder (R394) -/

/-- Whether the cores of a list lie wholly in one common interval (R85, log entry 111). -/
def State.allCommon (s : State) (ls : List Nat) : Bool :=
  (List.range 4).any fun c => ls.all fun l => inIval (s.commonIval c) l

/-- Whether the cores of a list are split, so that windows are consulted (R85, R86). -/
def State.split (s : State) (ls : List Nat) : Bool :=
  ls.any (fun l => s.ivalOf l != s.ivalOf (ls.headD 0))

/-- The cores of the common intervals. -/
def State.commonIds (s : State) : List Nat :=
  (List.range 4).flatMap fun c =>
    let w := s.commonIval c
    if bit w 63 then (List.range (fld w 27 16)).map (fld w 11 0 + ·) else []

/-- Whether a cluster stays seized, so that a change of holder skips it (R400). -/
def State.keepsSeizure (s : State) (cl : Nat) : Bool := (s.clu cl).seized.isSome && !(s.clu cl).ceding

/-- The key ranges of one structure that a change of holder zeroises: all `n` bytes from `base` when its cores lie wholly in a
common interval; the bytes of the windows with Slot set when it is split (R87). -/
def State.zeroRanges (s : State) (cs : List Nat) (base n : Nat) (wins : List W64) (gran : Nat) : List (Nat × Nat) :=
  if s.allCommon cs then [(base, base + n)]
  else if s.split cs then
    (wins.filter fun w => bit w 63 && bit w 62).map fun w =>
      (base + gran * fld w 7 0, base + gran * (fld w 7 0 + fld w 23 16))
  else []

/-- The targets from `lo` below `hi` with a window word written, at an offset from `off` on. -/
def State.winTargets (s : State) (lo hi off : Nat) : List Nat :=
  (s.ctl.map (·.1)).filterMap fun k =>
    if lo ≤ k >>> 24 ∧ k >>> 24 < hi ∧ off ≤ k % 2 ^ 24 ∧ k % 2 ^ 24 < off + 96 then some (k >>> 24) else none

/-- All of them: LM of the tiles and typed buffers of the clusters of common cores, and of those that the slot's holder has
windows in, but for clusters that stay seized (R87, R394, R400, R464). -/
def State.edgeRanges (s : State) : List (Nat × Nat) :=
  let ls := s.commonIds
  let tiles := (ls.map tileOf ++ s.winTargets 0 0x840 0x1000).eraseDups.filter fun t => !(s.keepsSeizure (clusterOf t))
  let clus := (ls.map clusterOf ++ (s.winTargets 0xE00 0xE84 0x2000).map (· - 0xE00)).eraseDups.filter fun c => !(s.keepsSeizure c)
  (tiles.flatMap fun t =>
      s.zeroRanges (tileCores t) (lmKey t 0) 0x18000 ((List.range 4).map fun w => s.cw t (0x1000 + 8 * w)) 4096) ++
    clus.flatMap fun cl =>
      s.zeroRanges (clusterCores cl) (clsBase 3 + cl * 2 ^ 48) (bufSize cl true)
          ((List.range 4).map fun k => s.cw (0xE00 + cl) (0x2000 + 8 * k)) 16384 ++
        s.zeroRanges (clusterCores cl) (clsBase 4 + cl * 2 ^ 48) (bufSize cl false)
          ((List.range 4).map fun k => s.cw (0xE00 + cl) (0x2040 + 8 * k)) 8192

/-- The partition for which the steps are run: the holder, or the one that a donation passes the slot to, which becomes the
holder after them (R396). -/
def State.comer (s : State) : Option Nat :=
  match s.slot.pend with
  | some (new, _) => if s.slot.step then new else s.slot.holder
  | none => s.slot.holder

/-- Steps 1 to 3 on one core: its leases end, its resident workspaces and the shadow-bank workspaces of others than the
incoming holder are saved, its vector state and class words are zeroed, and the incoming holder's shadow-bank workspaces are
loaded. -/
def State.edgeCore (s : State) (l : Nat) : State :=
  let mine (w : Wk) : Bool := s.comer == some w.part.toNat
  let s := (s.clusters.map (·.1)).foldl (fun s cl => s.stripCore cl l) s
  let s := s.updCore l Core.flushAll
  let out := (s.core l).dir.filter fun w => match w.place with
    | some p => s.backEn w.part.toNat && (decide (p < 16) || !(mine w))
    | none => false
  let s := out.foldl (fun s w => s.saveOut l (w.place.getD 0)) s
  let s := s.updCore l fun c =>
    { c with seq := {}, fflags := 0#5, cmask := 0#64, cls := [], acc := c.acc.filter (·.home != .inCore) }
  let inc := (s.core l).dir.filter fun w => decide (0 < w.bank) && w.place.isNone && mine w
  inc.foldl (fun s w => s.loadIn l w.ent (15 + w.bank)) s

/-- The ways that a holder under an entry may fill beyond its own. -/
def State.slotFill (s : State) (holder : Option Nat) (i : Nat) : Nat := if holder.isSome then s.entryWays i else 0

/-- The slot ways of a mask are invalidated; what they hold was written through (R107). -/
def State.dropSlotWays (s : State) (mask : Nat) : State :=
  s.expelLines (s.linesIn (fun _ => true) fun i y => mask.testBit y.w && (s.slotWays (i / 1024)).testBit y.w)

/-- The steps of a change of holder become due on the common cores, tiles and clusters (R394). -/
def State.startSteps (s : State) : State :=
  let ls := s.commonCores.filter fun l => !(s.keepsSeizure (clusterOf l)) && !(s.slot.due.contains l)
  { s with slot := { s.slot with due := s.slot.due ++ ls, zero := (s.slot.zero ++ s.edgeRanges).eraseDups } }

/-- The common intervals pass to `new` under entry `i`, at once: the slot ways whose fillers change are invalidated once
accesses queued at the slices are served (R107, R109); where the holder changes, the steps of R394 become due on the common
cores, tiles and clusters (R392, R393). -/
def State.passTo (s : State) (new : Option Nat) (i : Nat) (don : Bool) : State :=
  let old := s.slot.holder
  let was := s.slotFill old s.slot.cur
  let now := s.slotFill new i
  let same := new == old && !s.slot.step
  let mask := if same then was ^^^ now else was ||| now
  let s := if mask = 0 then s else s.serveQueued.dropSlotWays mask
  let s := { s with slot := { s.slot with holder := new, cur := i, don := don, pend := none, step := false, idleSince := s.time } }
  if same then s else s.startSteps

/-- Whether an address names bytes still to be zeroised. -/
def State.namesZero (s : State) (a : W64) (n : Nat) : Bool :=
  let k := (s.homeOf a).2
  decide (clsOf a ≠ 0) && s.slot.zero.any fun r => decide (k < r.2) && decide (r.1 < k + n)

/-- Whether the bytes may be zeroised: no seizure is being ended, and what others than the holder have admitted on them, or
sent to common cores, is done (R41, R394, R400). -/
def State.zeroReady (s : State) : Bool :=
  let other (p : BitVec 6) : Bool := s.comer != some p.toNat
  !(s.clusters.any fun c => c.2.ceding) && !(s.workBy none other s.namesZero) &&
    !(s.net.any fun p => s.isCommon p.dst && other p.part && !(s.retrying p))

/-- The steps that may run now do. -/
def State.edgeSteps (s : State) : State :=
  let ls := s.slot.due.filter s.edgeCoreReady
  let s := ls.foldl (fun s l => s.edgeCore l) s
  let s := { s with slot := { s.slot with due := s.slot.due.filter fun l => !(ls.contains l) } }
  let s := if s.slot.zero.isEmpty || !(s.zeroReady) then s
    else
      { s with
        mem := s.mem.filter fun c => !(s.slot.zero.any fun r => decide (r.1 ≤ c.1) && decide (c.1 < r.2))
        slot := { s.slot with zero := [] } }
  ls.foldl (fun s l => s.reeval l) s

/-- Once running firings have finished, the steps of a donation become due (R396). -/
def State.passPending (s : State) : State :=
  if s.slot.pend.isNone || s.slot.step || s.commonCores.any (fun l => (s.core l).busy) then s
  else { s with slot := { s.slot with step := true } }.startSteps

/-- After its steps, a donation makes the donee the holder, the slot ways being invalidated last (R107, R394, R396). -/
def State.passDone (s : State) : State :=
  match s.slot.pend with
  | some (new, don) =>
    if !s.slot.step || !s.slot.due.isEmpty || !s.slot.zero.isEmpty then s
    else
      let mask := s.slotFill s.slot.holder s.slot.cur ||| s.slotFill new s.slot.cur
      let s := if mask = 0 then s else s.serveQueued.dropSlotWays mask
      { s with slot := { s.slot with holder := new, don := don, pend := none, step := false, idleSince := s.time } }
  | none => s

/-! ### The edge (R393) -/

/-- The slot-overrun fault of a firing still running at an edge, whose time is given: a record with Held = 0; a restartable firing
is abandoned, another overruns, from the first edge it meets. -/
def State.overrun (s : State) (edge l : Nat) (w : Wk) : State :=
  let p := w.part.toNat
  let c := s.core l
  let (inT, g, pc) := match c.intr.find? (·.ent == w.ent) with
    | some i => (bit i.tstat 63, i.guard, i.pc)
    | none => (c.inT, c.guard, c.pc)
  let rec_ := s.faultRecord l (flt 0x15#8) (w.owner l) false inT g pc
  let s := s.postRecord w.part rec_
  let o := s.dcw (0x047000 + 8 * p)
  let s := s.setDcw (0x047000 + 8 * p) (setFld o 63 32 (satAdd (fld o 63 32) 1 (2 ^ 32 - 1)))
  if w.rst then s.abandon l w.ent false
  else if s.slot.overruns.any fun o => o.core == l && o.ent == w.ent then s
  else { s with slot := { s.slot with overruns := s.slot.overruns ++ [{ core := l, ent := w.ent, part := p, since := edge }] } }

/-- The firings that count as running on common cores at an edge. -/
def State.runningCommon (s : State) : List (Nat × Wk) :=
  s.commonCores.flatMap fun l =>
    ((s.core l).dir.filter fun w => w.st == .running || w.st == .interrupted).map fun w => (l, w)

/-- At an edge that changes the holder, every firing that still runs on a common core faults. -/
def State.overrunAll (s : State) (edge : Nat) (new : Option Nat) : State :=
  if new = s.slot.holder then s else s.runningCommon.foldl (fun s x => s.overrun edge x.1 x.2) s

/-- The time of an edge has come: overruns, Debt charged, the next entry, and the common intervals to the next holder. -/
def State.passEdge (s : State) : State :=
  let new := s.nextHolder
  let i := s.nextEntry
  let edge := s.edgeTime
  let lost := s.lostTime i
  let first := !s.slot.begun || s.lastSlot
  let donee : Option (Nat × Nat) := match s.slotOwner i with
    | some p => if 0 < lost then s.lostDonee i p else none
    | none => none
  let s := s.overrunAll edge new
  let s := match s.slotOwner i with
    | some p => s.setDcw (0x047000 + 8 * p) (setFld (s.dcw (0x047000 + 8 * p)) 31 0 (s.debtOf p - lost))
    | none => s
  let s := (s.cedeUnlent i).passTo new i donee.isSome
  { s with slot := { s.slot with
      prd := if first then (s.slot.prd + 1) % 2 ^ 32 else s.slot.prd
      periodAt := if first then BitVec.ofNat 64 edge else s.slot.periodAt
      begun := true, served := (donee.map fun (x : Nat × Nat) => x.2 + 1).getD 0, donors := []
      debtEnd := if 0 < lost then some (BitVec.ofNat 64 (edge + lost * 1000)) else none
      guardSeen := false } }.signal 4

/-- Whether an edge is due by time. -/
def State.edgeDue (s : State) : Bool := s.slotEn && decide (s.edgeTime ≤ s.time.toNat)

/-- SLOT_EDGE: seizures that were waiting to end, the passing of an edge, or what earlier changes of holder still have to do. -/
def State.slotEdge (s : State) : State :=
  let s := s.endCedes
  if s.edgeDue then s.passEdge else s.passPending.edgeSteps.passDone

/-- SLOT_GUARD_START (R393, R400). -/
def State.slotGuardStart (s : State) : State :=
  if s.slotEn && !s.slot.guardSeen && decide (s.edgeTime ≤ s.time.toNat + s.slotGuard) then
    { s with slot := { s.slot with guardSeen := true } }.cedeUnlent s.nextEntry
  else s

/-- DEBT_TIME_END: the owner becomes the holder for the rest of its slot, with the steps of that handover (R393). -/
def State.debtTimeEnd (s : State) : State :=
  match s.slot.debtEnd with
  | some t =>
    if s.slotEn && decide (t.toNat ≤ s.time.toNat) then
      { s with slot := { s.slot with debtEnd := none } }.passTo (s.slotOwner s.slot.cur) s.slot.cur false
    else s
  | none => s

/-! ### Donation (R396) -/

/-- The holder `h` donates the rest of its slot, unless less than Guard + 4 µs remain: to the next donee that has not donated in
this slot, nor owns lost time, else to nobody. -/
def State.donate (s : State) : State :=
  match s.slot.holder with
  | none => s
  | some h =>
    if !s.slotEn || s.slot.pend.isSome || decide (s.edgeTime < s.time.toNat + s.slotGuard + 4000) then s
    else
      let gone := h :: s.slot.donors
      let out := if s.slot.debtEnd.isSome then (s.slotOwner s.slot.cur).toList ++ gone else gone
      { s with slot := match s.doneeFrom s.slot.cur s.slot.served out with
          | some (p, k) => { s.slot with donors := gone, served := k + 1, pend := some (some p, true) }
          | none => { s.slot with donors := gone, pend := some (none, s.slot.don) } }

/-- DONATION_IDLE (R396). -/
def State.donationIdle (s : State) : State :=
  if !s.commonActive && decide (10000 ≤ (s.time - s.slot.idleSince).toNat) then s.donate else s

/-! ### Starting and ending the table (R391) -/

/-- En is set: period 0 begins at the epoch, or now when that has passed (R389). -/
def State.slotStartTable (s : State) : State :=
  let epoch := s.dcw 0x078008
  { s with slot := { s.slot with
      prd := 0, begun := false, periodAt := if epoch.toNat < s.time.toNat then s.time else epoch, cur := 0
      don := false, served := 0, donors := [], guardSeen := false, debtEnd := none, idleSince := s.time } }

/-- En is cleared: as at an edge to no holder, firings that still run on common cores overrun, seizures begin to end, and
the common intervals pass to nobody (R391, R393). -/
def State.slotStopTable (s : State) : State :=
  let s := s.overrunAll s.time.toNat none
  let s := { s with clusters := s.clusters.map fun (c : Nat × Cluster) =>
    (c.1, { c.2 with ceding := c.2.seized.isSome }) }
  let s := s.passTo none 0 false
  { s with slot := { s.slot with
      begun := false, prd := 0, donors := [], debtEnd := none, guardSeen := false } }

/-- SEIZE_LEND_WATCHDOG: Grove firings of a seized cluster not at a boundary in time are held (R398). -/
def State.lendWatchdog (s : State) (cl : Nat) : State :=
  let c := s.clu cl
  let lim := fld (s.dcw 0x078000) 30 23 * 100
  if c.seized.isSome && decide (lim ≤ (s.time - c.seizedAt).toNat) then
    (State.coresOf cl).foldl (fun s l =>
      if (s.core l).run then s.raise l (flt causeWatchdog) (s.core l).pc else s) s
  else s

/-- Whether that watchdog still has a firing to hold. -/
def State.lendDue (s : State) (cl : Nat) : Bool :=
  let c := s.clu cl
  c.seized.isSome && isGrove (16 * cl) &&
    decide (fld (s.dcw 0x078000) 30 23 * 100 ≤ (s.time - c.seizedAt).toNat) &&
    (State.coresOf cl).any fun l => (s.core l).run && (s.core l).holdDue.isNone

end Sys2Proof.Machine
end

