-- ==== Sys2Proof/Machine/Place.lean ====
section
/-! DEFINITION. Placement of teams, graphs, spawned and forked work, and team completion (R95, R184, R185, R193, R194,
R371, R377 to R382). -/

namespace Sys2Proof.Machine

/-! ### Reading a function's memory (R371, R377) -/

/-- Reads each piece of a span; none when one meets a data error. -/
def State.readPieces (s : State) (part : BitVec 6) (ctx : BitVec 10) : List (XOk × Nat) → State × Option (List Byte)
  | [] => (s, some [])
  | (r, k) :: t =>
    match s.hwRead part ctx r.na r.pa k with
    | (s, none) => (s, none)
    | (s, some bs) =>
      match s.readPieces part ctx t with
      | (s, none) => (s, none)
      | (s, some u) => (s, some (bs ++ u))

/-- The bytes of the pieces of a span, read as one access under a function's context with the permissions of firing mode: one
that faults sets no AF (R58). -/
def State.readSpans (s : State) (l : Nat) (part : BitVec 6) (ctx : BitVec 10) (ps : List (Nat × Nat)) :
    State × Option (List Byte) :=
  match s.xlatePieces l part ctx .firing .read ps with
  | (s, .error _) => (s, none)
  | (s, .ok rs) =>
    match s.readPieces part ctx rs with
    | (s, none) => (s, none)
    | (s, some bs) => (s.settleAll l part ctx .read (rs.map (·.1)), some bs)

/-- Reads `n` bytes at an address word, which must be of class 0x0, under a function's context. -/
def State.readAt (s : State) (l : Nat) (part : BitVec 6) (ctx : BitVec 10) (a : W64) (n : Nat) :
    State × Option (List Byte) :=
  if fld a 63 48 ≠ 0 ∨ (n ≠ 0 ∧ 2 ^ 48 < fld a 47 0 + n) then (s, none)
  else s.readSpans l part ctx (pagePieces (n / 4096 + 2) (fld a 47 0) n)

def wordsOf (bs : List Byte) : List W64 :=
  (chunksOf 8 bs.length bs).map fun b => BitVec.ofNat 64 (ofBytes b)

/-- Where an 8-byte write at an address word goes under a function's context, in firing mode; nothing is settled. -/
def State.writeAt (s : State) (l : Nat) (part : BitVec 6) (ctx : BitVec 10) (a : W64) : State × Option (List (XOk × Nat)) :=
  if fld a 63 48 ≠ 0 ∨ 2 ^ 48 < fld a 47 0 + 8 then (s, none)
  else
    match s.xlatePieces l part ctx .firing .write (pagePieces 2 (fld a 47 0) 8) with
    | (s, .error _) => (s, none)
    | (s, .ok rs) => (s, some rs)

/-- The check of such a write alone, which translates it (R371). -/
def State.mayWriteAt (s : State) (l : Nat) (part : BitVec 6) (ctx : BitVec 10) (a : W64) : State × Bool :=
  match s.writeAt l part ctx a with
  | (s, none) => (s, false)
  | (s, some rs) => (s.settleAll l part ctx .write (rs.map (·.1)), true)

def fnCtx (fn : Nat) : BitVec 10 := BitVec.ofNat 10 fn
/-- The partition that owns a function's context (R46). -/
def State.fnPart (s : State) (fn : Nat) : BitVec 6 := BitVec.ofNat 6 (fld (s.dcw (0x020000 + 8 * fn)) 53 48)

/-- Bytes go to the pieces of a span whose lines have been touched. -/
def State.putPieces (s : State) : List (XOk × Nat) → List Byte → State
  | [], _ => s
  | (r, k) :: t, bs => (s.cohWrite r.pa (bs.take k)).putPieces t (bs.drop k)

/-- AtomicAdd(DoneAddr, 1), a release at system scope, under the function's context (R377, R379): one access, which an
address or data error leaves without effect. -/
def State.addDone (s : State) (fn : Nat) (a : W64) : State :=
  if a = 0#64 then s
  else
    match s.writeAt 0xF00 (s.fnPart fn) (fnCtx fn) a with
    | (s, none) => s
    | (s, some ps) =>
      match s.readPieces (s.fnPart fn) (fnCtx fn) ps with
      | (s, none) => s
      | (s, some bs) =>
        (s.settleAll 0xF00 (s.fnPart fn) (fnCtx fn) .write (ps.map (·.1))).putPieces ps (toBytes 8 ((ofBytes bs + 1) % 2 ^ 64))

/-! ### Declarations (R182, R184, R185) -/

/-- Word `i` of a declaration. -/
def dw (d : List W64) (i : Nat) : W64 := d.getD i 0#64

def dRegs (d : List W64) : Nat := fld (dw d 2) 54 48
def dBank (d : List W64) : Nat := fld (dw d 2) 57 55
def dPri (d : List W64) : Nat := fld (dw d 2) 61 60
def dIn (d : List W64) : Nat := fld (dw d 2) 47 44
def dOut (d : List W64) : Nat := fld (dw d 2) 43 40
def dActors (d : List W64) : Nat := fld (dw d 3) 31 20
def dLm (d : List W64) : Nat := max 1 (fld (dw d 3) 55 48)
def dWb (d : List W64) : Nat := fld (dw d 3) 47 40
def dAb (d : List W64) : Nat := fld (dw d 3) 39 32

/-- The allotment of a Regs field (R182). -/
def allotOf (regs : Nat) : Nat := if regs = 0 then 8 else (regs + 7) / 8 * 8

def entryClassOk (clearing : Bool) (a : W64) : Bool :=
  fld a 1 0 == 0 && (clsOf a == 1 || clsOf a == (if clearing then 6 else 0))

def portOk (cfg : W64) : Bool :=
  fld cfg 63 60 < 6 && fld cfg 59 48 != 0 &&
    (fld cfg 63 60 != 2 || (decide (1000 ≤ fld cfg 47 0) && decide (fld cfg 47 0 ≤ 2 ^ 32)))

/-- The checks that give the bad-header status. Entries beyond NIn + NOut are not looked at (DESIGN CHOICE, log entry 149). -/
def declOk (clearing lead : Bool) (d : List W64) : Bool :=
  bit (dw d 2) 63 && entryClassOk clearing (dw d 0) && (dw d 1 == 0#64 || entryClassOk clearing (dw d 1)) &&
    dBank d < 5 && (clearing || (dBank d == 0 && dPri d != 0)) && decide (dIn d + dOut d ≤ 14) &&
    decide (dRegs d ≤ 64) && fld (dw d 2) 11 0 == 0 &&
    (List.range (dIn d + dOut d)).all (fun k => portOk (dw d (4 + 2 * k))) &&
    (!lead || (fld (dw d 3) 63 56 == 0 && fld (dw d 3) 19 0 == 0 && decide (1 ≤ dActors d) && decide (dActors d ≤ 2112)))

/-! ### Where a team fits (R380, R381) -/

def arrayCores (clearing : Bool) : List Nat :=
  if clearing then (List.range 64).map (0x800 + ·) else List.range 0x800

/-- Inserts an interval word before the first of a greater base. -/
def insByBase (w : W64) : List W64 → List W64
  | [] => [w]
  | x :: t => if fld w 11 0 ≤ fld x 11 0 then w :: x :: t else x :: insByBase w t

/-- The common intervals in ascending base. -/
def State.commonsByBase (s : State) : List W64 := ((List.range 4).map s.commonIval).foldr insByBase []

/-- The eligible cores of a partition in an array (R380). -/
def State.eligible (s : State) (p : Nat) (clearing : Bool) : List Nat :=
  let a := arrayCores clearing
  let home := a.filter fun l => inIval (s.homeIval p (b2n clearing)) l
  let com := if s.slot.holder = some p then s.commonsByBase.flatMap fun w => a.filter (inIval w) else []
  (home ++ com).filter fun l => !(s.retired l)

/-- The `n` lowest free granules of `total` (log entry 112). -/
def findFree (free : Nat → Bool) (n total : Nat) : Option (List Nat) :=
  let gs := (List.range total).filter free
  if gs.length < n then none else some (gs.take n)

def State.lmTaken (s : State) (tile g : Nat) : Bool :=
  s.teams.any fun t => t.2.st != .saved && t.2.lm.any fun x => x.1 == tile && x.2.contains g
def State.bufTaken (s : State) (cl : Nat) (w : Bool) (g : Nat) : Bool :=
  s.teams.any fun t => (if w then t.2.wb else t.2.ab).any fun x => x.1 == cl && x.2.contains g

/-- `n` granules of LM for a team in a tile. -/
def State.lmFree (s : State) (p tile n : Nat) : Option (Nat × List Nat) :=
  (findFree (fun g => s.holdsLm p tile (4096 * g) 4096 && !(s.lmTaken tile g)) n 24).map fun gs => (tile, gs)

def State.bufFree (s : State) (p cl : Nat) (w : Bool) (n : Nat) : Option (Nat × List Nat) :=
  let gran := if w then 16384 else 8192
  (findFree (fun g => s.holdsBuf p cl w (gran * g) gran && !(s.bufTaken cl w g)) n (bufSize cl w / gran)).map
    fun gs => (cl, gs)

/-- What every actor of a launch shares. -/
structure Launch where
  part : BitVec 6
  fn : Nat
  clearing : Bool
  decls : List (List W64)
  args : List W64
  ring : Ring := {}
  graph : Option (Nat × Nat) := none
  deriving DecidableEq, Repr

/-- The workspace of an actor before placement gives it a place. -/
def Launch.wk (x : Launch) (team decl : Nat) (d : List W64) : Wk :=
  { ent := 0, wsid := 0#16, gen := 0#12, part := x.part, idx := 0, bank := dBank d, allot := allotOf (dRegs d)
    ctx := fnCtx x.fn, entry := dw d 0, trap := dw d 1, pri := dPri d, wdg := fld (dw d 2) 59 58, rst := bit (dw d 2) 62
    decl := some decl, nin := dIn d, nout := dOut d, team := team }

/-- The bank a declaration names is free on a core: of anyone on a home core, of its partition on a common one (R191). -/
def State.bankFree (s : State) (l : Nat) (p : BitVec 6) (b : Nat) : Bool :=
  b = 0 || !((s.core l).dir.any fun w => w.bank == b && (w.part == p || !(s.isCommon l)))

/-- A core on which only LimLive or a taken bank stands in the way of an actor (R89, R191). -/
def State.limited (s : State) (l : Nat) (p : BitVec 6) (b : Nat) : Bool :=
  !(s.bankFree l p b) || decide (min 256 (s.limLive p.toNat) ≤ (s.core l).liveOf p)

/-- Whether a run of cores can take the launch, with the granules each tile and cluster gives; `lax` sets LimLive and the
banks aside. -/
def State.fits (s : State) (x : Launch) (lax : Bool) (cs : List Nat) :
    Option (List (Nat × List Nat) × List (Nat × List Nat) × List (Nat × List Nat)) :=
  let lead := x.decls.headD []
  let p := x.part.toNat
  let ok := (cs.zip x.decls).all fun y =>
    if s.limited y.1 x.part (dBank y.2) then lax else (s.allocWk y.1 (x.wk 0 0 y.2) []).isSome
  if !ok then none
  else
    let tiles := (cs.map tileOf).eraseDups
    let cls := (cs.map clusterOf).eraseDups
    match tiles.mapM (fun t => s.lmFree p t (dLm lead)),
        (if dWb lead = 0 then some [] else cls.mapM fun c => s.bufFree p c true (dWb lead)),
        (if dAb lead = 0 then some [] else cls.mapM fun c => s.bufFree p c false (dAb lead)) with
    | some lm, some wb, some ab => some (lm, wb, ab)
    | _, _, _ => none

/-- The first run of consecutive eligible cores that fits: `k` positions are left to try. -/
def State.findPlace (s : State) (x : Launch) (lax : Bool) (el : List Nat) : Nat →
    Option (List Nat × List (Nat × List Nat) × List (Nat × List Nat) × List (Nat × List Nat))
  | 0 => none
  | k + 1 =>
    let n := x.decls.length
    if el.length < n then none
    else
      match s.fits x lax (el.take n) with
      | some (lm, wb, ab) => some (el.take n, lm, wb, ab)
      | none => s.findPlace x lax (el.drop 1) k

/-- Whether a request exceeds a limit, the grant, or the cores the partition could ever hold (R381); under GroveOff every
Grove launch does (R416). -/
def State.overLimit (s : State) (x : Launch) : Bool :=
  let p := x.part.toNat
  let lead := x.decls.headD []
  let cap (n : Nat) : Nat := if x.clearing then n else min n 32
  (!x.clearing && fld (s.dcw 0x0E0000) 63 62 == 2) || decide (s.limOf p 21 16 < dLm lead) || decide (cap (s.limOf p 35 28) < dWb lead) ||
    decide (cap (s.limOf p 43 36) < dAb lead) ||
    (x.decls.any fun d => decide (8 * fld (s.dcw (0x043000 + 8 * p)) 3 0 < allotOf (dRegs d))) ||
    decide (((arrayCores x.clearing).countP fun l => s.couldHold p l && !(s.retired l)) < x.decls.length)

/-! ### Placing (R380) -/

/-- A declaration's bytes as placement writes them: Core and Wsid, and S of each timer port (R184, R185). -/
def State.declBytes (s : State) (l : Nat) (id : BitVec 16) (d : List W64) : List Byte :=
  let w2 := setFld (setFld (dw d 2) 39 28 l) 27 12 id.toNat
  ((List.range 32).map fun i =>
    let w := if i = 2 then w2
      else if 5 ≤ i ∧ i % 2 = 1 ∧ (i - 5) / 2 < dIn d + dOut d ∧ fld (dw d (i - 1)) 63 60 = 2 then
        Config.firstTick s.time (fld (dw d (i - 1)) 47 0)
      else dw d i
    toBytes 8 w.toNat).flatten

/-- Places actor `j` on a core: its workspace and its declaration in the team's LM. -/
def State.placeActor (s : State) (x : Launch) (team l off : Nat) (d : List W64) : State × BitVec 16 :=
  match s.allocWk l (x.wk team off d) x.args with
  | none => (s, 0#16)
  | some (s, w) =>
    let s := if dIn d = 0 ∨ w.place.isSome then s.updCore l fun c => c.setStatus w.place 0 0#64 else s
    ({ s with mem := memWriteN s.mem (lmKey (tileOf l) off) (s.declBytes l w.wsid d) }, w.wsid)

/-- Places the actors in order; the list gives each core's declaration offset. -/
def State.placeAll (s : State) (x : Launch) (team : Nat) : List (Nat × Nat × List W64) → State × List (Nat × BitVec 16)
  | [] => (s, [])
  | (l, off, d) :: t =>
    let (s, id) := s.placeActor x team l off d
    let (s, ids) := s.placeAll x team t
    (s, (l, id) :: ids)

/-- Whether a core and its tile take a placement now: its cluster is not in retention, its clock runs, and no change of holder
has still to clean them (R394, R411, R423). -/
def State.mayPlace (s : State) (l : Nat) : Bool :=
  s.homeLive (.lm (tileOf l)) && !(s.slot.due.contains l) && !(s.isCommon l && !s.slot.zero.isEmpty)

/-- The status of a placement that waits for its cores. -/
def placeWaits : Nat := 9

/-- Placement of a checked launch: 0 placed, 1 no room now, 3 over a limit, LimLive and a taken bank among them (R89, R191,
R380, R381, log entry 16); one that must wait for its cores starts the exit of their clusters (R411). -/
def State.placeTeam (s : State) (x : Launch) : State × Nat :=
  if s.overLimit x then (s, 3)
  else
    let el := s.eligible x.part.toNat x.clearing
    match s.findPlace x false el el.length with
    | none => (s, if (s.findPlace x true el el.length).isSome then 3 else 1)
    | some (cs, lm, wb, ab) =>
      if !(cs.all s.mayPlace) then (cs.foldl (fun s l => s.wakeHome (.lm (tileOf l))) s, placeWaits) else
      let team := s.teamNext
      let s := { s with
        teamNext := team + 1
        mem := lm.foldl (fun m (y : Nat × List Nat) =>
          y.2.foldl (fun m g => memZero m (lmKey y.1 (4096 * g)) 4096) m) s.mem }
      let offs := (cs.zipIdx).map fun c =>
        let before := (cs.take c.2).countP fun k => tileOf k == tileOf c.1
        match lm.find? fun y => y.1 == tileOf c.1 with
        | some y => 4096 * y.2.headD 0 + 256 * before
        | none => 0
      let (s, ids) := s.placeAll x team (cs.zip (offs.zip x.decls))
      let t : Team :=
        { lead := ids.headD (0, 0#16), part := x.part, fn := x.fn, arr := x.clearing, actors := ids, lm := lm, wb := wb
          ab := ab, barCnt := cs.length, bars := [], ring := x.ring, graph := x.graph, rst := x.decls.all fun d => bit (dw d 2) 62 }
      let s := { s with teams := kput s.teams team t }
      (cs.foldl (fun s l => s.reeval l) s, 0)

/-! ### The dispatch of an entry (R371, R377, R379, R382) -/

/-- Reads and checks a team's declarations, as many as the lead's word 3 says: status 4 when one of them cannot be read, 2
when the entry's bits 24:16 are not zero, the lead is not aligned or a declaration does not check; or the launch (R371,
R377, R380). -/
def State.readTeam (s : State) (l : Nat) (ring : Ring) (graph : Option (Nat × Nat)) (e : List W64) : State × Except Nat Launch :=
  let part := s.fnPart ring.fn
  let ctx := fnCtx ring.fn
  let clearing := bit (dw e 0) 25
  match s.readAt l part ctx (dw e 1) 256 with
  | (s, none) => (s, .error 4)
  | (s, some bs) =>
    let d0 := wordsOf bs
    match s.readAt l part ctx (dw e 1) (256 * dActors d0) with
    | (s, none) => (s, .error 4)
    | (s, some bs) =>
      let ds := (chunksOf 256 (dActors d0) bs).map wordsOf
      if fld (dw e 0) 24 16 ≠ 0 || (dw e 1).toNat % 256 ≠ 0 || !(declOk clearing true d0) ||
          !(ds.all (declOk clearing false)) then (s, .error 2)
      else
        (s, .ok {
          part := part, fn := ring.fn, clearing := clearing, decls := ds, args := (e.drop 2).take 4, ring := ring
          graph := graph })

/-- What a launch keeps of its ring entry. -/
def ringOf (fn slot n : Nat) (e : List W64) : Ring :=
  { fn := fn, slot := slot, n := n, w0 := dw e 0, dep := dw e 6, done := dw e 7 }

/-- Reads a graph: the header and, where its count can be one, the nodes (R382). -/
def State.copyGraph (s : State) (l fn : Nat) (e : List W64) : State × Option (List W64) :=
  let part := s.fnPart fn
  let ctx := fnCtx fn
  match s.readAt l part ctx (dw e 1) 16 with
  | (s, none) => (s, none)
  | (s, some bs) =>
    let h := wordsOf bs
    let n := fld (dw h 0) 15 0
    if 64 < n then (s, some h)
    else
      match s.readAt l part ctx (dw h 1) (64 * n) with
      | (s, none) => (s, none)
      | (s, some bs) => (s, some (h ++ wordsOf bs))

/-- Checks the copy of a graph: its header word 0 and its nodes (R382). -/
def checkGraph (g : List W64) : Except Nat (W64 × List (List W64)) :=
  let h := dw g 0
  let n := fld h 15 0
  let ns := (List.range n).map fun i => (List.range 8).map fun k => dw g (2 + 8 * i + k)
  if n = 0 ∨ 64 < n ∨ fld h 23 16 = 0 then .error 2
  else if (ns.zipIdx).all fun y =>
      fld (dw y.1 0) 31 28 == 1 && fld (dw y.1 0) 24 16 == 0 && decide ((dw y.1 6).toNat < 2 ^ y.2) then .ok (h, ns)
  else .error 2

/-- At its fetch, the Station copies the graph that an entry launches; the copy is kept with the entry (R382). -/
def State.copyEntry (s : State) (l fn key : Nat) (bs : List Byte) : State :=
  let e := wordsOf bs
  if fld (dw e 0) 31 28 = 2 then
    match s.copyGraph l fn e with
    | (s, g) => { s with gcopy := kput s.gcopy key (e, g.getD []) }
  else s

/-- The graph an entry launches: the copy made at its fetch, empty where it could not be read; for an entry that was not
fetched, what memory holds now. -/
def State.readGraph (s : State) (l fn key : Nat) (e : List W64) : State × Except Nat (W64 × List (List W64)) :=
  let (s, g) := match kfind s.gcopy key with
    | some (x, g) => if x = e then (s, some g) else s.copyGraph l fn e
    | none => s.copyGraph l fn e
  match g with
  | none | some [] => (s, .error 4)
  | some g => (s, checkGraph g)

/-- A launch or entry completes with a Status (R378, R379): its counter first, then its completion entry is formed, which
waits for SPOST when Cq is 1; signal 2. -/
def State.ringDone (s : State) (r : Ring) (status ver : Nat) : State :=
  let s := s.addDone r.fn r.done
  let w := mkWord [(56, status), (32, fld r.w0 15 0), (0, ver)]
  { s with entries := s.entries.filterMap fun (e : Entry) =>
      if e.slot = r.slot ∧ e.n = r.n ∧ e.owed.isNone then
        (if bit r.w0 27 then some ({ e with owed := some (w, s.time) } : Entry) else none)
      else some e }.signal 2

/-- Whether a hardware queue slot has entries that are not finished (R374). -/
def State.openEntries (s : State) (k : Nat) : Bool := s.entries.any (·.slot == k)

/-- A launch that VF reset ends leaves its slot with neither counter nor completion entry (R409). -/
def State.ringGone (s : State) (r : Ring) : State :=
  { s with entries := s.entries.filter fun (e : Entry) => !(e.slot == r.slot && e.n == r.n) }.signal 2

/-- A graph whose nodes are done completes (R379). -/
def State.graphFinish (s : State) (g : Graph) : State :=
  { s with graphs := s.graphs.filter (·.id != g.id) }.ringDone g.ring (if g.status = 0 then g.nodeSt else g.status) g.ver

def State.updGraph (s : State) (id : Nat) (f : Graph → Graph) : State :=
  { s with graphs := s.graphs.map fun g => if g.id = id then f g else g }

/-- A node is checked as an entry is, but for its DepAddr: Lead and DoneAddr, then its declarations (R371, R382). -/
def State.readNode (s : State) (l : Nat) (g : Graph) (i : Nat) (e : List W64) : State × Except Nat Launch :=
  let r : Ring := { ringOf g.fn 256 0 e with dep := 0#64 }
  let (s, ok) := if r.done = 0#64 then (s, true) else
    s.mayWriteAt l (s.fnPart g.fn) (fnCtx g.fn) r.done
  if !ok then (s, .error 4) else s.readTeam l r (some (g.id, i)) e

/-- Dispatches the nodes of a graph whose predecessors have completed; one that fails ends the graph's dispatching. -/
def State.graphNodes (s : State) (l id : Nat) : List Nat → State
  | [] => s
  | i :: t =>
    match s.graphs.find? (·.id == id) with
    | none => s
    | some g =>
      let e := g.nodes.getD i []
      let preds := (List.range 64).filter fun k => bit (dw e 6) k
      let s :=
        if g.status ≠ 0 || g.sent.contains i || !(preds.all g.done.contains) then s
        else
          match s.readNode l g i e with
          | (s, .error k) => s.updGraph id fun g => { g with status := if k = 4 then 5 else k }
          | (s, .ok x) =>
            match s.placeTeam x with
            | (s, 0) => s.updGraph id fun g => { g with sent := i :: g.sent }
            | (s, 1) | (s, 9) => s
            | (s, k) => s.updGraph id fun g => { g with status := k }
      s.graphNodes l id t

/-- Two launches that run one copy of a graph (R382). -/
def Graph.sameCopy (x y : Graph) : Bool := x.ver == y.ver && x.conc == y.conc && x.nodes == y.nodes

/-- Whether a graph launch must wait: an older launch of its header and function waits, or those that run of one copy are as
many as that copy's Conc (R382). -/
def State.graphWaits (s : State) (g : Graph) : Bool :=
  let like := s.graphs.filter fun x => x.id != g.id && x.header == g.header && x.fn == g.fn
  let run := like.filter fun x => !x.waiting
  like.any (fun x => x.waiting && decide (x.id < g.id)) || run.any fun x => decide (x.conc ≤ run.countP x.sameCopy)

/-- Whether a live migration keeps a function's launches from going on: it is STOPPING or STOPPED (R410). -/
def State.migHolds (s : State) (fn : Nat) : Bool := kget s.migr fn 0#3 == 2#3 || kget s.migr fn 0#3 == 3#3

/-- Runs every graph on, oldest first: a waiting one starts when it may, ready nodes are dispatched, finished graphs
complete (R382). It runs after each completion, slot edge, donation and CEDE (R379, R381). -/
def State.graphStep (s : State) : State :=
  (s.graphs.map (·.id)).foldl (fun s id =>
    match s.graphs.find? (·.id == id) with
    | none => s
    | some g =>
      let s := if g.waiting && !(s.graphWaits g) then s.updGraph id fun g => { g with waiting := false } else s
      match s.graphs.find? (·.id == id) with
      | none => s
      | some g =>
        if g.waiting || s.migHolds g.fn then s
        else
          let s := s.graphNodes 0xF00 id (List.range g.nodes.length)
          match s.graphs.find? (·.id == id) with
          | some g =>
            if g.done.length = g.nodes.length || (g.status != 0 && g.sent.length == g.done.length) then s.graphFinish g
            else s
          | none => s) s

/-- The checks of R371 before the declarations: Lead, and DepAddr and DoneAddr when not zero, as 8-byte accesses; an
entry of Op 0 has no Lead (R379). -/
def State.entryAddrs (s : State) (l fn op : Nat) (e : List W64) : State × Bool :=
  let part := s.fnPart fn
  let ctx := fnCtx fn
  let read (s : State) (skip : Bool) (a : W64) : State × Bool :=
    if skip then (s, true) else match s.readAt l part ctx a 8 with | (s, o) => (s, o.isSome)
  match read s (op == 0) (dw e 1) with
  | (s, ok1) =>
    match read s (dw e 6 == 0#64) (dw e 6) with
    | (s, ok2) =>
      if dw e 7 = 0#64 then (s, ok1 && ok2)
      else match s.mayWriteAt l part ctx (dw e 7) with | (s, o) => (s, ok1 && ok2 && o)

/-- An entry of Op 0 that has been checked completes by itself once its Ord and its dependence are met (R379). -/
def State.addNop (s : State) (r : Ring) : State :=
  if s.nops.any (fun x => x.2.slot == r.slot && x.2.n == r.n && decide (r.slot < 256)) then s
  else { s with nops := kput s.nops s.teamNext r, teamNext := s.teamNext + 1 }

/-- DISPATCH of the ring entry that slot `slot` fetched at Head `n`, for a function (R371): 0 placed or checked, 1 no
room, 2 bad header, 3 limit, 4 address. A launch of a function that is being reset ends at once, with neither counter nor
completion entry (R409; DESIGN CHOICE, log entry 143). -/
def State.dispatch (s : State) (l fn slot n key : Nat) (e : List W64) (checkOnly : Bool) : State × Nat :=
  let op := fld (dw e 0) 31 28
  let ring := ringOf fn slot n e
  match s.entryAddrs l fn op e with
  | (s, false) => (s, 4)
  | (s, true) =>
    if !checkOnly && (kfind s.resets fn).isSome then (s.ringGone ring, 0) else
    match op with
    | 0 => (if slot = 256 ∧ checkOnly then s else s.addNop ring, 0)
    | 1 =>
      match s.readTeam l ring none e with
      | (s, .error k) => (s, k)
      | (s, .ok x) => if checkOnly then (s, 0) else s.placeTeam x
    | 2 =>
      match s.readGraph l fn key e with
      | (s, .error k) => (s, k)
      | (s, .ok (h, ns)) =>
        if fld (dw e 0) 24 16 ≠ 0 then (s, 2)
        else if checkOnly then (s, 0)
        else if !(bit (dw e 0) 25) && fld (s.dcw 0x0E0000) 63 62 == 2 then (s, 3)
        else
          let g : Graph :=
            { id := s.graphNext, fn := fn, part := s.fnPart fn, header := dw e 1, ver := fld h 63 32
              conc := fld h 23 16, nodes := ns, waiting := true, ring := ring }
          ({ s with graphs := s.graphs ++ [g], graphNext := s.graphNext + 1 }.graphStep, 0)
    | _ => (s, 2)

/-! ### Team completion (R95) -/

def State.teamWks (s : State) (t : Nat) : List (Nat × Wk) :=
  s.cores.flatMap fun c => (c.2.dir.filter (·.team == t)).map fun w => (c.1, w)

/-- A workspace whose firing runs, is interrupted or is held. -/
def Wk.firing (w : Wk) : Bool :=
  match w.st with
  | .running | .interrupted | .held => true
  | .queued => w.resumed
  | .idle => false

/-- Whether a firing of a workspace may still come: it has not ended for good (R187, log entry 15). -/
def Wk.mayFire (w : Wk) : Bool := !(w.st == .idle && w.nin == 0 && w.fired)

/-- Whether a team has completed: its firings have ended, and the copies it issued are done (R95, R96). A team with actors
that may fire again has not, unless it is ending. -/
def State.teamDone (s : State) (t : Nat) (x : Team) : Bool :=
  let ws := s.teamWks t
  ws.all (fun w => if x.st = .ended then !w.2.firing else !w.2.mayFire) &&
    s.cores.all fun c => c.2.fifo.all (·.team != t) && c.2.copies.all (·.cmd.team != t)

/-- Whether every earlier entry of a slot's queue has completed: Ord asks no more than the previous one (R379). -/
def State.prevDone (s : State) (r : Ring) : Bool :=
  !(s.entries.any fun e => e.slot == r.slot && e.owed.isNone && (e.n + 1) % 2 ^ 16 == r.n)

/-- Whether an entry's Ord and its dependence are met: the counter at DepAddr has reached DepVal (R377, R379). -/
def State.entryReady (s : State) (r : Ring) : State × Bool :=
  if bit r.w0 26 && !(s.prevDone r) then (s, false)
  else if r.dep = 0#64 then (s, true)
  else
    match s.readAt 0xF00 (s.fnPart r.fn) (fnCtx r.fn) r.dep 8 with
    | (s, some bs) => (s, decide (fld r.w0 63 32 ≤ ofBytes bs))
    | (s, none) => (s, false)

/-- TEAM_COMPLETE: what is left of its workspaces and its LM is freed and completion signalled; an entry of Op 0 whose time
has come completes (R95, R379). -/
def State.teamComplete (s : State) (t : Nat) : State :=
  match kfind s.nops t with
  | some r =>
    match s.entryReady r with
    | (s, true) => ({ s with nops := kdel s.nops t }.ringDone r 0 0).graphStep
    | (s, false) => s
  | none =>
    match kfind s.teams t with
    | none => s
    | some x =>
      if !(s.teamDone t x) then s
      else
        let s := (s.teamWks t).foldl (fun s w => s.updCore w.1 fun c => c.freeWk w.2) s
        let s := { s with teams := kdel s.teams t }
        match x.graph with
        | some (g, i) =>
          let s := if x.noDone then s else s.addDone x.fn x.ring.done
          ((s.updGraph g fun g => { g with done := i :: g.done, nodeSt := if g.nodeSt = 0 then x.status else g.nodeSt }).signal
            2).graphStep
        | none => (if x.noDone then s.ringGone x.ring else s.ringDone x.ring x.status 0).graphStep

/-! ### SPAWN and FORK (R193, R194, R323, R324) -/

/-- The workspace of a spawned or recruited actor: the caller's allotment, priority, Rst, trap entry and watchdog class,
the given entry, no declaration. -/
def Wk.child (w : Wk) (entry : W64) : Wk :=
  { ent := 0, wsid := 0#16, gen := 0#12, part := w.part, idx := 0, allot := w.allot, ctx := w.ctx, mode := w.mode
    entry := entry, trap := w.trap, pri := w.pri, wdg := w.wdg, rst := w.rst, team := w.team }

/-- SPAWN_ALLOCATE: the target core allocates the child, or refuses; either way it replies (R193, R323). -/
def State.spawnArrive (s : State) (p : Pkt) (w : Wk) (g : List W64) : State :=
  let s := { s with net := s.net.filter (·.n != p.n) }
  match (if s.retired p.dst then none else s.allocWk p.dst w g) with
  | some (s, _) => (s.remoteDone p.src p.acc 1#64 none).reeval p.dst
  | none => s.remoteDone p.src p.acc 0#64 none

/-- FORK_RECRUITMENT: idle cores of the caller's intervals, in Hilbert order, each one participant (R194, R324). -/
def State.forkRecruit (s : State) (p : Pkt) (w : Wk) (shares : Nat) (cell : W64) : State :=
  let s := { s with net := s.net.filter (·.n != p.n) }
  let want := min (shares - 1) 255
  let free := (arrayCores (isClearing p.src)).filter fun l =>
    l != p.src && s.holdsCore w.part.toNat l && !(s.core l).busy && (s.core l).runq.isEmpty && s.mayStart l w &&
      (s.allocWk l w []).isSome
  let cs := free.take want
  let n := cs.length + 1
  let s := (cs.zipIdx).foldl (fun s y =>
    let g := [BitVec.ofNat 64 (y.2 + 1), BitVec.ofNat 64 n, BitVec.ofNat 64 shares, cell]
    match s.allocWk y.1 w g with
    | some (s, _) => s.reeval y.1
    | none => s) s
  s.remoteDone p.src p.acc (BitVec.ofNat 64 n) none

end Sys2Proof.Machine
end

