-- ==== Sys2Proof/Machine/Preempt.lean ====
section
/-! DEFINITION. Pre-emption, save and resume, VF reset, live migration and retention (chapter 19). -/

namespace Sys2Proof.Machine

/-! ### Estimates (R404, R405) -/

/-- The team whose lead a request names (R402). -/
def State.teamOf (s : State) (v : W64) : Option (Nat × Team) :=
  s.teams.find? fun t => t.2.lead == (fld v 59 48, BitVec.ofNat 16 (fld v 47 32))

/-- The running firings of a team. -/
def State.teamRunning (s : State) (t : Nat) : List (Nat × Wk) :=
  (s.teamWks t).filter fun w => w.2.st == .running || w.2.st == .interrupted

/-- Remaining time of a running firing in ns: P − E, with the watchdog limit of its class for P when there was no previous
firing. -/
def State.remaining (s : State) (l : Nat) (w : Wk) : Nat :=
  let p := if w.prevDur = 0#64 then ((s.core l).wdgLimit w.wdg).getD 0 else w.prevDur.toNat
  p - (s.time - w.started).toNat

def maxOfList (l : List Nat) : Nat := l.foldl max 0

def teamGran (x : Team) (tile off : Nat) : Bool :=
  x.lm.any fun y => y.1 == tile && y.2.contains (off / 4096)

/-- Bytes of LM a team has. -/
def Team.lmBytes (x : Team) : Nat := x.lm.foldl (fun n y => n + 4096 * y.2.length) 0

/-- The LM offsets that granules cover, in order. -/
def granBytes (gs : List Nat) : List Nat := gs.flatMap fun g => (List.range 4096).map (4096 * g + ·)

/-- The bound circular buffers in a team's LM of one tile: descriptor, base, units. -/
def State.teamBufs (s : State) (x : Team) (tile : Nat) : List (Nat × Nat × Nat) :=
  let descs := ((tileCores tile).flatMap fun l => (List.range 15).filterMap fun k =>
    let w := kget (s.core l).cls k 0#64
    if bit w 63 && fld w 61 59 == 1 && teamGran x tile (fld w 16 0) then some (fld w 16 0) else none).eraseDups
  descs.map fun d => let d0 := s.lm64 tile d; (d, fld d0 16 0, fld d0 27 17)

def State.saveBytes (s : State) (x : Team) : Nat :=
  let bufs := x.lm.flatMap fun y => (s.teamBufs x y.1).map fun b => (y.1, b)
  let q := bufs.foldl (fun n b => n + 64 * fld (s.lm64 b.1 (b.2.1 + 8)) 42 32) 0
  let u := bufs.foldl (fun n b => n + 64 * b.2.2.2) 0
  q + (x.lmBytes - u)

/-- Whether a core's firings count as ended: its cluster is seized (R408). -/
def State.seizedCore (s : State) (l : Nat) : Bool := isGrove l && (s.clu (clusterOf l)).seized.isSome

/-- The estimate of a strategy (1 drain, 2 discard, 3 save), when it is eligible. -/
def State.estimate (s : State) (t : Nat) (x : Team) (freeLm : Bool) (strat : Nat) : Option Nat :=
  let run := (s.teamRunning t).filter fun w => !(s.seizedCore w.1)
  match strat with
  | 1 => if freeLm then none else some (maxOfList (run.map fun w => s.remaining w.1 w.2))
  | 2 => if x.rst then some 1000 else none
  | 3 =>
    if s.pre.area = 0#64 then none
    else
      some (maxOfList ((run.filter fun w => !w.2.rst).map fun w => s.remaining w.1 w.2) + s.saveBytes x / 32 + 500)
  | _ => none

def preStatus (busy done miss : Bool) (strat est : Nat) : W64 :=
  mkWord [(63, b2n busy), (62, b2n done), (61, b2n miss), (59, strat), (0, min est (2 ^ 32 - 1))]

/-- A missed deadline posts event 0x41 to the PF and to the partition (R405). -/
def State.missEvent (s : State) (part : Option (BitVec 6)) : State :=
  let s := s.postPf (s.eventRecord 0x41 0#64)
  match part with
  | some p => s.postRecord p (s.eventRecord 0x41 0#64)
  | none => s

/-- The cores of a team: those it was placed on and those its spawned and recruited actors are on. -/
def State.teamCores (s : State) (t : Nat) (x : Team) : List Nat :=
  (x.actors.map (·.1) ++ (s.teamWks t).map (·.1)).eraseDups

/-- Discard and save end every lease of the team's cores and zeroise the tiles they hold (R403). -/
def State.stripTeam (s : State) (t : Nat) (x : Team) : State :=
  (s.teamCores t x).foldl (fun s l => (s.clusters.map (·.1)).foldl (fun s cl => s.stripCore cl l) s) s

/-- A chosen strategy begins on a team: no new firing starts, and firings that it abandons are abandoned (R403). A team
that is ending already goes on ending (R408), and one that is saved has nothing left to drain or save. -/
def State.preBegin (s : State) (t strat : Nat) (x : Team) : State :=
  if x.st = .ended ∨ (x.st = .saved ∧ strat ≠ 2) then s else
  let st : TeamSt := if strat = 2 then .ended else .stopping strat
  let s := { s with teams := kput s.teams t { x with st := st, status := if strat = 2 then 4 else x.status } }
  let gone := (s.teamWks t).filter fun w =>
    if strat = 2 then w.2.firing else strat = 3 && w.2.rst && (w.2.st == .running || w.2.st == .interrupted)
  let s := gone.foldl (fun s w => s.abandon w.1 w.2.ent false) s
  if strat = 1 then s else s.stripTeam t x

/-- The strategy of a request and whether it already misses: forced, or the estimator's (R405). -/
def State.chooseStrat (s : State) (t : Nat) (x : Team) (v : W64) : Nat × Bool × Nat :=
  let free := bit v 60
  let est := s.estimate t x free
  let dl := fld v 31 0 * 100
  let meets (k : Nat) : Bool := match est k with | some e => dl = 0 || decide (e ≤ dl) | none => false
  let can (k : Nat) : Bool := (est k).isSome
  match fld v 62 61 with
  | 0 =>
    if meets 1 then (1, false, (est 1).getD 0)
    else if meets 3 then (3, false, (est 3).getD 0)
    else if meets 2 then (2, false, (est 2).getD 0)
    else if !free then (if can 2 then (2, true, (est 2).getD 0) else (1, true, (est 1).getD 0))
    else if can 3 then (3, true, (est 3).getD 0)
    else if can 2 then (2, true, (est 2).getD 0)
    else (0, true, 0)
  | k => if can k then (k, false, (est k).getD 0) else (0, true, 0)

/-- A write of the request word that was not refused (R402). Of a team that is ending already the request waits for the end, and
its Strat stays 00 (R408). -/
def State.preRequest (s : State) (v : W64) : State :=
  let s := { s with pre := { s.pre with req := setFld v 63 63 0 } }
  if !(bit v 63) then s
  else
    match s.teamOf v with
    | none => { s with pre := { s.pre with status := preStatus false true false 0 0 } }
    | some (t, x) =>
      let s := { s with pre := { s.pre with part := some x.part } }
      let (k, miss, e) := s.chooseStrat t x v
      let s := if miss then s.missEvent (some x.part) else s
      if k = 0 then { s with pre := { s.pre with status := preStatus false true true 0 0 } }
      else
        ({ s with pre := { s.pre with
            status := preStatus true false miss (if x.st == TeamSt.ended then 0 else k) e, at_ := s.time, team := t, res := false } }).preBegin
          t k x

/-! ### Saving (R406) -/

/-- The occupied units of a buffer from Head on, with skip markers removed. -/
def State.occupied (s : State) (tile base units : Nat) : Nat → Nat → Nat → List Byte
  | 0, _, _ => []
  | fuel + 1, head, used =>
    if used = 0 ∨ units = 0 then []
    else
      let h := s.lm64 tile (base + 64 * head)
      let n := max 1 ((fld h 15 0 + 63) / 64)
      let rest := s.occupied tile base units fuel ((head + n) % units) (used - n)
      if bit h 63 then rest else memReadN s.mem (lmKey tile (base + 64 * head)) (64 * n) ++ rest

def inBufs (bs : List (Nat × Nat × Nat)) (off : Nat) : Bool :=
  bs.any fun b => decide (b.2.1 ≤ off) && decide (off < b.2.1 + 64 * b.2.2)

/-- The words of a team's LM in a tile are read for a save (R72, log entry 7). -/
def State.readGranules (s : State) (y : Nat × List Nat) : State :=
  if !s.upset then s
  else y.2.foldl (fun s g =>
    let k := lmKey y.1 (4096 * g)
    let r := s.hwWords k ((List.range 512).map fun i => s.lm64 y.1 (4096 * g + 8 * i))
    { r.1 with mem := memWriteN r.1.mem k (r.2.flatMap fun w => toBytes 8 w.toNat) }) s

/-- One tile block of a save area. -/
def State.tileBlock (s : State) (x : Team) (y : Nat × List Nat) : List Byte :=
  let bs := s.teamBufs x y.1
  let lm := (granBytes y.2).filterMap fun off =>
    if inBufs bs off then none else some (memRead s.mem (lmKey y.1 off))
  toBytes 8 (mkWord [(0, y.1), (16, y.2.length)]).toNat ++ lm ++
    bs.flatMap fun b =>
      let d1 := s.lm64 y.1 (b.1 + 8)
      s.occupied y.1 b.2.1 b.2.2 1024 (fld d1 9 0) (fld d1 42 32)

/-- Blocks in ascending logical id. -/
def Team.blocks (x : Team) : List (Nat × List Nat) :=
  (arrayCores false ++ arrayCores true).flatMap fun t => x.lm.filter (·.1 == t)

/-- The class bindings that name buffers in a team's LM: core, class, units (R204). -/
def State.boundTo (s : State) (x : Team) : List (Nat × Nat × Nat) :=
  x.lm.flatMap fun y => (tileCores y.1).flatMap fun l => (List.range 16).filterMap fun k =>
    let w := kget (s.core l).cls k 0#64
    if bit w 63 && fld w 61 59 == 1 && teamGran x y.1 (fld w 16 0) then some (l, k, fld (s.lm64 y.1 (fld w 16 0)) 27 17) else none

/-- Whether the save of a team has begun: no firing of it runs, those on seized clusters counting as ended (R403, R406). -/
def State.saveBegun (s : State) (t : Nat) (x : Team) : Bool :=
  x.st == .stopping 3 && (s.teamRunning t).all fun w => s.seizedCore w.1

/-- The whole save: the area is written, the workspaces go to backing but for those of firings that seizure still lets run,
the LM is freed; leases and tiles that the team's cores still hold go (R403, R406). -/
def State.saveTeam (s : State) (t : Nat) (x : Team) (area : Nat) : State × Nat :=
  let s := x.blocks.foldl State.readGranules (s.stripTeam t x)
  let head := toBytes 8 (mkWord [(48, x.lead.1), (32, x.lead.2.toNat)]).toNat ++ toBytes 8 s.time.toNat ++
    toBytes 8 x.lm.length ++ List.replicate 40 0#8
  let bytes := head ++ x.blocks.flatMap (s.tileBlock x)
  let saved := x.blocks.flatMap fun y => (s.teamBufs x y.1).map fun b =>
    let d1 := s.lm64 y.1 (b.1 + 8)
    (y.1, b.1, b.2.1, b.2.2, (s.occupied y.1 b.2.1 b.2.2 1024 (fld d1 9 0) (fld d1 42 32)).length / 64)
  let s := s.hwWrite x.part (fnCtx x.fn) false area bytes
  let s := (s.teamWks t).foldl (fun s w => match w.2.place with
    | some p => if s.backEn x.part.toNat && w.2.st != .running && w.2.st != .interrupted then s.saveOut w.1 p else s
    | none => s) s
  ({ s with teams := kput s.teams t { x with st := .saved, saved := saved, shut := s.boundTo x, area := area } }, bytes.length)

/-- Whether a team that is being drained or saved has come to its end: no firing of it runs, those on seized clusters
counting as ended, and, for a save, the copies its cores issued are done (R403, R406, R408). -/
def State.preReached (s : State) (t : Nat) (x : Team) (strat : Nat) : Bool :=
  let ls := s.teamCores t x
  (s.teamRunning t).all (fun w => s.seizedCore w.1) && (strat != 3 || s.cores.all fun c =>
    (c.2.fifo.all fun e => !(ls.contains c.1) && e.team != t) &&
      c.2.copies.all fun y => y.told || (!(ls.contains c.1) && y.cmd.team != t))

def State.preFinish (s : State) (strat : Nat) : State :=
  let dl := fld s.pre.req 31 0 * 100
  let late := dl != 0 && decide (dl < (s.time - s.pre.at_).toNat) && strat != 0
  let was := bit s.pre.status 61
  let s := if late && !was then s.missEvent s.pre.part else s
  { s with pre := { s.pre with status := preStatus false true (was || late) strat (fld s.pre.status 31 0) } }

/-- Bytes that the save of a saved team holds. -/
def Team.areaBytes (x : Team) : Nat :=
  64 + 8 * x.lm.length + x.lmBytes + x.saved.foldl (fun n b => n + 64 * b.2.2.2.2) 0 -
    x.saved.foldl (fun n b => n + 64 * b.2.2.2.1) 0

/-- The first 4 KiB boundary from `n` on at which `len` bytes meet no save that is still held. -/
def areaFrom (held : List (Nat × Nat)) (len : Nat) : Nat → Nat → Nat
  | 0, n => n
  | fuel + 1, n =>
    match held.find? fun h => decide (h.1 < n + len) && decide (n < h.2) with
    | some h => areaFrom held len fuel ((h.2 + 4095) / 4096 * 4096)
    | none => n

/-- Where a migration saves a team: in the area that the PF named, behind the saves held there (R410; DESIGN CHOICE, log
entry 151). -/
def State.nextArea (s : State) (x : Team) : Nat :=
  let held := (s.teams.filter fun t => t.2.st == .saved).map fun t => (t.2.area, t.2.area + t.2.areaBytes)
  areaFrom held (64 + 8 * x.lm.length + s.saveBytes x) held.length (fld s.pre.area 47 12 <<< 12)

/-- A function that is STOPPING: each team of it that is placed or drained is saved, and once nothing of it is left but saved
teams it is STOPPED (R410). -/
def State.migStep (s : State) (fn : Nat) : State :=
  let s := { s with teams := s.teams.map fun (t : Nat × Team) => if t.2.fn = fn then (t.1, { t.2 with back := false }) else t }
  let ts := s.teams.filter fun t => t.2.fn == fn
  let s := (ts.filter fun t => t.2.st == .placed || t.2.st == .drained).foldl (fun s t => s.preBegin t.1 3 t.2) s
  if ts.all fun t => t.2.st == .saved then { s with migr := kput s.migr fn 3#3 } else s

/-! ### Resuming (R407) -/

/-- Puts a saved tile block back: the LM bytes outside its buffers, then each buffer's units at its base. -/
def restoreBlock (m : List Host.Cell) (bs : List (Nat × Nat × Nat × Nat × Nat)) (y : Nat × List Nat) (data : List Byte) :
    List Host.Cell × List Byte :=
  let mine := bs.filter (·.1 == y.1)
  let inB (off : Nat) : Bool := mine.any fun b => decide (b.2.2.1 ≤ off) && decide (off < b.2.2.1 + 64 * b.2.2.2.1)
  let r := (granBytes y.2).foldl (fun (a : List Host.Cell × List Byte) off =>
    if inB off then (memWrite a.1 (lmKey y.1 off) 0#8, a.2)
    else (memWrite a.1 (lmKey y.1 off) (a.2.headD 0#8), a.2.drop 1)) (m, data.drop 8)
  mine.foldl (fun (a : List Host.Cell × List Byte) b =>
    let n := 64 * b.2.2.2.2
    let d1 := ofBytes (memReadN a.1 (lmKey y.1 (b.2.1 + 8)) 8)
    let w := setFld (setFld (setFld (BitVec.ofNat 64 d1) 9 0 0) 25 16 (b.2.2.2.2 % max 1 b.2.2.2.1)) 42 32 b.2.2.2.2
    (memWriteN (memWriteN a.1 (lmKey y.1 b.2.2.1) (a.2.take n)) (lmKey y.1 (b.2.1 + 8)) (toBytes 8 w.toNat), a.2.drop n)) r

/-- Brings a drained or saved team back; false when a saved team's granules are not free, or its area cannot be read. Bound
workspaces return to their banks, on a common core only while their partition holds it (R191), and each restored buffer
sends its credit (R209). -/
def State.resumeTeam (s : State) (t : Nat) (x : Team) : State × Bool :=
  let cores := s.teamCores t x
  let back (s : State) : State :=
    let s := { s with teams := kput s.teams t { x with st := .placed, saved := [], shut := [] } }
    let s := cores.foldl (fun s l => (((s.core l).dir.filter fun w =>
        w.team == t && decide (0 < w.bank) && w.place.isNone && s.holdsCore x.part.toNat l)).foldl
      (fun s w => (s.makeResident l w.ent).getD s) s) s
    cores.foldl (fun s l => s.reeval l) s
  if x.st = .drained then (back s, true)
  else
    let p := x.part.toNat
    let free := x.lm.all fun y => y.2.all fun g => !(s.lmTaken y.1 g) && s.holdsLm p y.1 (4096 * g) 4096
    if !free then (s, false)
    else
      match s.hwRead x.part (fnCtx x.fn) false x.area x.areaBytes with
      | (s, none) => (s, false)
      | (s, some bs) =>
        let r := x.blocks.foldl (fun (a : List Host.Cell × List Byte) y => restoreBlock a.1 x.saved y a.2) (s.mem, bs.drop 64)
        (back (x.saved.foldl (fun s b => s.sendCredit b.1 b.2.1) { s with mem := r.1 }), true)

/-- The homes of a team's LM and of the workspaces on its cores that take no accesses now (R411, R423). -/
def State.teamAsleep (s : State) (t : Nat) (x : Team) : List Home :=
  (x.lm.map (fun y => Home.lm y.1) ++ (s.teamCores t x).map Home.ws).filter fun h => !(s.homeLive h)

/-- A save or a resume arrives at retained clusters and waits for their exits (R411). -/
def State.wakeTeam (s : State) (t : Nat) (x : Team) : State := (s.teamAsleep t x).foldl State.wakeHome s

/-- The teams of functions that have been started again are resumed, each once its clusters are in service (R410, R411). -/
def State.resumeBack (s : State) : State :=
  (s.teams.filter (·.2.back)).foldl (fun s t =>
    match kfind s.teams t.1 with
    | none => s
    | some x =>
      if x.st != .saved && x.st != .drained then { s with teams := kput s.teams t.1 { x with back := false } }
      else if !(s.teamAsleep t.1 x).isEmpty then s.wakeTeam t.1 x
      else ({ s with teams := kput s.teams t.1 { x with back := false } }.resumeTeam t.1 { x with back := false }).1.graphStep) s

/-- The open resume: it ends once the clusters of its team are in service, or its team has gone (R407, R411). -/
def State.resumeGo (s : State) : State :=
  let fin (s : State) (miss : Bool) : State := { s with pre := { s.pre with status := preStatus false true miss 0 0, res := false } }
  match kfind s.teams s.pre.team with
  | none => fin s false
  | some x =>
    if x.st != .saved && x.st != .drained then fin s false
    else if !(s.teamAsleep s.pre.team x).isEmpty then s.wakeTeam s.pre.team x
    else
      match s.resumeTeam s.pre.team x with
      | (s, ok) => fin s (!ok)

/-- A write of the resume word that was not refused: Busy while the resume runs (R407). -/
def State.preResume (s : State) (v : W64) : State :=
  let s := { s with pre := { s.pre with resume := setFld v 63 63 0 } }
  if !(bit v 63) then s
  else
    match s.teamOf v with
    | none => s
    | some (t, _) => { s with pre := { s.pre with status := preStatus true false false 0 0, team := t, res := true } }.resumeGo

/-- PREEMPT_COMPLETE: the open request's strategy has finished, unless its team completes first (R403, R408), or the open resume
(R407); or a team of a stopping function has been saved, or one that comes back is resumed (R410). -/
def State.preComplete (s : State) : State :=
  let s := s.resumeBack
  if bit s.pre.status 63 && s.pre.res then s.resumeGo
  else if bit s.pre.status 63 then
    match kfind s.teams s.pre.team with
    | none => s.preFinish (if fld s.pre.status 60 59 = 2 then 2 else 0)
    | some x =>
      match x.st with
      | .stopping k =>
        if s.teamDone s.pre.team x || !(s.preReached s.pre.team x k) then s
        else if k = 3 && !(s.teamAsleep s.pre.team x).isEmpty then s.wakeTeam s.pre.team x
        else if k = 3 then ((s.saveTeam s.pre.team x (fld s.pre.area 47 12 <<< 12)).1).preFinish 3
        else ({ s with teams := kput s.teams s.pre.team { x with st := .drained } }).preFinish 1
      | .saved => s.preFinish (fld s.pre.status 60 59)
      | .placed | .drained | .ended => s
  else
    match s.teams.find? fun t => t.2.st == .stopping 3 && !(s.teamDone t.1 t.2) && s.preReached t.1 t.2 3 with
    | some (t, x) =>
      if !(s.teamAsleep t x).isEmpty then s.wakeTeam t x else (s.saveTeam t x (s.nextArea x)).1
    | none => ((s.migr.filter fun m => m.2 = 2#3).map (·.1)).foldl State.migStep s

/-- Whether a Go of the resume word is refused: a request is open, or the team is neither drained nor saved. -/
def State.resumeRefused (s : State) (v : W64) : Bool :=
  bit v 63 && (bit s.pre.status 63 || (match s.teamOf v with
    | some (_, x) => x.st != .drained && x.st != .saved
    | none => true))

/-! ### Functions: mailboxes, slots, reset (R174, R409) -/

/-- Drops a party's pins and reservations on every object; a dropped reservation's slot becomes Free, and a retiring slot
left without pins becomes Free (R161, R174). -/
def Obj.dropParty (o : Obj) (q : MParty) : Obj :=
  let o := match o.resv with
    | some (k, h) => if h = q then { o with resv := none, slots := kdel o.slots k } else o
    | none => o
  let pins := o.pins.filter (·.1 != q)
  { o with
    pins := pins
    slots := o.slots.filter fun x => match x.2 with
      | .committed _ _ true => pins.any (·.2.1 == x.1)
      | _ => true }

def State.dropParty (s : State) (q : MParty) : State :=
  { s with objs := s.objs.map fun x => (x.1, x.2.dropParty q) }

/-- Removes the translations of a context everywhere (R409, R62). -/
def State.dropCtx (s : State) (ctx : BitVec 10) : State :=
  let keep (l : List TlbE) : List TlbE := l.filter (·.ctx != ctx)
  { s with
    cores := s.cores.map fun c => (c.1, { c.2 with tlb1 := keep c.2.tlb1 })
    clusters := s.clusters.map fun c => (c.1, { c.2 with tlb2 := keep c.2.tlb2, tlbLp := keep c.2.tlbLp })
    walkc := s.walkc.filter fun e => e.s2 || e.ctx != ctx }

/-- The hardware queue slots that map a function's queues. -/
def State.slotsOf (s : State) (fn : Nat) : List Nat :=
  (s.qslots.filter fun q => bit q.2 63 && fld q.2 61 52 == fn).map (·.1)

/-- VF_RESET: the function's launches stop, those of Op 0 for good; restartable running firings are abandoned (R409 steps 1
and 2). -/
def State.vfReset (s : State) (fn : Nat) : State :=
  let ts := s.teams.filter fun t => t.2.fn == fn
  let s := { s with
    resets := kput s.resets fn s.time.toNat
    graphs := s.graphs.filter (·.fn != fn)
    nops := s.nops.filter (·.2.fn != fn)
    teams := s.teams.map fun t =>
      if t.2.fn = fn then (t.1, { t.2 with st := .ended, status := 4, noDone := true, ring := { fn := fn } }) else t }
  ts.foldl (fun s t =>
    ((s.teamRunning t.1).filter (·.2.rst)).foldl (fun s w => s.abandon w.1 w.2.ent false) s) s

/-- The held results of an interrupted firing, once all have come back, are written to its own workspace; faults that they carry
wait for its resumption (R217, R218, R385, log entry 36). -/
def Core.parkIntr (c : Core) (l : Nat) (w : Wk) (i : Intr) : Core :=
  if !(i.held.all c.heldReady) then c
  else
    let r := ({ c with cur := w.place.getD 0 } : Core).writeAll i.held
    { r.1 with
      cur := c.cur
      intr := r.1.intr.map fun (k : Intr) => if k.ent = i.ent then { k with held := [], parkDue := false } else k
      deferred := (r.2.map fun f => { f with owner := w.owner l, later := true }) ++ r.1.deferred }

/-- A firing that still runs at the end of a VF reset parks and is held with the watchdog fault (R217, R409 step 3); an interrupted
one too, where it stands. -/
def State.resetHold (s : State) (l : Nat) (w : Wk) : State :=
  let f := flt causeWatchdog
  match (s.core l).intr.find? (·.ent == w.ent) with
  | some i =>
    let s := s.updCore l fun c => c.parkIntr l w i
    if (s.core l).intr.any fun k => k.ent == w.ent && !k.held.isEmpty then s
    else
      ((s.updCore l fun c => c.latchFault f).postRecord w.part
        (s.faultRecord l f (w.owner l) true (bit i.tstat 63) i.guard i.pc)).abandon l w.ent false
  | none =>
    let s := s.raise l f (s.core l).pc
    if (s.core l).holdDue.isSome then s.parkCtl l else s

/-- VF_RESET_TIMEOUT: at 1 ms, or once nothing of it runs, what is left is held, after its park, and abandoned, and the launches
complete; once they have, slots, bits, pins and translations go (R409 steps 3 to 6). -/
def State.vfResetEnd (s : State) (fn : Nat) : State :=
  match kfind s.resets fn with
  | none => s
  | some t0 =>
    let ts := s.teams.filter fun t => t.2.fn == fn
    let running := ts.flatMap fun t => s.teamRunning t.1
    if !running.isEmpty && decide (s.time.toNat < t0 + 1000000) then s
    else
      let s := running.foldl (fun s w => s.resetHold w.1 w.2) s
      let parking := ts.any fun t => !(s.teamRunning t.1).isEmpty
      let s := if parking then s else
        (ts.foldl (fun s t =>
          ((s.teamWks t.1).filter (·.2.firing)).foldl (fun s w => s.abandon w.1 w.2.ent false) s) s)
      let s := if parking then s else ts.foldl (fun s t => s.teamComplete t.1) s
      if parking || s.teams.any fun t => t.2.fn == fn then s
      else
        let s := { s with
          resets := kdel s.resets fn, nops := s.nops.filter (·.2.fn != fn)
          entries := s.entries.filter fun e => !((s.slotsOf fn).contains e.slot)
          pendAt := s.pendAt.filter (·.1 / 8 != fn), w2wait := s.w2wait.filter (·.1 != fn)
          qslots := s.qslots.map fun (q : Nat × W64) => if fld q.2 61 52 = fn then (q.1, setFld q.2 63 63 0) else q }
        ((s.setDcw (0x0B1000 + 8 * fn) 0#64).dropParty (.fn fn)).dropCtx (fnCtx fn)

/-! ### Live migration (R410) -/

def State.migState (s : State) (fn : Nat) : BitVec 3 := kget s.migr fn 0#3
def State.setMig (s : State) (fn : Nat) (v : BitVec 3) : State := { s with migr := kput s.migr fn v }

/-- The writable leaves of a table tree: input base, output base, log2 of the mapped size. -/
def State.leavesOf (s : State) (base : Nat) : Nat → Nat → Nat → List (Nat × Nat × Nat)
  | 0, _, _ => []
  | fuel + 1, level, input =>
    (List.range 4096).flatMap fun i =>
      let a := base + 16 * i
      let lo := BitVec.ofNat 64 (ofBytes (s.cohBytes a 8))
      let hi := BitVec.ofNat 64 (ofBytes (s.cohBytes (a + 8) 8))
      let inp := input + i <<< (if level = 1 then 36 else if level = 2 then 24 else 12)
      match readDesc lo hi level inp with
      | .table next => s.leavesOf next fuel (level + 1) inp
      | .leaf oa _ _ _ w _ _ _ _ => if w then [(inp, oa, leafBits level 0)] else []
      | _ => []

/-- The 64 KiB granules of physical memory that a function's context maps writable. -/
def State.vfGranules (s : State) (fn : Nat) : List Nat :=
  let e := s.dcw (0x020000 + 8 * fn)
  let p := (s.fnPart fn).toNat
  let g2 := s.dcw (0x030000 + 8 * p)
  let all := [(0, 0, 48)]
  let s1 := if bit e 0 then s.leavesOf (fld e 47 16 <<< 16) 3 1 0 else all
  let s2 := if bit g2 63 then s.leavesOf (fld g2 47 16 <<< 16) 3 1 0 else all
  let cut (a : Nat × Nat × Nat) (b : Nat × Nat × Nat) : Option (Nat × Nat) :=
    let lo := max a.2.1 b.1
    let hi := min (a.2.1 + 2 ^ a.2.2) (b.1 + 2 ^ b.2.2)
    if lo < hi then some (b.2.1 + (lo - b.1), b.2.1 + (hi - b.1)) else none
  let spans := s1.flatMap fun a => s2.filterMap (cut a)
  (List.range (s.installed / 65536)).filter fun g =>
    spans.any fun x => decide (x.1 < 65536 * (g + 1)) && decide (65536 * g < x.2)

/-- Granules not yet streamed, or written since (R410). -/
def State.dirtyGranules (s : State) (fn : Nat) : List Nat :=
  let done := kget s.streamed fn []
  (s.vfGranules fn).filter fun g => !(done.contains g)

/-- A chunk: a 16-byte header of kind, length and offset, and its data (log entry 11). -/
def chunk (kind off : Nat) (data : List Byte) : List Byte :=
  toBytes 2 (if kind = 0 then 0 else (Config.chunkKind kind).toNat) ++ toBytes 2 0 ++ toBytes 4 data.length ++
    toBytes 8 off ++ data

/-- Words of a control-space range as chunk data. -/
def State.ctlBytes (s : State) (off n : Nat) : List Byte :=
  (List.range n).flatMap fun i => toBytes 8 (s.dcw (off + 8 * i)).toNat

/-! #### Saved teams and launches in an image (R410, log entry 11)

A list of lists of numbers, each length before its list: the first number of an item tells a team (0), a workspace of the
team before it (1), a graph (2), an entry (3). -/

def putList (l : List Nat) : List Nat := l.length :: l

def getLists : Nat → List Nat → List (List Nat)
  | 0, _ => []
  | fuel + 1, l => match l with
    | [] => []
    | n :: t => t.take n :: getLists fuel (t.drop n)

def wkStCode : WkSt → Nat
  | .idle => 0 | .queued => 1 | .running => 2 | .interrupted => 3 | .held => 4

def wkStOf (n : Nat) : WkSt := if n = 1 then .queued else if n = 4 then .held else .idle

def modeOf (n : Nat) : Mode := if n = 1 then .partition else if n = 2 then .hypervisor else if n = 3 then .station else .firing

/-- The queue index of a hardware queue slot; 8 for none. -/
def State.qiOf (s : State) (k : Nat) : Nat := if k < 256 then fld (kget s.qslots k 0#64) 51 49 else 8

/-- The slot that maps a queue of a function; 256 for none. -/
def State.slotFor (s : State) (fn qi : Nat) : Nat :=
  ((List.range 256).find? fun k => let w := kget s.qslots k 0#64; bit w 63 && fld w 61 52 == fn && fld w 51 49 == qi).getD 256

def State.ringItem (s : State) (r : Ring) : List Nat := [s.qiOf r.slot, r.n, r.w0.toNat, r.dep.toNat, r.done.toNat]

def State.ringFrom (s : State) (fn : Nat) (l : List Nat) : Ring :=
  let w (i : Nat) : W64 := BitVec.ofNat 64 (l.getD i 0)
  { fn := fn, slot := s.slotFor fn (l.getD 0 8), n := l.getD 1 0, w0 := w 2, dep := w 3, done := w 4 }

def granItem (ys : List (Nat × List Nat)) : List Nat := ys.flatMap fun y => y.1 :: putList y.2

def granFrom : Nat → List Nat → List (Nat × List Nat)
  | 0, _ => []
  | fuel + 1, l => match l with
    | t :: n :: r => (t, r.take n) :: granFrom fuel (r.drop n)
    | _ => []

/-- A saved team. -/
def State.teamItem (s : State) (x : Team) : List Nat :=
  [0, x.lead.1, x.lead.2.toNat, b2n x.arr, x.barCnt, x.status, b2n x.noDone, b2n x.rst, x.area] ++ s.ringItem x.ring ++
    (match x.graph with | some (g, i) => [1, g, i] | none => [0, 0, 0]) ++
    putList (x.actors.flatMap fun a => [a.1, a.2.toNat]) ++ putList (x.barEp.flatMap fun b => [b.1, b.2]) ++
    putList (x.saved.flatMap fun b => [b.1, b.2.1, b.2.2.1, b.2.2.2.1, b.2.2.2.2]) ++
    putList (granItem x.lm) ++ putList (granItem x.wb) ++ putList (granItem x.ab)

def State.graphItem (s : State) (g : Graph) : List Nat :=
  [2, g.id, g.header.toNat, g.ver, g.conc, b2n g.waiting, g.status, g.nodeSt] ++ s.ringItem g.ring ++ putList g.sent ++
    putList g.done ++ g.nodes.flatMap fun n => n.map (·.toNat)

/-- An entry whose completion is owed, or of Op 0 and waiting. -/
def State.entryItem (s : State) (e : Entry) : List Nat :=
  [3, s.qiOf e.slot, e.n] ++ match e.owed with | some (a, b) => [1, a.toNat, b.toNat] | none => [0]

/-- The numbers before `n :: list`, and after it. -/
def cutList (l : List Nat) : List Nat × List Nat := (l.drop 1 |>.take (l.headD 0), l.drop (1 + l.headD 0))

def pairsOf : List Nat → List (Nat × Nat)
  | a :: b :: t => (a, b) :: pairsOf t
  | _ => []

/-- A core takes an id that an image brings, out of its free list; none when it is in use there. -/
def Core.claimId (c : Core) (id : Nat) : Option Core :=
  if c.dir.any (·.wsid.toNat == id) then none
  else if c.nextId ≤ id then
    some { c with
      nextId := id + 1
      freed := c.freed ++ ((List.range (id - c.nextId)).map fun i => (BitVec.ofNat 16 (c.nextId + i), 0#12)) }
  else if c.freed.any (·.1.toNat == id) then some { c with freed := c.freed.filter (·.1.toNat != id) }
  else none

/-- A workspace of an image goes to the backing store of its core, under its id; it is left out where the id, the entry or the
index is not free. -/
def State.putWk (s : State) (part : BitVec 6) (team : Nat) (x : List Nat) : State :=
  let v (i : Nat) : Nat := x.getD i 0
  let w64 (i : Nat) : W64 := BitVec.ofNat 64 (v i)
  let l := v 1
  let c := s.core l
  let ent := (List.range 256).find? fun e => !(c.dir.any (·.ent == e))
  let idx := (List.range (min 256 (s.limLive part.toNat))).find? fun i => !(c.dir.any fun w => w.part == part && w.idx == i)
  match c.claimId (v 2), ent, idx with
  | some c, some e, some i =>
    let w : Wk :=
      { ent := e, wsid := BitVec.ofNat 16 (v 2), gen := BitVec.ofNat 12 (v 3), part := part, idx := i, bank := v 4
        allot := v 5, ctx := BitVec.ofNat 10 (v 6), mode := modeOf (v 7), entry := w64 8, trap := w64 9, pri := v 10
        wdg := v 11, rst := v 12 != 0, decl := if v 13 = 0 then none else some (v 13 - 1), nin := v 14, nout := v 15
        team := team, st := wkStOf (v 16), hpc := w64 17
        hguard := { rem := v 18, sense := v 19 != 0, pred := v 20 != 0 }
        nested := v 21 != 0, resumed := v 22 != 0, prevDur := w64 23, fired := v 24 != 0
        hwait := if v 25 = 1 then .got (w64 26) (w64 27) else .none
        hjoin := if v 28 = 0 then none else some (BitVec.ofNat 64 (v 28 - 1))
        hinl := (x.drop 96).map (BitVec.ofNat 64), fid := c.nextFid, lastEnd := s.time }
    let c := { c with
      dir := c.dir ++ [w], nextFid := c.nextFid + 1
      runq := if w.st = .queued then c.runq ++ [{ pri := w.pri, ent := e, since := s.time }] else c.runq }
    (s.setCore l c).hwWrite part 0#10 false (s.backAddr part.toNat l i)
      (((x.drop 29).take 67).flatMap fun n => toBytes 8 n)
  | _, _, _ => s

/-- Graph `g` of an image under a number that is free here. -/
def graphId (base g : Nat) : Nat := base + g

/-- An item of an image is put back; `base` is where this device's numbers of graphs begin for it. -/
def State.putItem (s : State) (fn base : Nat) (x : List Nat) : State :=
  let v (i : Nat) : Nat := x.getD i 0
  let own (s : State) (r : Ring) : State :=
    if r.slot < 256 ∧ !(s.entries.any fun e => e.slot == r.slot && e.n == r.n) then
      { s with entries := s.entries ++ [{ slot := r.slot, n := r.n }] }
    else s
  match v 0 with
  | 0 =>
    let ring := s.ringFrom fn (x.drop 9)
    let (acts, r) := cutList (x.drop 17)
    let (eps, r) := cutList r
    let (sv, r) := cutList r
    let (lm, r) := cutList r
    let (wb, r) := cutList r
    let (ab, _) := cutList r
    let t : Team :=
      { lead := (v 1, BitVec.ofNat 16 (v 2)), part := s.fnPart fn, fn := fn, arr := v 3 != 0, barCnt := v 4, status := v 5
        noDone := v 6 != 0, rst := v 7 != 0, area := v 8, ring := ring
        graph := if v 14 = 0 then none else some (graphId base (v 15), v 16)
        actors := (pairsOf acts).map fun a => (a.1, BitVec.ofNat 16 a.2), bars := [], barEp := pairsOf eps
        saved := (chunksOf 5 (sv.length / 5) sv).map fun b => (b.getD 0 0, b.getD 1 0, b.getD 2 0, b.getD 3 0, b.getD 4 0)
        lm := granFrom lm.length lm, wb := granFrom wb.length wb, ab := granFrom ab.length ab, st := .saved }
    own { s with teams := kput s.teams s.teamNext t, teamNext := s.teamNext + 1 } ring
  | 1 => s.putWk (s.fnPart fn) (s.teamNext - 1) x
  | 2 =>
    let ring := s.ringFrom fn (x.drop 8)
    let (sent, r) := cutList (x.drop 13)
    let (dn, r) := cutList r
    let g : Graph :=
      { id := graphId base (v 1), fn := fn, part := s.fnPart fn, header := BitVec.ofNat 64 (v 2), ver := v 3, conc := v 4
        waiting := v 5 != 0, status := v 6, nodeSt := v 7, ring := ring, sent := sent, done := dn
        nodes := (chunksOf 8 (r.length / 8) r).map fun n => n.map (BitVec.ofNat 64) }
    own { s with graphs := s.graphs ++ [g], graphNext := max s.graphNext (g.id + 1) } ring
  | _ =>
    let k := s.slotFor fn (v 1)
    let owed := if v 3 = 0 then none else some (BitVec.ofNat 64 (v 4), BitVec.ofNat 64 (v 5))
    if k = 256 || s.entries.any (fun e => e.slot == k && e.n == v 2) then s
    else { s with entries := s.entries ++ [{ slot := k, n := v 2, owed := owed }] }

/-- The data of an image's chunks of one kind, in order. -/
def chunksData (kind : BitVec 16) : Nat → List Byte → List Byte
  | 0, _ => []
  | fuel + 1, b =>
    if b.length < 16 then []
    else
      let len := ofBytes ((b.drop 4).take 4)
      (if BitVec.ofNat 16 (ofBytes (b.take 2)) = kind then (b.drop 16).take len else []) ++
        chunksData kind fuel (b.drop (16 + len))

/-- The launches of an accepted image are there again, their teams as saved ones. -/
def State.bringBack (s : State) (fn : Nat) (b : List Byte) : State :=
  let d := chunksData (Config.chunkKind 7) b.length b
  let ns := (chunksOf 8 (d.length / 8) d).map ofBytes
  let base := s.graphNext
  (getLists ns.length ns).foldl (fun s x => s.putItem fn base x) s

/-- A line as the image stream carries it: from its slice, else from its channel; of one that its channel does not deliver,
failed or with a double-bit error, the words are free values (R115, R122, log entry 135). -/
def State.streamLine (s : State) (pa : Nat) : State × List Byte :=
  let there : Bool := match s.wayOf pa with
    | some w => w.st != .pending
    | none => false
  if there then (s, s.cohBytes pa 64)
  else
    match s.chanRead pa with
    | (s, true) => (s, (List.range 8).flatMap fun i => toBytes 8 (Config.lostWord s.tick (pa + 8 * i)).toNat)
    | (s, false) => (s, s.cohBytes pa 64)

def State.streamLines (s : State) (line : Nat) : Nat → State × List Byte
  | 0 => (s, [])
  | n + 1 =>
    let r := s.streamLine (64 * line)
    let t := r.1.streamLines (line + 1) n
    (t.1, r.2 ++ t.2)

/-- `n` bytes of memory for the image stream. -/
def State.streamBytes (s : State) (pa n : Nat) : State × List Byte :=
  let r := s.streamLines (pa / 64) (spanLines pa n)
  (r.1, (r.2.drop (pa % 64)).take n)

/-- A workspace with its record, which for one that is not resident comes from the backing store as the stream reads memory. -/
def State.wkItem (s : State) (l : Nat) (w : Wk) : State × List Nat :=
  let r := match w.place with
    | some p => (s, (s.core l).record p w)
    | none => s.streamBytes (s.backAddr w.part.toNat l w.idx) 536
  (r.1, [1, l, w.wsid.toNat, w.gen.toNat, w.bank, w.allot, w.ctx.toNat, modeCode w.mode, w.entry.toNat, w.trap.toNat, w.pri, w.wdg,
    b2n w.rst, match w.decl with | some d => d + 1 | none => 0, w.nin, w.nout, wkStCode w.st, w.hpc.toNat, w.hguard.rem,
    b2n w.hguard.sense, b2n w.hguard.pred, b2n w.nested, b2n w.resumed, w.prevDur.toNat, b2n w.fired] ++
    (match w.hwait with | .got a b => [1, a.toNat, b.toNat] | _ => [0, 0, 0]) ++
    [match w.hjoin with | some p => p.toNat + 1 | none => 0] ++ ((chunksOf 8 67 (r.2.take 536)).map ofBytes) ++ w.hinl.map (·.toNat))

def State.wkItems (s : State) : List (Nat × Wk) → State × List (List Nat)
  | [] => (s, [])
  | w :: ws =>
    let r := s.wkItem w.1 w.2
    let u := r.1.wkItems ws
    (u.1, r.2 :: u.2)

/-- Saved teams with their workspaces. -/
def State.teamItems (s : State) : List (Nat × Team) → State × List (List Nat)
  | [] => (s, [])
  | t :: ts =>
    let r := s.wkItems (s.teamWks t.1)
    let u := r.1.teamItems ts
    (u.1, s.teamItem t.2 :: r.2 ++ u.2)

/-- What an image carries of a function's launches. -/
def State.launchItems (s : State) (fn : Nat) : State × List (List Nat) :=
  let r := s.teamItems (s.teams.filter fun t => t.2.fn == fn && t.2.st == .saved)
  (r.1, r.2 ++ ((s.graphs.filter (·.fn == fn)).map s.graphItem) ++
    (s.entries.filter fun e => (s.slotsOf fn).contains e.slot).map s.entryItem)

/-- The chunks of the save areas of teams. -/
def State.saveChunks (s : State) : List Team → State × List Byte
  | [] => (s, [])
  | t :: ts =>
    let r := s.streamBytes t.area t.areaBytes
    let u := r.1.saveChunks ts
    (u.1, ((chunksOf 4096 t.areaBytes r.2).zipIdx.flatMap fun c => chunk 6 (t.area + 4096 * c.2) c.1) ++ u.2)

/-- The state chunks that STOPPED adds: queue state, pending bits, object maps, aperture ranges, save areas. -/
def State.stateChunks (s : State) (fn : Nat) : State × List Byte :=
  let mapped := (s.slotsOf fn).foldl (fun a k => a ||| 1 <<< fld (kget s.qslots k 0#64) 51 49) 0
  let qs := (List.range 64).flatMap (fun i => toBytes 8 (kget s.w1 (64 * fn + i) 0#64).toNat) ++ toBytes 8 mapped
  let maps := (List.range 64).flatMap fun j => toBytes 4 (fld (s.dcw (0x080000 + 256 * fn + 4 * j)) 31 0)
  let saves := s.saveChunks ((s.teams.filter fun t => t.2.fn == fn && t.2.st == .saved).map (·.2))
  let launches := saves.1.launchItems fn
  (launches.1, chunk 2 0 qs ++ chunk 3 0 (s.ctlBytes (0x0B1000 + 8 * fn) 1) ++ chunk 4 0 maps ++
    chunk 5 0 (s.ctlBytes (0x0E8000 + 128 * fn) 16) ++ saves.2 ++
    let d := (launches.2.flatMap putList).flatMap fun n => toBytes 8 n
    (chunksOf 4096 (d.length / 4096 + 1) d).zipIdx.flatMap fun c => chunk 7 (4096 * c.2) c.1)

/-- Fills the stream of a function when it has run out. -/
def State.refill (s : State) (fn : Nat) : State :=
  if !(kget s.image fn []).isEmpty then s
  else
    match s.dirtyGranules fn with
    | g :: _ =>
      let r := s.streamBytes (65536 * g) 65536
      let bytes := (chunksOf 4096 16 r.2).zipIdx.flatMap fun c => chunk 1 (65536 * g + 4096 * c.2) c.1
      { r.1 with
        image := kput s.image fn bytes, streamed := kput s.streamed fn (g :: kget s.streamed fn []) }
    | [] =>
      if s.migState fn = 3#3 && !(s.stateSent.contains fn) then
        let r := s.stateChunks fn
        { r.1 with image := kput s.image fn r.2, stateSent := fn :: s.stateSent }
      else { s with image := kput s.image fn (chunk 0 0 []) }

/-- MIGRATION_DATA_READ: the next 8 bytes of the selected function's stream (R410, R430). -/
def State.migRead (s : State) : State :=
  let fn := s.migSel
  if s.migState fn = 1#3 ∨ s.migState fn = 2#3 ∨ s.migState fn = 3#3 then
    let s := s.refill fn
    let b := kget s.image fn []
    { s with w2out := b.take 8, image := kput s.image fn (b.drop 8) }
  else { s with w2out := List.replicate 8 0#8 }

/-- MIGRATION_DATA_WRITE: 8 bytes more of an image (R410). -/
def State.migWrite (s : State) (v : W64) : State :=
  if s.migState s.migSel = 4#3 then
    { s with image := kput s.image s.migSel (kget s.image s.migSel [] ++ toBytes 8 v.toNat) }
  else s.pfLog 6 0 0x1000

/-- Applies the chunks of an accepted image (R410). -/
def State.applyChunks (s : State) (fn : Nat) : Nat → List Byte → State
  | 0, _ => s
  | fuel + 1, b =>
    if b.length < 16 then s
    else
      let kind := BitVec.ofNat 16 (ofBytes (b.take 2))
      let len := ofBytes ((b.drop 4).take 4)
      let off := ofBytes ((b.drop 8).take 8)
      let data := (b.drop 16).take len
      let ws := (chunksOf 8 data.length data).map fun x => BitVec.ofNat 64 (ofBytes x)
      let put (s : State) (base : Nat) (ws : List W64) : State :=
        (ws.zipIdx).foldl (fun s w => s.setDcw (base + 8 * w.2) w.1) s
      let s :=
        if kind = Config.chunkKind 1 ∨ kind = Config.chunkKind 6 then s.hwWrite (s.fnPart fn) (fnCtx fn) false off data
        else if kind = Config.chunkKind 2 then
          let s := (ws.zipIdx).foldl (fun (s : State) w =>
            if w.2 < 64 then { s with w1 := kput s.w1 (64 * fn + w.2) w.1 } else s) s
          (List.range 8).foldl (fun (s : State) i =>
            if bit (ws.getD 64 0#64) i then
              match (List.range 256).find? fun k => !(bit (kget s.qslots k 0#64) 63) with
              | some k => { s with qslots := kput s.qslots k (mkWord [(63, 1), (52, fn), (49, i)]) }
              | none => s
            else s) s
        else if kind = Config.chunkKind 3 then
          let s := put s (0x0B1000 + 8 * fn) ws
          let set := (List.range 8).filter fun i => bit (s.dcw (0x0B1000 + 8 * fn)) i
          { s with pendAt := set.foldl (fun p i => kput p (8 * fn + i) (s.time.toNat, false)) s.pendAt }
        else if kind = Config.chunkKind 4 then
          ((chunksOf 4 64 data).zipIdx).foldl (fun s x =>
            s.setDcw (0x080000 + 256 * fn + 4 * x.2) (BitVec.ofNat 64 (ofBytes x.1))) s
        else if kind = Config.chunkKind 5 then put s (0x0E8000 + 128 * fn) ws
        else s
      s.applyChunks fn fuel (b.drop (16 + len))

/-- The saved teams of a function are to be resumed (R410). -/
def State.comeBack (s : State) (fn : Nat) : State :=
  { s with teams := s.teams.map fun (t : Nat × Team) => if t.2.fn = fn ∧ t.2.st = .saved then (t.1, { t.2 with back := true }) else t }

/-- A requested migration state of R410's table; any other request is logged. -/
def State.migRequest (s : State) (fn req : Nat) : State :=
  match (s.migState fn).toNat, req with
  | 0, 1 => { s.setMig fn 1#3 with streamed := kdel s.streamed fn, image := kdel s.image fn, stateSent := s.stateSent.filter (· != fn) }
  | 1, 2 => (s.setMig fn 2#3).migStep fn
  | 3, 0 =>
    let s := s.setMig fn 0#3
    (s.comeBack fn).resumeBack.graphStep
  | 0, 4 => { s.setMig fn 4#3 with image := kput s.image fn [] }
  | 4, 0 =>
    let b := kget s.image fn []
    let s := ((s.setMig fn 0#3).applyChunks fn b.length b).bringBack fn b
    let s := { s with image := kdel s.image fn }
    (s.comeBack fn).resumeBack.graphStep
  | _, _ => s.pfLog 6 0 (0x150000 + 8 * fn)

/-! ### Retention (R411, R412, R428) -/

def State.devState (s : State) : Nat := fld (s.dcw 0x0E0000) 63 62

/-- Engine work of a cluster: its Wain, its Tender, or a copy of one of its cores. -/
def State.engineWork (s : State) (cl : Nat) : Bool :=
  let c := s.clu cl
  !c.wain.isEmpty || !c.tender.isEmpty || c.lease.isSome ||
    (State.coresOf cl).any fun l => let k := s.core l; !k.qm.isEmpty || !k.qe.isEmpty || !k.fifo.isEmpty || !k.copies.isEmpty

/-- R411's conditions: no resident running firing, no lease, no engine work. -/
def State.clusterIdle (s : State) (cl : Nat) : Bool :=
  !(s.engineWork cl) && (State.coresOf cl).all fun l => !(s.core l).busy

/-- Ns from now to the next tick of a timer port with state S (R185). -/
def nextTick (now S period : Nat) : Nat := if now < S then S - now else period - (now - S) % max 1 period

/-- A timer port of an actor on the cluster may tick within 4 µs. -/
def State.timerSoon (s : State) (cl : Nat) : Bool :=
  (State.coresOf cl).any fun l => (s.core l).dir.any fun w => match w.decl with
    | none => false
    | some d => (List.range (w.nin + w.nout)).any fun k =>
      let cfg := s.lm64 (tileOf l) (d + 32 + 16 * k)
      let st := s.lm64 (tileOf l) (d + 40 + 16 * k)
      fld cfg 63 60 == 2 && decide (nextTick s.time.toNat st.toNat (fld cfg 47 0) ≤ 4000)

def State.mayRetain (s : State) (cl : Nat) : Bool :=
  s.devState = 1 && cl < 0x80 && (s.clu cl).ret == .active && (s.clu cl).seized.isNone && s.clusterIdle cl &&
    !(s.timerSoon cl) && !((State.coresOf cl).any s.isCommon) &&
    !(s.slotEn && (if cl < 64 then bit (s.slotEntry s.slot.cur 2) cl else bit (s.slotEntry s.slot.cur 3) (cl - 64))) &&
    decide (fld (s.dcw 0x0E0008) 39 32 * 1000 ≤ (s.time - (s.clu cl).idleSince).toNat)

/-- RETENTION_ENTRY: register caches are written back and the cluster is retained (R411, R428). -/
def State.retainCluster (s : State) (cl : Nat) : State :=
  if s.mayRetain cl then
    let s := (State.coresOf cl).foldl (fun s l => s.updCore l Core.flushAll) s
    s.updClu cl fun c => { c with ret := .retained }
  else s

/-- The outcome counts of a cluster's exits (R412). -/
def State.countExit (s : State) (cl : Nat) (lost : Bool) : State :=
  let w := s.cw (0xE00 + cl) 0x4000
  let w := setFld w 15 0 (fld w 15 0 + 1)
  s.setCw (0xE00 + cl) 0x4000 (if lost then setFld w 31 16 (satAdd (fld w 31 16) 1 0xFFFF) else w)

/-- The resident workspaces of a cluster. -/
def State.cluWks (s : State) (cl : Nat) : List (Nat × Wk) :=
  (State.coresOf cl).flatMap fun l => ((s.core l).dir.filter (·.place.isSome)).map fun w => (l, w)

/-- A cluster whose retained state does not check: its actors' records, and its teams begin to end (R412 steps 1 to 3). -/
def State.loseCluster (s : State) (cl : Nat) : State :=
  let wks := s.cluWks cl
  let s := wks.foldl (fun s w =>
    s.postRecord w.2.part (s.faultRecord w.1 (flt 0x16#8) (w.2.owner w.1) false false {} w.2.hpc)) s
  let ts := (wks.map (·.2.team)).eraseDups
  let s := { s with
    teams := s.teams.map fun (t : Nat × Team) =>
      if ts.contains t.1 then (t.1, { t.2 with st := .ended, status := 1 }) else t }
  let s := wks.foldl (fun s w => s.abandon w.1 w.2.ent false) s
  (ts.foldl (fun s t => s.teamComplete t) s).updClu cl fun c => { c with ret := .reinit }

/-- The workspace region of a core, with what its register cache holds of it, is zeroised with the LM it lies in (R69, R412,
R416). -/
def Core.zeroSlots (c : Core) : Core := { c with rf := [], rc := [], sb := [], keep := [] }

/-- Its storage is zeroised and the workspaces still resident on it are freed (R412 step 4). -/
def State.wipeCluster (s : State) (cl : Nat) : State :=
  let s := (s.cluWks cl).foldl (fun s w => s.updCore w.1 fun c => c.freeWk w.2) s
  let mine (k : Nat) : Bool :=
    let cls := k >>> 60
    let hi := k >>> 48 % 4096
    (cls == 1 && clusterOf hi == cl) || ((cls == 3 || cls == 4) && hi == cl)
  let s := { s with mem := s.mem.filter fun c => !(mine c.1) }
  let s := (State.coresOf cl).foldl (fun s l => s.updCore l Core.zeroSlots) s
  s.updClu cl fun c => { c with acc32 := [], holder := [], steps := [] }

/-- The cluster is in service again, and what waited for it may go on (R411, R412 step 5). -/
def State.backInService (s : State) (cl : Nat) (lost : Bool) : State :=
  let s := (s.countExit cl lost).updClu cl fun c => { c with ret := .active, idleSince := s.time }
  ((State.coresOf cl).foldl (fun s l => s.reeval l) s).graphStep

end Sys2Proof.Machine
end

