-- ==== Sys2Proof/Machine/Power.lean ====
section
/-! DEFINITION. Memory temperature and bandwidth, operating points, power shares, sensors and thermal migration (chapters 04
and 20). Measured quantities come in as operands of events (log entry 7). -/

namespace Sys2Proof.Machine

/-! ### Channels (R116 to R123) -/

def State.liveChannel (s : State) (c : Nat) : Bool := s.liveMask.testBit c

/-- CHANNEL_FAILURE: Failed is set; the interleave stays (R122, R443). -/
def State.channelFail (s : State) (c : Nat) : State :=
  if c < 32 ∧ s.liveChannel c then ({ s with failed := s.failed ||| (1#32 <<< c) }).setWhy 4 else s

/-- A channel reports its temperature: one above 85 °C enters hot mode, and `cool` keeps since when it has been at or below
82 °C (R116, R120, R422). -/
def State.setTemp (s : State) (c : Nat) (t : BitVec 8) : State :=
  { s.setCw (0xD00 + c) 0 (setFld (s.cw (0xD00 + c) 0) 55 48 t.toNat) with
    cool := if 82 < temp8 t.toNat then kdel s.cool c else kput s.cool c (kget s.cool c s.time)
    hot := if 85 < temp8 t.toNat then s.hot ||| (1#32 <<< c) else s.hot }

/-- HOT_MODE_ENTER and HOT_MODE_EXIT, with the temperature that the channel reports: it leaves hot mode once it has stayed
at or below 82 °C for 1 ms (R120). -/
def State.hotEnter (s : State) (c : Nat) (t : BitVec 8) : State :=
  if c < 32 ∧ s.liveChannel c ∧ 85 < temp8 t.toNat then s.setTemp c t else s

def State.hotExit (s : State) (c : Nat) (t : BitVec 8) : State :=
  if c < 32 ∧ s.liveChannel c then
    let s := s.setTemp c t
    match kfind s.cool c with
    | some since => if 1000000 ≤ (s.time - since).toNat then { s with hot := s.hot &&& ~~~(1#32 <<< c) } else s
    | none => s
  else s

def State.availOf (s : State) (c : Nat) : Nat := kget s.avail c 4800

/-- The scale factor F over the channels with Live set and Failed clear (R118, R123); 1,024 when there is none (DESIGN CHOICE,
log entry 148). -/
def State.scaleF (s : State) : Nat :=
  let as := ((List.range 32).filter fun c => s.liveChannel c && !(s.failed.getLsbD c)).map s.availOf
  match as with
  | [] => 1024
  | a :: t => min 1024 (1024 * t.foldl min a / 4800)

/-- A partition's DRAM share in force (R117, R392). -/
def State.dramShare (s : State) (p : Nat) : Nat :=
  fld (s.dcw (0x050000 + 8 * p)) 10 0 +
    (if s.slot.holder = some p then fld (s.slotEntry s.slot.cur 0) 41 31 else 0)

/-- The guarantee-scaled event and its record (R121, R356). -/
def State.scaledEvent (s : State) (f : Nat) : State :=
  let r := s.eventRecord 0x40 (mkWord [(0, f), (32, s.hot.toNat)])
  (List.range 64).foldl (fun s p =>
    if 0 < s.dramShare p then s.postRecord (BitVec.ofNat 6 p) r else s) (s.postPf r)

/-- DRAM_WINDOW_END: the window's Avail of each channel, at least 4,080 for a channel in hot mode, and F, which changes here
only and is told when it does (R118, R120, R121). -/
def State.windowEnd (s : State) (av : List Nat) : State :=
  let put (a : KMap Nat) (x : Nat × Nat) : KMap Nat :=
    if 32 ≤ x.2 then a else kput a x.2 (max (if s.hot.getLsbD x.2 then 4080 else 0) (min x.1 4800))
  let s := { s with avail := (av.zipIdx).foldl put s.avail }
  if s.scaleF = s.factor then s else { s with factor := s.scaleF }.scaledEvent s.scaleF

/-! ### Operating points (R413 to R415, R421, R423) -/

/-- Whether a core is active (R414). -/
def Core.active (c : Core) : Bool := c.busy || !c.runq.isEmpty || c.dir.any (·.st == .held)

/-- The partition an active core's power is charged to: that of the firing it runs or has interrupted, of a held one, or of
the head of its queue (R414, R418). -/
def Core.powerPart (c : Core) : BitVec 6 :=
  let own : Option Wk := if c.run then c.curWk else c.intr.head?.bind fun i => c.wkEnt i.ent
  ((own <|> c.dir.find? (·.st == .held) <|> c.queue.head?.bind fun q => c.wkEnt q.ent).map (·.part)).getD c.part

def State.ceilOf (s : State) (p : Nat) : Nat := kget s.ceil p 0

/-- A core's request, clamped to its partition's ceiling (R414, R415). -/
def State.clampedReq (s : State) (l : Nat) : Nat :=
  let c := s.core l
  let r := if c.active then fld (s.cw l 0x800) 2 0 else 7
  if c.active then max r (s.ceilOf c.powerPart.toNat) else r

/-- The logical cores that the four physical cores of a tile serve. -/
def State.servedBy (s : State) (tile : Nat) : List Nat :=
  ((List.range 16).map (16 * clusterOf tile + ·)).filter fun l => tileOf (s.phys l) == tile

/-- The point a Grove tile should run at: the lowest-numbered of the clamped requests, no faster than shedding leaves it, or
point 1 while seized, when nothing is shed; and in either case no faster than its throttling leaves it (R415, R421, R423). -/
def State.targetPoint (s : State) (tile : Nat) : Nat :=
  if !(isGrove tile) then 1
  else
    let base := if (s.clu (clusterOf tile)).seized.isSome then 1
      else max (((s.servedBy tile).map s.clampedReq).foldl min 7) (kget s.shed tile 0)
    min 7 (max base (kget s.throt tile 0))

/-- OP_POINT_CHANGE: the tile comes to its point (R415). -/
def State.opPoint (s : State) (tile : Nat) : State :=
  if isGrove tile ∧ tile % 4 = 0 then { s with points := kput s.points tile (s.targetPoint tile) } else s

/-! ### Shares and allowances (R416 to R421) -/

def State.powerCap (s : State) : Nat :=
  let c := fld (s.dcw 0x0E0000) 9 0
  if Config.packagedChip then min c 760 else c

def State.pool (s : State) : Nat := s.powerCap - fld (s.dcw 0x0E0010) 41 32

def State.shareOf (s : State) (p : Nat) : Nat := fld (s.dcw (0x0E0100 + 8 * p)) 9 0

/-- The common factor of step 1, in 1/1,024 (R419). -/
def State.powerFactor (s : State) : Nat :=
  let sum := ((List.range 64).map s.shareOf).foldl (· + ·) 0
  if sum = 0 then 1024 else min 1024 (s.pool * 1024 / sum)

/-- The lowest-numbered point at which a partition's active tiles fit an allowance. -/
def State.fitPoint (s : State) (p allow : Nat) : Nat :=
  ((List.range 8).find? fun k => decide (Config.pointDraw s.tick p k ≤ allow)).getD 7

/-- The active Grove cores of a partition that draw on its allowance: none of a seized cluster (R417, R418). -/
def State.activeOf (s : State) (p : Nat) : List Nat :=
  (s.cores.filter fun c => isGrove c.1 && c.2.active && c.2.powerPart.toNat == p &&
    (s.clu (clusterOf c.1)).seized.isNone).map (·.1)

/-- A core's own request, before its partition's ceiling clamps it. -/
def State.reqOf (s : State) (l : Nat) : Nat := fld (s.cw l 0x800) 2 0

/-- The lowest-numbered point that an active core of a partition requests. -/
def State.wantPoint (s : State) (p : Nat) : Nat := ((s.activeOf p).map s.reqOf).foldl min 7

/-- The point a tile runs at: 7 from reset, when no core is active. -/
def State.runsAt (s : State) (tile : Nat) : Nat := kget s.points tile 7

/-- Whether a partition's requests are met: the tile of each of its active cores runs at the core's request or faster. A
request above the ceiling is not met (R419, R420). -/
def State.requestsMet (s : State) (p : Nat) : Bool :=
  (s.activeOf p).all fun l => decide (s.runsAt (tileOf (s.phys l)) ≤ s.reqOf l)

/-- Whether a core of a partition is active that was not at the last computation (R420). -/
def State.newlyActive (s : State) (p : Nat) : Bool := (s.activeOf p).any fun l => !(s.awake.contains l)

/-- A partition's allowance from a common factor, before lending: its scaled share, or its draw when that is less, its
requests are met and its demand has not risen (R419 steps 1 and 2, R420, log entry 119). -/
def State.allowOf (s : State) (f p : Nat) : Nat :=
  let scaled := s.shareOf p * f / 1024
  if kget s.draw p 0 < scaled ∧ s.requestsMet p ∧ !(s.newlyActive p) then kget s.draw p 0 else scaled

/-- What a partition lacks, with the allowance it has, to run one point faster than its ceiling. -/
def State.pointLack (s : State) (al : KMap Nat) (p : Nat) : Nat := Config.pointDraw s.tick p (s.ceilOf p - 1) - kget al p 0

/-- Deals the lending pool one point at a time, round-robin by partition number: each point costs what the partition's allowance
lacks for it (R419 step 3). -/
def State.deal (s : State) : Nat → KMap Nat → Nat → State
  | 0, _, _ => s
  | fuel + 1, al, lend =>
    let order := (List.range 64).map fun i => (s.lendLast + 1 + i) % 64
    match order.find? fun p => s.wantPoint p < s.ceilOf p && decide (s.pointLack al p ≤ lend) with
    | none => s
    | some p =>
      let d := s.pointLack al p
      { s with ceil := kput s.ceil p (s.ceilOf p - 1), lendLast := p }.deal fuel (kupd al p 0 (· + d)) (lend - d)

/-- The Grove cores that are active now. -/
def State.nowAwake (s : State) : List Nat := (s.cores.filter fun c => isGrove c.1 && c.2.active).map (·.1)

/-- ALLOWANCE_COMPUTE (R419). What shedding took off single tiles ends with it, as what was lent does (log entry 119). -/
def State.allowances (s : State) : State :=
  let f := s.powerFactor
  let s := { s with shed := [] }
  let s := s.setDcw 0x0E0010 (setFld (s.dcw 0x0E0010) 62 52 f)
  let al := (List.range 64).map fun p => (p, s.allowOf f p)
  let lend := al.foldl (fun n (x : Nat × Nat) => n + (s.shareOf x.1 * f / 1024 - x.2)) 0
  let s := { s with
    awake := s.nowAwake
    ceil := al.foldl (fun m (x : Nat × Nat) => kput m x.1 (s.fitPoint x.1 x.2)) s.ceil }
  s.deal 512 al lend

/-- No ceiling stays above what the allowance from a common factor gives: nothing is lent (R421 steps 1 and 2). -/
def State.withdraw (s : State) (f : Nat) : State :=
  { s with ceil := (List.range 64).foldl (fun m p => kput m p (max (s.ceilOf p) (s.fitPoint p (s.allowOf f p)))) s.ceil }

/-- The tile of a partition that shedding slows next: the fastest, and among equals the one that holds the highest logical id
(R421). -/
def State.shedTile (s : State) (p : Nat) : Option Nat :=
  let at_ (l : Nat) : Nat := s.targetPoint (tileOf (s.phys l))
  ((s.activeOf p).foldl (fun (b : Option Nat) l => match b with
    | none => some l
    | some x => if at_ l < at_ x ∨ (at_ l = at_ x ∧ x < l) then some l else b) none).map fun l => tileOf (s.phys l)

/-- Shedding takes one point off a tile. -/
def State.shedPoint (s : State) (tile : Nat) : State := { s with shed := kput s.shed tile (min 7 (s.targetPoint tile + 1)) }

/-- What a Grove tile's draw is charged to: equal parts per active core, to the core's partition, in twelfths of 0.25 W, so that
the parts of at most four cores are whole (R418). -/
def State.tileParts (s : State) (tile draw : Nat) : List (Nat × Nat) :=
  let ls := (s.servedBy tile).filter fun l => (s.core l).active
  ls.map fun l => ((s.core l).powerPart.toNat, 12 * draw / ls.length)

/-- Whether the draw of a target is charged to partitions: a Grove tile outside seized clusters (R417). -/
def State.sharedDraw (s : State) (k : Nat) : Bool := isGrove k && (s.clu (clusterOf k)).seized.isNone

def sumOf (xs : List Nat) : Nat := xs.foldl (· + ·) 0

/-- An estimate from the draws of the last interval, in 0.25 W, by target: a tile (its core 0), a slice (0xC00 + s), a channel
(0xD00 + c), or 0xFFF for all else (R417, R418). -/
def State.estim (s : State) (draws : List (Nat × Nat)) : Estim :=
  { time := s.time.toNat, total := sumOf (draws.map (·.2))
    unsh := sumOf ((draws.filter fun x => !(s.sharedDraw x.1)).map (·.2))
    parts := ((draws.filter fun x => s.sharedDraw x.1).flatMap fun x => s.tileParts x.1 x.2).foldl
      (fun (m : KMap Nat) x => kupd m x.1 0 (· + x.2)) [] }

/-- The estimates of the last `n` ns. -/
def State.lastEstims (s : State) (n : Nat) : List Estim := s.watts.filter fun e => decide (s.time.toNat < e.time + n)

/-- The mean of a quantity over the estimates of the last `n` ns. -/
def State.meanDraw (s : State) (n : Nat) (f : Estim → Nat) : Nat :=
  let es := s.lastEstims n
  sumOf (es.map f) / es.length

/-- An estimate is kept for 1 ms; the words that show draws give the means over the last 10 µs (R417, R418, R424). -/
def State.addEstim (s : State) (e : Estim) : State :=
  let s := { s with watts := e :: s.lastEstims 1000000 }
  let w := setFld (s.dcw 0x0E0010) 51 42 (min (s.meanDraw 10000 (·.total)) 1023)
  { s.setDcw 0x0E0010 (setFld w 41 32 (min (s.meanDraw 10000 (·.unsh)) 1023)) with
    draw := (List.range 64).map fun p => (p, s.meanDraw 10000 (fun e => kget e.parts p 0) / 12) }

/-- Whether a limit of R417 is broken: the mean over 1 ms exceeds Cap, that over 10 µs 1.1 times Cap, or the chip's own
190 W (R4). -/
def State.overDraw (s : State) : Bool :=
  let total := s.meanDraw 10000 (·.total)
  decide (s.powerCap < s.meanDraw 1000000 (·.total)) || decide (s.powerCap * 11 < total * 10) ||
    decide (760 < if Config.packagedChip then total else Config.chipDraw s.tick)

/-- One step of shedding, the first of R421 that has something left to take: lent power, then the common factor, then, over
a limit, a point of each partition's fastest tile. The next estimate says whether it sufficed. -/
def State.shedStep (s : State) (above : Bool) : State :=
  let f := fld (s.dcw 0x0E0010) 62 52
  let back := s.withdraw f
  if (List.range 64).any fun p => s.ceilOf p != back.ceilOf p then back
  else if s.powerFactor < f then
    (s.setDcw 0x0E0010 (setFld (s.dcw 0x0E0010) 62 52 s.powerFactor)).withdraw s.powerFactor
  else if above then
    (List.range 64).foldl (fun s p => match s.shedTile p with | some t => s.shedPoint t | none => s) s
  else s

/-- POWER_ESTIMATE: the draws of the last interval; over a limit, or when the pool has shrunk since the last estimate, by more
unshared draw or by a lowered Cap, the device sheds (R417, R421). -/
def State.powerEstimate (s : State) (draws : List (Nat × Nat)) : State :=
  let t := s.addEstim (s.estim draws)
  let u := { t with poolAt := t.pool }
  if t.overDraw || decide (t.pool < s.poolAt) then u.shedStep t.overDraw else u

/-- A write of the device power word that its check passed (R416, R428): leaving GroveOff zeroises Grove storage; Run starts
the exit of every retained cluster. -/
def State.setPower (s : State) (v : W64) : State :=
  let was := s.devState
  let s := s.setDcw 0x0E0000 v
  let s := if fld v 63 62 = 0 then
      { s with clusters := s.clusters.map fun c => if c.2.ret = .retained then (c.1, { c.2 with ret := .exiting }) else c }
    else s
  if was = 2 ∧ fld v 63 62 ≠ 2 then
    let grove (k : Nat) : Bool :=
      (k >>> 60 == 1 && isGrove (k >>> 48 % 4096)) || ((k >>> 60 == 3 || k >>> 60 == 4) && decide (k >>> 48 % 4096 < 0x80))
    { s with
      mem := s.mem.filter fun c => !(grove c.1)
      cores := s.cores.map fun c => if isGrove c.1 then (c.1, c.2.zeroSlots) else c
      clusters := s.clusters.map fun c => if c.1 < 0x80 then (c.1, { c.2 with acc32 := [] }) else c }
  else s

/-! ### Sensors (R422 to R424) -/

def sensorMax (v : W64) : Int :=
  ([fld v 55 48, fld v 39 32, fld v 31 24, fld v 23 16, fld v 15 8].map temp8).foldl max (-128)

def byteOf (t : Int) : Nat := (t % 256).toNat

/-- A tile's or slice's sensor word takes a sample; Max keeps the highest Now (R422). -/
def State.sample (s : State) (key : Nat) (v : W64) : State :=
  let off := if 0xC00 ≤ key then 0x500 else 0x900
  let now : Int := if 0xC00 ≤ key then temp8 (fld v 7 0) else sensorMax v
  let old := s.cw key off
  let mx := max (temp8 (fld old 63 56)) now
  let body := if 0xC00 ≤ key then 0#64 else setFld (setFld (setFld v 63 56 0) 47 40 0) 7 0 0
  s.setCw key off (setFld (setFld body 63 56 (byteOf mx)) 7 0 (byteOf now))

def State.addPower (s : State) (hi lo : Nat) : State :=
  let w := s.dcw 0x0E0010
  s.setDcw 0x0E0010 (setFld w hi lo (satAdd (fld w hi lo) 1 0xFFFF))

/-- A throttle step: a tile runs one point slower than it now should, whatever its cores request; a tile at point 7 stays there,
which is no step. Thr counts the steps taken (R423, R424). -/
def State.throttle (s : State) (tile : Nat) : State :=
  let p := s.targetPoint tile
  let t := { s with throt := kput s.throt tile (min 7 (p + 1)) }
  if p < 7 then t.addPower 15 0 else t

/-- The thermal limits acting on a sampled tile (R423). -/
def State.thermal (s : State) (tile : Nat) : State :=
  let lim := s.dcw 0x0E0008
  let now := temp8 (fld (s.cw tile 0x900) 7 0)
  let crit : Int := fld lim 31 24
  let thr : Int := fld lim 23 16
  if isGrove tile then
    let s := if thr < now then s.throttle tile else s
    if crit < now ∧ !(s.stopped.contains tile) then { s.addPower 31 16 with stopped := tile :: s.stopped }
    else if now ≤ thr then { s with stopped := s.stopped.filter (· != tile) }
    else s
  else if isClearing tile ∧ crit < now then
    (s.setDcw 0x0E0010 (setFld (s.dcw 0x0E0010) 63 63 1)).setWhy 7
  else s

/-- SENSOR_SAMPLE: the sampled words, by tile (logical id of core 0), slice (0xC00 + s) or channel (0xD00 + c). -/
def State.sensors (s : State) (temps : List (Nat × W64)) : State :=
  temps.foldl (fun s x =>
    if x.1 < 0x840 ∧ x.1 % 4 = 0 then (s.sample x.1 x.2).thermal x.1
    else if 0xC00 ≤ x.1 ∧ x.1 < 0xC40 then s.sample x.1 x.2
    else if 0xD00 ≤ x.1 ∧ x.1 < 0xD20 ∧ s.liveChannel (x.1 - 0xD00) then s.setTemp (x.1 - 0xD00) (x.2.setWidth 8)
    else s) s

/-- THROTTLE_RISE: a cooled tile rises one point, 100 µs or more after its last rise (R423); its first rise waits for none (DESIGN
CHOICE, log entry 136). -/
def State.throttleRise (s : State) (tile : Nat) : State :=
  let lim := s.dcw 0x0E0008
  let now := temp8 (fld (s.cw tile 0x900) 7 0)
  let spaced : Bool := match kfind s.rises tile with
    | some x => decide (100000 ≤ (s.time - x).toNat)
    | none => true
  if 0 < kget s.throt tile 0 ∧ now ≤ (fld lim 23 16 : Int) - fld lim 7 0 ∧ spaced then
    { s with throt := kput s.throt tile (kget s.throt tile 0 - 1), rises := kput s.rises tile s.time }
  else s

/-! ### Thermal migration (R28, R29, R425) -/

/-- The core whose physical core is coolest, the lowest physical id among equals. -/
def State.coolest (s : State) : List Nat → Option Nat
  | [] => none
  | m :: t =>
    match s.coolest t with
    | none => some m
    | some x =>
      let a := s.coreTemp (s.phys m)
      let b := s.coreTemp (s.phys x)
      if a < b ∨ (a = b ∧ s.phys m < s.phys x) then some m else some x

/-- The core M that core L, which may move since its last firing ended, exchanges with; steps of a slot edge on it run first
(R425, R426). -/
def State.moveTarget (s : State) (l : Nat) : Option Nat :=
  let lim := s.dcw 0x0E0008
  let tmig : Int := fld lim 15 8
  let hyst : Int := fld lim 7 0
  let c := s.core l
  if isGrove l && c.mayMove && !c.run && !(s.edgeBars l) && (s.clu (clusterOf l)).seized.isNone then
    s.coolest ((State.coresOf (clusterOf l)).filter fun m =>
      m != l && !(s.core m).active && !(s.retired m) && decide (s.coreTemp (s.phys m) ≤ tmig - hyst))
  else none

/-- The two entries exchange Phys in one update; what arrives for the moved core directly is held behind a forward-end
marker (R28, R29). -/
def State.migrateCore (s : State) (l m : Nat) : State :=
  let ent (k : Nat) : W64 := s.dcw (0x010000 + 4 * k)
  let pl := s.phys l
  let pm := s.phys m
  let put (s : State) (k ph : Nat) : State :=
    s.setDcw (0x010000 + 4 * k) (setFld (setFld (ent k) 11 0 ph) 23 16 (satAdd (fld (ent k) 23 16) 1 255))
  let s := put (put s l pm) m pl
  let s := [l, m].foldl (fun (s : State) k => s.updCore k fun c => { c with moved := s.time }) s
  s.sendPkt { n := 0, src := l, dst := l, part := 0#6, acc := 0, kind := .forwardEnd }

/-- Before the next firing the device may move a core whose last firing ended so that it may; when no core qualifies, or it does
not, the core fires in place (R425). -/
def State.thermalMove (s : State) (l : Nat) : State :=
  if !(s.core l).mayMove then s
  else
    let t := s.updCore l fun c => { c with mayMove := false }
    match s.moveTarget l with
    | some m => if Config.migrateNow s.tick then t.migrateCore l m else t
    | none => t

/-- CORE_RETIRE: Station firmware sets Retired (R27, R28, R443). -/
def State.retireCore (s : State) (l : Nat) : State :=
  if l < 0x840 ∧ !(s.retired l) then
    (s.setDcw (0x010000 + 4 * l) (setFld (setFld (s.dcw (0x010000 + 4 * l)) 30 30 1) 31 31 0)).setWhy
      (if s.firm.boot = 3#3 then 1 else 0)
  else s

end Sys2Proof.Machine
end

