-- ==== Sys2Proof/Machine/Mailbox.lean ====
section
/-! DEFINITION. The operations of versioned mailbox objects at the mailbox memory (R163 to R171, R174, R175). -/

namespace Sys2Proof.Machine

/-- The low word of a handle, and MPUB's status word (R163). -/
def handleWord (st : Nat) (stale : Bool) (slot ver : Nat) : W64 :=
  mkWord [(60, st), (59, b2n stale), (48, slot), (0, ver)]

/-- The class 0x5 address of byte 0 of a slot (R14, R164). -/
def payAddr (n slot : Nat) : W64 := mkWord [(60, 5), (32, n), (16, slot)]

def Obj.pinned (o : Obj) (k : Nat) : Bool := o.pins.any fun p => p.2.1 == k

/-- Version of an eligible slot: committed, not the latest, not retiring, without a pin (R161). -/
def Obj.eligVer (o : Obj) (k : Nat) : Option Nat :=
  match kfind o.slots k with
  | some (.committed v _ false) => if (o.valid && o.latest == k) || o.pinned k then none else some v
  | _ => none

/-- The slot MPUB takes: the lowest Free one, else the eligible one with the lowest version (R165). -/
def Obj.pubSlot (o : Obj) (slots : Nat) : Option Nat :=
  match (List.range slots).find? fun k => (kfind o.slots k).isNone with
  | some k => some k
  | none =>
    ((List.range slots).foldl (fun (b : Option (Nat × Nat)) k =>
      match o.eligVer k, b with
      | some v, some (w, j) => if v < w then some (v, k) else some (w, j)
      | some v, none => some (v, k)
      | none, b => b) none).map (·.2)

/-- MPUB by a party: the object, the payload address and the status word; none while it waits (R165). -/
def Obj.pub (o : Obj) (n slots : Nat) (q : MParty) : Option (Obj × W64 × W64) :=
  if o.follow then some (o, 0#64, handleWord 5 false 0 o.version)
  else
    match o.resv with
    | some (k, h) =>
      if h = q then some (o, payAddr n k, handleWord 0 false k o.version)
      else some (o, 0#64, handleWord 4 false 0 o.version)
    | none =>
      match o.pubSlot slots with
      | none => none
      | some k =>
        some ({ o with slots := kput o.slots k .reserved, resv := some (k, q) }, payAddr n k,
          handleWord 0 false k o.version)

/-- MCOMMIT by a party; none is the mailbox-state fault (R166). -/
def Obj.commit (o : Obj) (q : MParty) (now : W64) : Option Obj :=
  match o.resv with
  | none => none
  | some (k, h) =>
    if h ≠ q ∨ o.version = 2 ^ 48 - 1 then none
    else
      some { o with
        slots := kput o.slots k (.committed (o.version + 1) now false), version := o.version + 1, stamp := now
        latest := k, valid := true, resv := none }

/-- IsStale (R164): the bound is in µs, the times are exact; a stamp ahead of `now` is not stale (R10). -/
def isStale (bound : Nat) (now t : W64) : Bool := bound != 0 && decide (t.toNat + 1000 * bound < now.toNat)

/-- MREAD by a party: the object, the handle's two words, and whether a stale read counts (R167). -/
def Obj.read (o : Obj) (q : MParty) (limit bound : Nat) (now : W64) : Obj × W64 × W64 × Bool :=
  if !o.valid then (o, handleWord 1 false 0 0, 0#64, false)
  else
    let st := isStale bound now o.stamp
    if limit ≤ o.pins.length then (o, handleWord 2 st 0 o.version, o.stamp, st)
    else
      ({ o with pins := o.pins ++ [(q, o.latest, o.version)] }, handleWord 0 st o.latest o.version, o.stamp, st)

/-- A retiring slot without pins becomes Free (R161, R170). -/
def Obj.settle (o : Obj) : Obj :=
  { o with slots := o.slots.filter fun x => match x.2 with
      | .committed _ _ true => o.pinned x.1
      | _ => true }

/-- MUNPIN by a party of the slot and version of a handle; none is the mailbox-state fault (R169). -/
def Obj.unpin (o : Obj) (q : MParty) (slot ver : Nat) : Option Obj :=
  let p : MParty × Nat × Nat := (q, slot, ver)
  if o.pins.contains p then some ({ o with pins := o.pins.erase p } : Obj).settle else none

/-- MRECLAIM of versions below `v` (R170). -/
def Obj.reclaim (o : Obj) (v : Nat) : Obj :=
  ({ o with slots := o.slots.map fun x => match x.2 with
      | .committed w t r => (x.1, .committed w t (r || (decide (w < v) && !(o.valid && o.latest == x.1))))
      | .reserved => x } : Obj).settle

/-- The descriptor's state word (R159 word 2). -/
def Obj.stateWord (o : Obj) : W64 :=
  mkWord [(60, o.latest), (59, b2n o.valid), (58, b2n o.resv.isSome), (54, (o.resv.map (·.1)).getD 0),
    (53, b2n o.follow), (48, o.pins.length), (0, o.version)]

/-- The descriptor's holder word (R159 word 5). -/
def Obj.holderWord (o : Obj) : W64 :=
  match o.resv with
  | some (_, .core l) => BitVec.ofNat 64 l
  | some (_, .fn n) => mkWord [(12, 1), (0, n)]
  | none => 0#64

/-- Payload bytes of a slot as the mirror reads them (R158, R175); a word with a double-bit error reads as a free value (R157,
log entry 7). -/
def State.payload (s : State) (n k : Nat) : State × List Byte :=
  let key := clsBase 5 + objByte (s.objCfg n) k
  let size := objSize (s.objCfg n)
  if !s.upset then (s, memReadN s.mem key size)
  else
    let r := s.hwWords key ((List.range (size / 8)).map fun i => BitVec.ofNat 64 (ofBytes (memReadN s.mem (key + 8 * i) 8)))
    (r.1, (r.2.flatMap fun w => toBytes 8 w.toNat).take size)

/-- A commit of a mirrored object goes out on the spare link (R175). -/
def State.mirrorCommit (s : State) (n : Nat) : State :=
  let o := s.obj n
  if bit (s.objCfg n) 62 && s.up && !s.flw then
    match s.payload n o.latest with
    | (s, bs) => { s with spareOut := s.spareOut ++ [.commit n o.version o.stamp bs] }
  else s

/-- A reclaim goes out with the object and the version alone, and the follower reclaims by them (DESIGN CHOICE, log entry
127). -/
def State.mirrorReclaim (s : State) (n v : Nat) : State :=
  if bit (s.objCfg n) 62 && s.up && !s.flw then { s with spareOut := s.spareOut ++ [.reclaim n v] } else s

/-- R164's checks of an operation on object `n`: the address fault, then the access fault. -/
def State.objCheck (s : State) (p : BitVec 6) (mode : Mode) (n : Nat) : Option Flt :=
  if 1023 < n ∨ !(objEn (s.objCfg n)) then some (flt causeAddress)
  else if objPart (s.objCfg n) ≠ p.toNat ∧ !(modeGe mode .hypervisor) then some (flt causeAccess)
  else none

/-- Whether an issued mailbox operation of core `l` waits on its object: an MPUB for a slot, an MREADV for a version
before its deadline (R165, R168). None waits on an object that is disabled (R160). -/
def State.objWaits (s : State) (l : Nat) (a : Acc) : Bool :=
  let o := s.obj a.obj
  if !(objEn (s.objCfg a.obj)) then false
  else match a.kind with
  | .mpub => (o.pub a.obj (objSlots (s.objCfg a.obj)) (.core l)).isNone
  | .mreadv => decide (o.version < a.data.toNat) && decide (s.time.toNat < a.cmp.toNat)
  | _ => false

/-- Whether an operation waits, itself or behind an earlier one of its thread that does (R160; DESIGN CHOICE, log entry 141). -/
def State.objStuck (s : State) (l : Nat) (a : Acc) : Bool :=
  s.objWaits l a || (s.core l).acc.any fun e => decide (e.n < a.n) && e.home == .mbm && s.objWaits l e && holdsBack l e a

/-- Mailbox operations and payload accesses on an object that have been admitted and wait for nothing: those of threads, and
copies whose source lies in it; not what core `since.1` has issued from number `since.2` on (R160 step 1). -/
def State.objBusy (s : State) (since : Option (Nat × Nat)) (n : Nat) : Bool :=
  s.cores.any fun c =>
    let before (k : Nat) : Bool := match since with
      | some (l, m) => c.1 != l || decide (k < m)
      | none => true
    (c.2.acc.any fun a => a.home == .mbm && a.obj == n && a.st != .performed && before a.n && !(s.objStuck c.1 a)) ||
      c.2.rlk.any fun r => r.src && r.cls == 5 && before r.op && decide (r.lo < (n + 1) * 2 ^ 32) && decide (n * 2 ^ 32 < r.hi)

/-- En is about to fall: waiting operations end with the access fault, with each MPUB and MREADV behind one of its own thread
(DESIGN CHOICE, log entry 141); those of the host as reads that map to nothing, logged with Kind 0x05; every pin and the
reservation go (R160 steps 2 and 3). -/
def State.objOff (s : State) (n : Nat) : State :=
  let ends (l : Nat) (a : Acc) : Bool :=
    a.home == .mbm && a.obj == n && a.st != .performed && (a.kind == .mpub || a.kind == .mreadv) && s.objStuck l a
  let s := { s with cores := s.cores.map fun (c : Nat × Core) =>
    (c.1, (c.2.acc.filter (ends c.1)).foldl (fun (k : Core) (a : Acc) =>
      k.returned a.n { flt := some { code := causeAccess, word := a.word } }) c.2) }
  let (gone, stay) := s.w2wait.partition fun (x : Nat × Nat × Nat) => x.2.2 == n
  let s := gone.foldl (fun s x => ({ s with w2out := [] } : State).pfLog 5 x.1 (0x4010000 + 0x20000 * x.2.1)) { s with w2wait := stay }
  s.setObj n { s.obj n with slots := [], pins := [], resv := none }

/-- Word 4 of a descriptor: ClrPins and Cancel (R159). -/
def State.objAction (s : State) (n : Nat) (v : W64) : State :=
  let o := s.obj n
  let o := if bit v 1 then ({ o with pins := [] } : Obj).settle else o
  let o := if bit v 0 then
      match o.resv with
      | some (k, _) => { o with resv := none, slots := kdel o.slots k }
      | none => o
    else o
  s.setObj n o

end Sys2Proof.Machine
end

