-- ==== Sys2Proof/Machine/Control.lean ====
section
/-! DEFINITION. Control words: what each reads, which fields a write changes, the word's own check, and what a performed
write does (R20, R21, R362 to R364, R463, and the rule of each word). -/

namespace Sys2Proof.Machine

/-- The mask of bits `hi:lo`. -/
def bits (hi lo : Nat) : W64 := BitVec.ofNat 64 ((2 ^ (hi - lo + 1) - 1) <<< lo)

/-- Who writes a control word: the logical id counted in the error log, the mode, the control proxy of the PF, and the
writer's partition; `hi` marks a 4-byte write of a word's upper half (R21, R204, R430, R463). -/
structure Writer where
  src : Nat
  mode : Mode
  proxy : Bool := false
  part : BitVec 6 := 0#6
  hi : Bool := false

/-- The PF's control proxy (R430), and the device's own firmware, both counted as 0xFFF (R21). -/
def Writer.pf : Writer := { src := 0xFFF, mode := .hypervisor, proxy := true }
def Writer.hyp : Writer := { src := 0xFFF, mode := .hypervisor }
def Writer.stn : Writer := { src := 0xFFF, mode := .station }

/-- A field map: reserved bits, bits writable, bits writable in station mode only, bits cleared by writing 1; and
whether hypervisor-mode cores, station-mode cores and the proxy may write the word (R9). -/
structure CwMap where
  res : W64 := 0#64
  rw : W64 := 0#64
  stn : W64 := 0#64
  w1c : W64 := 0#64
  hyp : Bool := true
  sta : Bool := true
  pf : Bool := false

/-- The stored value after a write of `v` over `old` (R9). -/
def CwMap.apply (m : CwMap) (mode : Mode) (old v : W64) : W64 :=
  let k := if mode = .station then m.rw ||| m.stn else m.rw
  ((old &&& ~~~k) ||| (v &&& k)) &&& ~~~(v &&& m.w1c)

/-! ### The words of a core (R363) -/

/-- cw.wp; Slot reads its reset value 0 where no workspace lies in the place that the core last ran from (R179). -/
def Core.wpWord (c : Core) (l : Nat) : W64 :=
  if (c.wkAt c.cur).isNone then mkWord [(60, 1), (48, l)]
  else if c.cur < 16 then mkWord [(60, 1), (48, l), (9, 0xC0 + 16 * (l % 4) + c.cur)]
  else mkWord [(60, 1), (48, l), (47, 1), (45, c.cur - 16)]

/-- µs to the next slot edge; 0 outside common intervals (R364). -/
def State.slotLeft (s : State) (l : Nat) : Nat :=
  if s.isCommon l && s.slotEn then (s.edgeTime - s.time.toNat) / 1000 else 0

/-- cw.vstat: Wait shows a park that is due, too (R291). -/
def Seq.status (q : Seq) : W64 := if q.parkDue then setFld q.vstat 62 62 1 else q.vstat

/-- Control word `n` of core `l` as CWR reads it; none where no word has the number. -/
def State.cwRead (s : State) (l n : Nat) : Option W64 :=
  let c := s.core l
  if n = 0 then some (c.wpWord l)
  else if n = 1 then some (mkWord [(12, b2n (isArrayCore l && s.phys l != l)), (0, l)])
  else if n = 2 then some c.xctx
  else if n = 3 then some (s.dcw (0x040000 + 8 * c.part.toNat))
  else if n = 4 then
    some (mkWord [(9, b2n (s.clu (clusterOf l)).seized.isSome), (8, b2n (s.isCommon l)), (0, c.part.toNat)])
  else if n = 5 then some (mkWord [(32, s.slotLeft l), (0, s.slot.cur)])
  else if n = 6 then some s.time
  else if n = 7 then some (BitVec.ofNat 64 c.out)
  else if n = 8 then some (BitVec.ofNat 64 c.rlk.length)
  else if n = 9 then some c.cause
  else if n = 10 then some c.faddr
  else if n = 11 then some c.xinfo
  else if n = 12 then some c.tpc
  else if n = 13 then some c.tstat
  else if n = 14 then some c.rowprog
  else if n = 15 then some (c.fflags.setWidth 64)
  else if n = 16 then some c.evsel
  else if n = 17 then some c.wdog
  else if n = 18 then some c.seq.vpc
  else if n = 19 then some c.seq.status
  else if n = 20 then some c.cmask
  else if n = 21 then some c.cbase
  else if n = 22 then some (c.dseq.setWidth 64)
  else if n = 23 then some c.tvec
  else if 24 ≤ n ∧ n < 32 then some ((kget c.ev (n - 24) 0#32).setWidth 64)
  else if 32 ≤ n ∧ n < 48 then some (kget c.cls (n - 32) 0#64)
  else none

/-- The least mode that reads a word. -/
def cwReadMode (n : Nat) : Mode := if n = 23 then .station else .firing

/-- The least mode that writes a word; none for the words whose Write entry of R363 is a dash: every field of theirs is RO,
and a write in any mode is ignored (R9, DESIGN CHOICE, log entry 114). -/
def cwWriteMode (n : Nat) : Option Mode :=
  if n = 0 ∨ (32 ≤ n ∧ n ≤ 46) then some .partition
  else if n = 2 ∨ n = 6 ∨ n = 23 then some .station
  else if n = 17 then some .hypervisor
  else if (9 ≤ n ∧ n ≤ 16) ∨ (19 ≤ n ∧ n ≤ 21) ∨ (24 ≤ n ∧ n < 32) then some .firing
  else none

/-- The field map of a word of a core. -/
def cwMap (n : Nat) : CwMap :=
  if n = 0 then { res := bits 44 17 ||| bits 8 0, rw := bits 16 9 }
  else if n = 1 ∨ n = 7 then { res := bits 63 13 }
  else if n = 2 then { res := bits 63 16, rw := bits 15 0 }
  else if n = 3 then { res := bits 63 58 ||| bits 27 22 ||| bits 15 0 }
  else if n = 4 then { res := bits 63 10 ||| bits 7 6 }
  else if n = 5 then { res := bits 31 6 }
  else if n = 8 then { res := bits 63 8 }
  else if n = 18 then {}
  else if n = 22 then { res := bits 63 32 }
  else if n = 47 then { res := bits 55 54 ||| bits 47 17 }
  else if n = 9 then { res := bits 58 8, w1c := bits 63 63 }
  else if n = 11 then { res := bits 52 46, w1c := bits 63 63 }
  else if n = 13 then { res := bits 62 12 ||| bits 5 0, rw := bits 11 6 }
  else if n = 14 then { res := bits 62 56 ||| bits 43 6, w1c := bits 63 63 }
  else if n = 15 then { res := bits 63 5, rw := bits 4 0 }
  else if n = 16 then { res := bits 63 32, rw := bits 31 0 }
  else if n = 19 then { res := bits 59 52 ||| bits 43 5, rw := bits 4 0 }
  else if n = 20 then { res := bits 63 15, rw := bits 14 0 }
  else if n = 21 then { res := bits 8 0, rw := bits 63 9 }
  else if 24 ≤ n ∧ n < 32 then { res := bits 63 32, rw := bits 31 0 }
  else if 32 ≤ n ∧ n < 47 then
    { res := bits 55 54 ||| bits 47 17, rw := bits 63 63 ||| bits 62 62 ||| bits 61 56 ||| bits 16 0 }
  else { rw := bits 63 0 }

/-- Values that a word reserves beyond its reserved bits: event selectors above 9 (R364), reserved modes (R204). -/
def cwReserved (n : Nat) (v : W64) : Bool :=
  if n = 16 then (List.range 8).any fun i => decide (9 < fld v (4 * i + 3) (4 * i))
  else if 32 ≤ n ∧ n < 47 then decide (2 < fld v 61 59)
  else false

/-- Whether a Slot field names a slot of core `l` that holds a resident workspace of a partition (R179). -/
def Core.slotOk (c : Core) (l : Nat) (p : BitVec 6) (slot : Nat) : Bool :=
  decide (0xC0 + 16 * (l % 4) ≤ slot) && decide (slot < 0xC0 + 16 * (l % 4) + 16) &&
    (match c.wkAt (slot - (0xC0 + 16 * (l % 4))) with | some w => w.part == p | none => false)

/-- Class `k` of core `l` is bound anew: its buffer is no longer one that a save keeps shut (R406). -/
def State.openBuf (s : State) (l k : Nat) : State :=
  { s with teams := s.teams.map fun t => (t.1, { t.2 with shut := t.2.shut.filter fun b => !(b.1 == l && b.2.1 == k) }) }

/-- Stores a word of a core. -/
def State.cwStore (s : State) (l n : Nat) (v : W64) : State :=
  let up (f : Core → Core) : State := s.updCore l f
  if n = 0 then up fun c => { c with cur := fld v 16 9 - (0xC0 + 16 * (l % 4)) }
  else if n = 2 then up fun c => { c with xctx := v }
  else if n = 6 then { s with time := v }
  else if n = 9 then up fun c => { c with cause := v }
  else if n = 10 then up fun c => { c with faddr := v }
  else if n = 11 then up fun c => { c with xinfo := v }
  else if n = 12 then up fun c => { c with tpc := v, joined := none }
  else if n = 13 then up fun c => { c with tstat := v }
  else if n = 14 then up fun c => { c with rowprog := v }
  else if n = 15 then up fun c => { c with fflags := v.setWidth 5 }
  else if n = 16 then up fun c => { c with evsel := v }
  else if n = 17 then up fun c => { c with wdog := v }
  else if n = 19 then up fun c => { c with seq := { c.seq with vstat := (c.seq.vstat &&& ~~~bits 4 0) ||| (v &&& bits 4 0) } }
  else if n = 20 then (up fun c => { c with cmask := v }).reevalTile (tileOf l)
  else if n = 21 then up fun c => { c with cbase := v }
  else if n = 23 then up fun c => { c with tvec := v }
  else if 24 ≤ n ∧ n < 32 then up fun c => { c with ev := kput c.ev (n - 24) (v.setWidth 32) }
  else if 32 ≤ n ∧ n < 47 then ((up fun c => { c with cls := kput c.cls (n - 32) v }).openBuf l (n - 32)).reeval l
  else s

/-- A write of control word `n` of core `l` (R9, R362): the fault it raises instead, if any. -/
def State.cwWrite (s : State) (w : Writer) (l n : Nat) (v : W64) : State × Option Flt :=
  match cwWriteMode n with
  | none => (s, if v &&& (cwMap n).res ≠ 0#64 then some (flt causeReserved) else none)
  | some m =>
    if !(modeGe w.mode m) then (s, some (flt causePrivilege))
    else if v &&& (cwMap n).res ≠ 0#64 ∨ cwReserved n v then (s, some (flt causeReserved))
    else if n = 0 ∧ !((s.core l).slotOk l w.part (fld v 16 9)) then (s, some (flt causeAccess))
    else
      let new := (cwMap n).apply w.mode ((s.cwRead l n).getD 0#64) v
      let new := if 32 ≤ n then setFld new 53 48 w.part.toNat else new
      (s.cwStore l n new, none)

/-! ### Which offsets name a word, and its map -/

/-- `off` is one of `n` words of `size` bytes from `base`. -/
def inArr (off base size n : Nat) : Bool := decide (base ≤ off) && decide (off < base + size * n)

/-- 32-bit entries: the core table (R27) and the object maps (R173). -/
def isEntry (target off : Nat) : Bool :=
  target == 0xFFF && (inArr off 0x010000 4 0x840 || inArr off 0x080000 256 513)

/-- The map of a device-wide word (target 0xFFF). -/
def devMap (off : Nat) : Option CwMap :=
  if inArr off 0x020000 8 513 then
    some { res := bits 62 54 ||| bits 15 1, rw := bits 63 63 ||| bits 53 16 ||| bits 0 0 }
  else if inArr off 0x030000 8 64 ∨ inArr off 0x042000 8 64 then
    some { res := bits 62 48 ||| bits 15 0, rw := bits 63 63 ||| bits 47 16 }
  else if inArr off 0x040000 8 64 then
    some { res := bits 63 58 ||| bits 27 22 ||| bits 15 0, rw := bits 57 28 ||| bits 21 16 }
  else if inArr off 0x041000 8 256 then
    some { res := bits 62 26 ||| bits 15 10, rw := bits 63 63 ||| bits 25 16 ||| bits 9 0 }
  else if inArr off 0x043000 8 64 then some { res := bits 63 4, rw := bits 3 0 }
  else if inArr off 0x044000 8 128 then
    some (if off % 16 = 0 then { res := bits 62 52 ||| bits 11 0, rw := bits 63 63 ||| bits 51 12 }
      else { res := bits 62 60 ||| bits 47 17, rw := bits 63 63 ||| bits 59 48 ||| bits 16 0 })
  else if inArr off 0x045000 8 64 then some { res := bits 63 32, rw := bits 31 0 }
  else if inArr off 0x046000 8 128 ∨ inArr off 0x078040 8 4 then
    some { res := bits 62 28 ||| bits 15 12, rw := bits 63 63 ||| bits 27 16 ||| bits 11 0 }
  else if inArr off 0x047000 8 64 then some { rw := bits 63 32 }
  else if inArr off 0x048000 8 128 then some { rw := bits 63 0 }
  else if inArr off 0x048800 8 64 then some { res := bits 63 32 }
  else if inArr off 0x050000 8 64 then some { res := bits 63 11, rw := bits 10 0 }
  else if off = 0x051000 then some { res := bits 63 43 }
  else if off = 0x051008 then some { res := bits 31 28 ||| bits 19 0, stn := bits 63 32 ||| bits 27 20 }
  else if off = 0x052000 then some { rw := bits 63 32 }
  else if off = 0x052008 then some {}
  else if inArr off 0x060000 8 8192 then
    match off / 8 % 8 with
    | 0 => some { res := bits 61 54 ||| bits 27 17, rw := bits 63 62 ||| bits 53 28 ||| bits 16 0 }
    | 1 => some { res := bits 63 32, rw := bits 31 0 }
    | 4 => some { res := bits 63 2, rw := bits 1 0 }
    | 5 => some { res := bits 63 13 }
    | 6 => some { res := bits 63 0 }
    | 7 => some { res := bits 63 0 }
    | _ => some {}
  else if inArr off 0x070000 8 16 then
    some (if off = 0x070078 then { res := bits 63 2 } else { res := bits 63 2, rw := bits 1 0 })
  else if off = 0x078000 then
    some { res := bits 62 56 ||| bits 22 0, rw := bits 63 63 ||| bits 55 23 }
  else if off = 0x078008 then some { rw := bits 63 0 }
  else if off = 0x078010 then some { res := bits 31 16 ||| bits 7 6 }
  else if inArr off 0x078100 8 256 then
    match off / 8 % 4 with
    | 0 => some { res := bits 4 0, rw := bits 63 5 }
    | 1 => some { res := bits 63 28, rw := bits 27 0 }
    | _ => some { rw := bits 63 0 }
  else if inArr off 0x0B0000 16 256 ∧ off % 16 = 0 then
    some { res := bits 48 32, stn := bits 63 63 ||| bits 61 49, hyp := false }
  else if inArr off 0x0B1000 8 513 then some { res := bits 63 8 }
  else if off = 0x0C0000 then some { rw := bits 63 0 }
  else if off = 0x0C0008 then some { res := bits 63 48 ||| bits 11 0, rw := bits 47 12 }
  else if off = 0x0C0010 then some { res := bits 58 32 }
  else if off = 0x0C0018 then some { res := bits 62 60 ||| bits 31 0, rw := bits 63 63 ||| bits 59 32 }
  else if inArr off 0x0D0000 8 513 then some { res := bits 63 35, rw := bits 31 29, hyp := false, sta := false, pf := true }
  else if off = 0x0E0000 then some { res := bits 61 10, rw := bits 63 62 ||| bits 9 0, hyp := false, pf := true }
  else if off = 0x0E0008 then some { res := bits 63 40, rw := bits 39 0, hyp := false, pf := true }
  else if off = 0x0E0010 then some { rw := bits 31 0, w1c := bits 63 63, hyp := false, sta := false, pf := true }
  else if inArr off 0x0E0100 8 64 then some { res := bits 63 60 ||| bits 56 42 ||| bits 31 10, rw := bits 9 0 }
  else if inArr off 0x0E8000 8 8208 then
    some { res := bits 61 46 ||| bits 31 14, rw := bits 63 62 ||| bits 45 32 ||| bits 13 0, pf := true }
  else none

/-- The map of window words (R86). -/
def winMap : CwMap := { res := bits 61 54 ||| bits 47 24 ||| bits 15 8, rw := bits 63 62 ||| bits 53 48 ||| bits 23 16 ||| bits 7 0 }

/-- The map of a word of a core, slice, channel or cluster target, beside the words of R363. Bits 63:16 of the words of retired
ways are Res (R111; DESIGN CHOICE, log entry 146). -/
def unitMap (target off : Nat) : Option CwMap :=
  if target < 0x840 then
    if inArr off 0x1000 8 4 ∧ target % 4 = 0 then some winMap
    else if inArr off 0x4000 8 256 then some {}
    else if off = 0x800 then some { res := bits 63 3, rw := if isClearing target then 0#64 else bits 2 0 }
    else if off = 0x900 ∧ target % 4 = 0 then some { res := bits 47 40, rw := bits 63 56 }
    else none
  else if 0xC00 ≤ target ∧ target < 0xC40 then
    if inArr off 0 8 64 ∨ off = 0x208 then some { res := bits 63 16, rw := bits 15 0 }
    else if off = 0x200 then some { res := bits 63 16, stn := bits 15 0, hyp := false }
    else if inArr off 0x400 8 8 then some { res := bits 63 16 }
    else if off = 0x500 then some { res := bits 47 40, rw := bits 63 56 }
    else if inArr off 0x010000 8 256 then
      some (if off % 32 = 0 then { res := bits 63 17 } else { res := bits 63 48, rw := bits 47 0 })
    else none
  else if 0xD00 ≤ target ∧ target < 0xD20 then
    if off = 0 then some { res := bits 60 56 ||| bits 47 40, rw := bits 23 0 } else none
  else if 0xE00 ≤ target ∧ target < 0xE84 then
    if inArr off 0x2000 8 4 ∨ inArr off 0x2040 8 4 then some winMap
    else if off = 0x3000 then some { res := bits 63 8, rw := bits 7 0 }
    else if off = 0x4000 then some { res := bits 60 32, rw := bits 31 0 }
    else none
  else none

/-- The map of the 64-bit word at an offset, if one is there. -/
def ctlMap (target off : Nat) : Option CwMap := if target = 0xFFF then devMap off else unitMap target off

/-- Whether an offset lies in a Wain's accumulator storage (R81). -/
def isAccum (target off : Nat) : Bool := 0xE00 ≤ target && target < 0xE84 && 0xC00000 ≤ off && off < 0xC10000

/-- Whether an offset is one of the numbered words of a core or Station core (R362). -/
def isCw (target off : Nat) : Bool := (target < 0x840 || isStation target) && off < 8 * 48

/-! ### Reading -/

/-- The state word of a directory entry (R75). -/
def Core.dirWord (c : Core) (e : Nat) : W64 :=
  match c.wkEnt e with
  | some w =>
    mkWord [(63, 1), (62, b2n w.place.isSome), (54, w.part.toNat), (46, w.idx), (16, w.wsid.toNat), (0, w.gen.toNat)]
  | none => 0#64

/-- Ring size of a queue, from its Cfg word (R433). -/
def State.ringSize (s : State) (fn qi : Nat) : Nat := 2 ^ fld (kget s.w1 (64 * fn + 8 * qi + 1) 0#64) 3 0
def State.ringHead (s : State) (fn qi : Nat) : Nat := fld (kget s.w1 (64 * fn + 8 * qi + 4) 0#64) 15 0
def State.ringTail (s : State) (fn qi : Nat) : Nat := fld (kget s.w1 (64 * fn + 8 * qi + 3) 0#64) 15 0

/-- A hardware queue slot's word with Busy, Head and Tail (R374). -/
def State.qslotWord (s : State) (k : Nat) : W64 :=
  let w := kget s.qslots k 0#64
  if !(bit w 63) then setFld (setFld w 62 62 (b2n (s.openEntries k))) 31 0 0
  else
    let fn := fld w 61 52
    let qi := fld w 51 49
    let n := s.ringSize fn qi
    let h := s.ringHead fn qi % n
    let t := s.ringTail fn qi % n
    setFld (setFld (setFld w 62 62 (b2n (h != t || s.openEntries k))) 31 16 h) 15 0 t

/-- Dirty granules not streamed, as a migration word counts them (R410). -/
def State.migWord (s : State) (fn : Nat) : W64 :=
  let st := s.migState fn
  let n := if st = 1#3 ∨ st = 2#3 ∨ st = 3#3 then (s.dirtyGranules fn).length else 0
  mkWord [(32, st.toNat), (0, min n (2 ^ 29 - 1))]

/-- A 32-bit entry. -/
def State.entry (s : State) (off : Nat) : Nat := fld (s.dcw off) 31 0

/-- What an 8-byte read of a control word returns; 0 where no word is (R20, R463). -/
def State.ctlWord (s : State) (target off : Nat) : W64 :=
  if isCw target off then (s.cwRead target (off / 8)).getD 0#64
  else if isEntry target off then mkWord [(0, s.entry off), (32, s.entry (off + 4))]
  else if (ctlMap target off).isNone then 0#64
  else if target = 0xFFF then
    if inArr off 0x048000 8 128 then 0#64
    else if off = 0x051000 then mkWord [(32, s.factor), (0, s.hot.toNat)]
    else if inArr off 0x060000 8 8192 then
      let n := (off - 0x060000) / 64
      match off / 8 % 8 with
      | 0 => s.dcw off
      | 1 => s.dcw off
      | 2 => (s.obj n).stateWord
      | 3 => (s.obj n).stamp
      | 5 => (s.obj n).holderWord
      | _ => 0#64
    else if off = 0x078010 then
      mkWord [(32, s.slot.prd), (15, b2n s.slot.don), (14, b2n s.slot.holder.isSome), (8, s.slot.holder.getD 0),
        (0, s.slot.cur)]
    else if inArr off 0x0B0000 16 256 then s.qslotWord ((off - 0x0B0000) / 16)
    else if off = 0x0C0000 then s.pre.req
    else if off = 0x0C0008 then s.pre.area
    else if off = 0x0C0010 then s.pre.status
    else if off = 0x0C0018 then s.pre.resume
    else if inArr off 0x0D0000 8 513 then s.migWord ((off - 0x0D0000) / 8)
    else if inArr off 0x0E0100 8 64 then
      let p := (off - 0x0E0100) / 8
      mkWord [(57, s.ceilOf p), (32, min (kget s.draw p 0) 1023), (0, s.shareOf p)]
    else s.dcw off
  else if target < 0x840 ∧ inArr off 0x4000 8 256 then (s.core target).dirWord ((off - 0x4000) / 8)
  else if 0xC00 ≤ target ∧ target < 0xC40 then
    let sl := target - 0xC00
    if inArr off 0x400 8 8 then (kget s.retiredWays (sl * 8 + (off - 0x400) / 8) 0#16).setWidth 64
    else if inArr off 0x010000 32 64 ∧ off % 32 = 0 then
      BitVec.ofNat 64 (s.occ sl (BitVec.ofNat 6 ((off - 0x010000) / 32)))
    else s.cw target off
  else if 0xD00 ≤ target ∧ target < 0xD20 then
    let c := target - 0xD00
    let w := s.cw target 0
    mkWord [(63, b2n (!s.memCfg || s.liveChannel c)), (62, b2n (s.failed.getLsbD c)), (61, b2n (s.hot.getLsbD c)),
      (48, fld w 55 48), (24, s.availOf c), (0, fld w 23 0)]
  else if 0xE00 ≤ target ∧ off = 0x4000 then
    let st := match (s.clu (target - 0xE00)).ret with
      | .active => 0 | .entering => 1 | .retained => 2 | .exiting => 3 | .reinit => 4
    setFld (s.cw target off) 63 61 st
  else s.cw target off

/-- Two accumulator elements (R81). -/
def State.accumWord (s : State) (cl off : Nat) : W64 :=
  let k := (off - 0xC00000) / 4
  let c := s.clu cl
  mkWord [(0, (kget c.acc32 k 0#32).toNat), (32, (kget c.acc32 (k + 1) 0#32).toNat)]

/-- A read of `n` bytes of control space by a core (R20, R81, R463): the half of a word, and the fault a read mode
raises. -/
def State.ctlRead (s : State) (w : Writer) (target off n : Nat) : State × Except Flt W64 :=
  let o8 := off / 8 * 8
  let half (v : W64) : W64 := if n = 4 then BitVec.ofNat 64 (if off % 8 = 4 then fld v 63 32 else fld v 31 0) else v
  if isCw target o8 && !(modeGe w.mode (cwReadMode (o8 / 8))) then (s, .error (flt causePrivilege))
  else if isAccum target o8 then
    if w.mode ≠ .station then (s, .error (flt causePrivilege))
    else if (s.clu (target - 0xE00)).lease.isSome then (s.errLog 3 w.src (ctlAddr target off), .ok 0#64)
    else (s, .ok (half (s.accumWord (target - 0xE00) o8)))
  else (s, .ok (half (s.ctlWord target o8)))

/-! ### Checks of words -/

/-- Enabled intervals other than the word at `off` (R387). -/
def State.otherIvals (s : State) (off : Nat) : List W64 :=
  ((((List.range 128).map fun i => 0x046000 + 8 * i) ++ (List.range 4).map fun c => 0x078040 + 8 * c).filter (· != off)).map s.dcw

/-- Whether two spans have a member in common; an empty one has none. -/
def spansMeet (a n b m : Nat) : Bool := decide (0 < n) && decide (0 < m) && decide (a < b + m) && decide (b < a + n)

def State.ivalOk (s : State) (off : Nat) (v : W64) : Bool :=
  let base := fld v 11 0
  let len := fld v 27 16
  let common := decide (0x078040 ≤ off)
  let grove := decide (base + len ≤ 0x800)
  let clear := decide (0x800 ≤ base) && decide (base + len ≤ 0x840)
  let inside := if common then grove || clear else if off % 16 = 0 then grove else clear
  !(common && s.slotEn) &&
    (!(bit v 63) || (len != 0 && inside &&
      !((s.otherIvals off).any fun w => bit w 63 && spansMeet base len (fld w 11 0) (fld w 27 16))))

/-- A structure that windows divide: its window words, the partition limit and the granules in all (R86). -/
structure WinSet where
  words : List (Nat × W64)
  lim : Nat → Nat
  total : Nat

def State.winSet (s : State) (target off : Nat) : WinSet :=
  if target < 0x840 then
    { words := (List.range 4).map fun k => (0x1000 + 8 * k, s.cw target (0x1000 + 8 * k))
      lim := fun p => s.limOf p 21 16, total := 24 }
  else
    let cl := target - 0xE00
    let wb := decide (off < 0x2040)
    let b := (if wb then 0x2000 else 0x2040)
    { words := (List.range 4).map fun k => (b + 8 * k, s.cw target (b + 8 * k))
      lim := fun p =>
        let l := if wb then s.limOf p 35 28 else s.limOf p 43 36
        if cl < 0x80 then min l 32 else l
      total := bufSize cl wb / (if wb then 16384 else 8192) }

/-- A partition's charge in a structure (R464). -/
def State.charge (s : State) (ws : List W64) (p : Nat) : Nat :=
  ws.foldl (fun n w =>
    if bit w 63 && (if bit w 62 then s.entryGives p else fld w 53 48 == p) then n + fld w 23 16 else n) 0

/-- R86's four conditions; only the first asks whether the word sets En. -/
def State.windowOk (s : State) (target off : Nat) (v : W64) : Bool :=
  let x := s.winSet target off
  let others := (x.words.filter (·.1 != off)).map (·.2)
  let base := fld v 7 0
  let size := fld v 23 16
  !(bit v 63 && size == 0) && decide (base + size ≤ x.total) &&
    !(others.any fun w => bit w 63 && spansMeet base size (fld w 7 0) (fld w 23 16)) &&
    (List.range 64).all fun p => decide (s.charge (v :: others) p ≤ x.lim p)

/-- R84's three conditions; only the first asks whether the word sets En. -/
def State.sramOk (s : State) (off : Nat) (v : W64) : Bool :=
  let p := (off - 0x041000) / 32
  let base := fld v 9 0
  let size := fld v 25 16
  !(bit v 63 && size == 0) && decide (base + size ≤ 608) &&
    (List.range 256).all fun i =>
      let w := s.dcw (0x041000 + 8 * i)
      i / 4 == p || !(bit w 63) || !(spansMeet base size (fld w 9 0) (fld w 25 16))

def limitOk (v : W64) : Bool :=
  decide (16 ≤ fld v 57 49) && decide (fld v 57 49 ≤ 256) && decide (1 ≤ fld v 48 44) && decide (fld v 48 44 ≤ 16) &&
    decide (fld v 43 36 ≤ 64) && decide (fld v 35 28 ≤ 128) && decide (fld v 21 16 ≤ 24)

/-- Sum of all Share words, with partition `p`'s as given (R117). -/
def State.shareSum (s : State) (p share : Nat) : Nat :=
  (List.range 64).foldl (fun n q => n + (if q = p then share else fld (s.dcw (0x050000 + 8 * q)) 10 0)) 0

def State.maxDram (s : State) : Nat :=
  (List.range s.slotCount).foldl (fun m i => max m (fld (s.slotEntry i 0) 41 31)) 0

def State.dramOk (s : State) (off : Nat) (v : W64) : Bool :=
  let p := (off - 0x050000) / 8
  let sum := s.shareSum p (fld v 10 0)
  decide (fld v 10 0 ≤ 1024) && decide (sum ≤ 1024) && (!s.slotEn || decide (sum + s.maxDram ≤ 1024))

/-- Granules of an object's extent (R158). -/
def objGran (w : W64) : Nat := (objSlots w * objStride w + 4095) / 4096

def State.objOk (s : State) (off : Nat) (old v : W64) : Bool :=
  let n := (off - 0x060000) / 64
  let base := fld v 38 28
  let len := objGran v
  if objEn old && setFld v 63 63 1 != old then false
  else if !(objEn v) || objEn old then true
  else
    decide (1 ≤ objLimit v) && decide (3 ≤ objSlots v) && decide (objSlots v ≤ 16) && decide (1 ≤ objSize v) &&
      decide (objSize v ≤ 65536) && decide (base + len ≤ 2048) &&
      (List.range 1024).all fun k =>
        let w := s.objCfg k
        k == n || !(objEn w) || !(spansMeet base len (fld w 38 28) (objGran w))

/-- A Lend cluster lies wholly in Reflex's home interval, or in common intervals of a slot that Reflex owns (R391). -/
def State.lendOk (s : State) (i cl : Nat) : Bool :=
  let w := s.slotEntry i 0
  let q := fld w 10 5
  (State.coresOf cl).all (fun l => inIval (s.homeIval q 0) l) ||
    ((State.coresOf cl).all s.isCommon && bit w 62 && fld w 61 56 == q)

/-- R391's conditions for setting En with the control word `v`. -/
def State.slotTableOk (s : State) (v : W64) : Bool :=
  let n := fld v 55 49
  let period := fld v 48 35
  let guard_ := fld v 34 31
  let start (i : Nat) : Nat := fld (s.slotEntry i 0) 55 42
  let len (i : Nat) : Int := ((if n ≤ i + 1 then period else start (i + 1)) : Int) - start i
  let shares := s.shareSum 64 0
  decide (1 ≤ n) && decide (n ≤ 64) && decide (100 ≤ period) && decide (period ≤ 16000) && start 0 == 0 &&
    (List.range n).all fun i =>
      let w := s.slotEntry i 0
      let lend := (List.range 128).filter fun cl => s.lends i (fld w 10 5) cl
      bit w 63 && decide (50 ≤ len i) && decide ((guard_ : Int) + 4 < len i) && decide (fld w 41 31 + shares ≤ 1024) &&
        lend.all (s.lendOk i) && (lend.isEmpty || bit (s.homeIval (fld w 10 5) 1) 63)

def State.slotCtlOk (s : State) (old v : W64) : Bool :=
  if bit old 63 then fld v 55 35 == fld old 55 35
  else if bit v 63 then decide (1 ≤ fld v 30 23) && s.slotTableOk v
  else true

/-- A Grove team is placed until it completes; a drained or saved one stays placed (R403, R416). -/
def State.groveTeams (s : State) : Bool := s.teams.any fun t => !t.2.arr

def State.powerOk (s : State) (v : W64) : Bool :=
  decide (160 ≤ fld v 9 0) && decide (fld v 9 0 ≤ 960) && fld v 63 62 != 3 && !(fld v 63 62 == 2 && s.groveTeams)

def thermalOk (v : W64) : Bool :=
  decide (fld v 15 8 < fld v 23 16) && decide (fld v 23 16 < fld v 31 24) && decide (fld v 31 24 ≤ 125)

/-- Whether an aperture range lies below granule 9,728 and in ranges of the partition that owns context n, whatever its En
says; an enabled one names a granule (R435). -/
def State.apertureOk (s : State) (off : Nat) (v : W64) : Bool :=
  let fn := (off - 0x0E8000) / 128
  let base := fld v 13 0
  let size := fld v 45 32
  !(bit v 63 && size == 0) && decide (base + size ≤ 9728) &&
    (List.range size).all fun k => s.holdsSram (s.fnPart fn).toNat (4096 * (base + k)) 4096

def State.wayMaskOk (s : State) (target off : Nat) (v : W64) : Bool :=
  if off = 0x208 then
    let added := fld v 15 0 &&& (0xFFFF ^^^ s.slotWays (target - 0xC00))
    (List.range 64).all fun p => fld (s.cw target (8 * p)) 15 0 &&& added == 0
  else if off < 0x200 then fld v 15 0 &&& s.slotWays (target - 0xC00) == 0
  else true

/-- The word's own check; a write that fails it is not performed and is counted. -/
def State.ctlOk (s : State) (target off : Nat) (old v : W64) : Bool :=
  if target = 0xFFF then
    if inArr off 0x040000 8 64 then limitOk v
    else if inArr off 0x041000 8 256 then s.sramOk off v
    else if inArr off 0x043000 8 64 then decide (1 ≤ fld v 3 0) && decide (fld v 3 0 ≤ 8)
    else if inArr off 0x046000 8 128 ∨ inArr off 0x078040 8 4 then s.ivalOk off v
    else if inArr off 0x050000 8 64 then s.dramOk off v
    else if off = 0x051008 then !s.memCfg
    else if inArr off 0x060000 8 8192 ∧ off % 64 = 0 then s.objOk off old v
    else if off = 0x078000 then s.slotCtlOk old v
    else if inArr off 0x078100 8 256 then !s.slotEn
    else if off = 0x0C0000 then !(bit v 63 && bit s.pre.status 63)
    else if off = 0x0C0018 then !(s.resumeRefused v)
    else if off = 0x0E0000 then s.powerOk v
    else if off = 0x0E0008 then thermalOk v
    else if inArr off 0x0E0100 8 64 then decide (fld v 9 0 ≤ 960)
    else if inArr off 0x0E8000 8 8208 then s.apertureOk off v
    else true
  else if target < 0x840 then
    if inArr off 0x1000 8 4 then s.windowOk target off v else !(inArr off 0x4000 8 256)
  else if 0xC00 ≤ target ∧ target < 0xC40 then s.wayMaskOk target off v
  else if 0xE00 ≤ target ∧ target < 0xE84 then
    if off = 0x3000 then fld v 7 0 != 0
    else if off < 0x3000 then s.windowOk target off v
    else true
  else true

/-! ### What a performed write does -/

/-- A capability key's high half: the key is installed, the epoch advances, parked ids return (R34, R38). The low half stays
held, and a later write of the high half alone uses it again (DESIGN CHOICE, log entry 113). -/
def State.installKey (s : State) (p : Nat) (hi : W64) : State :=
  let k : BitVec 128 := hi ++ kget s.keyLow p 0#64
  let e := s.dcw (0x048800 + 8 * p)
  { (s.setDcw (0x048800 + 8 * p) (BitVec.ofNat 64 ((e.toNat + 1) % 2 ^ 32))) with
    keys := kput s.keys p k
    cores := s.cores.map fun (c : Nat × Core) => (c.1, c.2.unpark (BitVec.ofNat 6 p)) }

/-- A slot-way word takes effect: the lines that added and removed ways held under the old word leave, written back where
dirty, and those on their way there once filled; a miss still queued chooses under the new word (R108, R109). -/
def State.setSlotWays (s : State) (target : Nat) (v : W64) : State :=
  let sl := target - 0xC00
  let old := s.slotWays sl
  let new := fld v 15 0
  (s.setCw target 0x208 v).expelLines
    (s.linesIn (fun i => i / 1024 == sl) fun _ y => old.testBit y.w != new.testBit y.w)

/-- An object's configuration word takes effect (R159, R160, R175). A fall of En leaves Version, Valid, Latest and Stamp
readable, and a rise clears them with the slots (DESIGN CHOICE, log entry 121). -/
def State.setObjCfg (s : State) (n : Nat) (old v : W64) : State :=
  let s := if objEn v && !(objEn old) then s.setObj n {}
    else if objEn old && !(objEn v) then s.objOff n
    else s
  s.setDcw (0x060000 + 64 * n) v

/-- The slot-table control word takes effect (R389, R391). -/
def State.setSlotCtl (s : State) (old v : W64) : State :=
  let s := s.setDcw 0x078000 v
  if bit v 63 && !(bit old 63) then s.slotStartTable
  else if bit old 63 && !(bit v 63) then s.slotStopTable
  else s

/-- Performs a write that passed its checks: `v` is the value as written, `new` the value stored. -/
def State.ctlDo (s : State) (target off : Nat) (old v new : W64) : State :=
  if target = 0xFFF then
    if inArr off 0x048000 8 128 then
      let p := (off - 0x048000) / 16
      if off % 16 = 0 then { s with keyLow := kput s.keyLow p v } else s.installKey p v
    else if off = 0x051008 then { s.setDcw off new with memCfg := true }
    else if off = 0x052000 then if v = 0#64 then s.setDcw off (setFld old 63 32 0) else s
    else if off = 0x052008 then s
    else if inArr off 0x060000 8 8192 then
      let n := (off - 0x060000) / 64
      if off % 64 = 0 then s.setObjCfg n old new
      else if off % 64 = 8 then s.setDcw off new
      else if off % 64 = 32 then s.objAction n v
      else s
    else if off = 0x078000 then s.setSlotCtl old new
    else if inArr off 0x0B0000 16 256 then
      { s with qslots := kput s.qslots ((off - 0x0B0000) / 16) (setFld (setFld new 62 62 0) 31 0 0) }
    else if off = 0x0C0000 then s.preRequest v
    else if off = 0x0C0008 then { s with pre := { s.pre with area := new } }
    else if off = 0x0C0018 then s.preResume v
    else if inArr off 0x0D0000 8 513 then s.migRequest ((off - 0x0D0000) / 8) (fld v 31 29)
    else if off = 0x0E0000 then s.setPower new
    else if inArr off 0x046000 8 128 ∨ inArr off 0x078040 8 4 then s.setDcw off new
    else if off = 0x051000 ∨ off = 0x078010 ∨ off = 0x0C0010 then s
    else s.setDcw off new
  else if 0xC00 ≤ target ∧ target < 0xC40 ∧ off = 0x208 then s.setSlotWays target new
  else if 0xC00 ≤ target ∧ target < 0xC40 ∧ (inArr off 0x400 8 8 ∨ (0x010000 ≤ off ∧ off % 32 = 0)) then s
  else if 0xD00 ≤ target ∧ target < 0xD20 then s.setCw target 0 (setFld (s.cw target 0) 23 0 (fld new 23 0))
  else if 0xE00 ≤ target ∧ off = 0x4000 then s.setCw target off (setFld new 63 61 0)
  else s.setCw target off new

/-- The word that a write of `n` bytes at an offset acts on, and the value written: a 4-byte write of a 64-bit word is one
write of the whole word, whose other half leaves every field as it is (R463). -/
def State.ctlMerge (s : State) (target off n : Nat) (v : W64) : Nat × W64 :=
  if n = 8 ∨ isEntry target off then (off, v)
  else
    let o8 := off / 8 * 8
    let m := if isCw target o8 then cwMap (o8 / 8) else (ctlMap target o8).getD {}
    let keep := s.ctlWord target o8 &&& ~~~m.w1c &&& ~~~m.res
    (o8, if off % 8 = 4 then setFld keep 63 32 (fld v 31 0) else setFld keep 31 0 (fld v 31 0))

/-- The partition whose ownership a word's present value `old` gives, and the spans that touch what it gives: a window, a
locked-SRAM range, a home interval's tiles and clusters (R84, R86, R387). -/
def State.ownedBy (s : State) (target off : Nat) (old : W64) : Option (Nat × (W64 → Nat → Bool)) :=
  let win (f : W64 → Bool) (gran : Nat) : Option (Nat × (W64 → Nat → Bool)) :=
    let g (a : W64) (n : Nat) : Bool := f a && spansMeet (fld a 47 0) n (gran * fld old 7 0) (gran * fld old 23 16)
    if bit old 62 then s.slot.holder.map fun p => (p, g) else some (fld old 53 48, g)
  if !(bit old 63) then none
  else if target = 0xFFF then
    if inArr off 0x041000 8 256 then
      some ((off - 0x041000) / 32, fun a n => clsOf a == 6 &&
        spansMeet (fld a 47 0) n (65536 * fld old 9 0) (65536 * fld old 25 16))
    else if inArr off 0x046000 8 128 then
      some ((off - 0x046000) / 16, fun a _ =>
        (clsOf a == 1 && (tileCores (tileOf (fld a 59 48))).any (inIval old)) ||
          ((clsOf a == 3 || clsOf a == 4) && (clusterCores (fld a 59 48)).any (inIval old)))
    else none
  else if target < 0x840 ∧ inArr off 0x1000 8 4 then
    win (fun a => clsOf a == 1 && tileOf (fld a 59 48) == target) 4096
  else if 0xE00 ≤ target ∧ target < 0xE84 ∧ inArr off 0x2000 8 4 then
    win (fun a => clsOf a == 3 && fld a 59 48 == target - 0xE00) 16384
  else if 0xE00 ≤ target ∧ target < 0xE84 ∧ inArr off 0x2040 8 4 then
    win (fun a => clsOf a == 4 && fld a 59 48 == target - 0xE00) 8192
  else none

/-- Whether a write must wait before it is performed: an object being disabled still has operations that do not wait
(R160), or an ownership that the write ends still has admitted accesses (R41). A write that its word refuses waits for
nothing, and none waits for what waits for it: `since` is the store's core and number. -/
def State.ctlWaits (s : State) (since : Option (Nat × Nat)) (target off n : Nat) (v : W64) : Bool :=
  match s.ctlMerge target off n v with
  | (o, v) =>
    match ctlMap target o with
    | none => false
    | some m =>
      let old := s.ctlWord target o
      let new := m.apply .hypervisor old v
      if isCw target o || isEntry target o || new == old || !(s.ctlOk target o old new) then false
      else if target == 0xFFF && inArr o 0x060000 8 8192 && o % 64 == 0 then
        objEn old && !(objEn new) && s.objBusy since ((o - 0x060000) / 64)
      else
        match s.ownedBy target o old with
        | some (p, f) => s.workOn since (BitVec.ofNat 6 p) f
        | none => false

/-- Whether a writer reaches the writable bits of a word by its mode. A class 0x7 write of a word that the physical function
alone writes raises the privilege fault in every mode (DESIGN CHOICE, log entry 145). -/
def Writer.mayWrite (w : Writer) (m : CwMap) : Bool :=
  if w.proxy then m.pf else if w.mode = .station then m.sta else m.hyp && modeGe w.mode .hypervisor

/-- A write of a whole 64-bit word (R463). A hypervisor-mode write of the memory configuration word before the Station's first
changes nothing, counts nothing and is not that first write (DESIGN CHOICE, log entry 122). A proxy write that no rule
admits goes to the PF error log (R430). -/
def State.ctlWrite64 (s : State) (w : Writer) (target off : Nat) (v : W64) : State × Option Flt :=
  let addr := ctlAddr target off + (if w.hi then 4 else 0)
  if isCw target off then s.cwWrite w target (off / 8) v
  else if isAccum target off then (s.errLog 3 w.src addr, none)
  else
    match ctlMap target off with
    | none => (if w.proxy then s.pfLog 3 0 off else s.errLog 2 w.src addr, none)
    | some m =>
      if !(w.mayWrite m) then
        if w.proxy then (s.pfLog 3 0 off, none) else (s, some (fltAt causePrivilege (BitVec.ofNat 64 addr)))
      else if v &&& m.res ≠ 0#64 then
        if w.proxy then (s.pfLog 3 0 off, none) else (s, some (fltAt causeReserved (BitVec.ofNat 64 addr)))
      else if off = 0x051008 ∧ target = 0xFFF ∧ w.mode ≠ .station ∧ !s.memCfg then (s, none)
      else
        let old := s.ctlWord target off
        let new := m.apply w.mode old v
        if s.ctlOk target off old new then (s.ctlDo target off old v new, none)
        else if inArr off 0x0E8000 8 8208 && target == 0xFFF then (s.pfLog 4 0 off, none)
        else (s.errLog 1 w.src addr, none)

/-- A write of a 32-bit entry (R27, R173). -/
def State.entryWrite (s : State) (w : Writer) (off : Nat) (v : Nat) : State × Option Flt :=
  let addr := ctlAddr 0xFFF off
  let old := s.entry off
  let x := BitVec.ofNat 64 v
  if off < 0x020000 then
    if w.proxy || w.mode ≠ .station then (s, some (fltAt causePrivilege (BitVec.ofNat 64 addr)))
    else if x &&& (bits 29 24 ||| bits 15 12) ≠ 0#64 then (s, some (fltAt causeReserved (BitVec.ofNat 64 addr)))
    else if v = old then (s, none)
    else if v = old + 2 ^ 30 ∧ !(bit (BitVec.ofNat 64 old) 30) then (s.retireCore ((off - 0x010000) / 4), none)
    else (s.errLog 1 w.src addr, none)
  else if !w.proxy then (s, some (fltAt causePrivilege (BitVec.ofNat 64 addr)))
  else
    let fn := (off - 0x080000) / 256
    let cfg := s.objCfg (fld x 9 0)
    if x &&& bits 28 10 ≠ 0#64 then (s.pfLog 3 0 off, none)
    else if bit x 31 && (!(objEn cfg) || objPart cfg != (s.fnPart fn).toNat) then (s.pfLog 4 0 off, none)
    else (s.setDcw off x, none)

/-- A write of `n` bytes of control space (R463). A 4-byte write of zero to the Count half of the error log is no write of
zero to the word, whose other half keeps its fields: Count stays (R21, DESIGN CHOICE, log entry 115). -/
def State.ctlWrite (s : State) (w : Writer) (target off n : Nat) (v : W64) : State × Option Flt :=
  if isEntry target off then
    if n = 4 then s.entryWrite w off (fld v 31 0)
    else
      let (s, f) := s.entryWrite w off (fld v 31 0)
      let (s, g) := s.entryWrite w (off + 4) (fld v 63 32)
      (s, f <|> g)
  else
    match s.ctlMerge target off n v with
    | (o, x) => s.ctlWrite64 { w with hi := n == 4 && off % 8 == 4 } target o x

/-- A control word written from outside the cores: the same checks; a fault has no thread to take it and nothing is
written. -/
def State.ctlEvent (s : State) (w : Writer) (target off : Nat) (v : W64) : State :=
  if s.ctlWaits none target off 8 v then s else (s.ctlWrite w target off 8 v).1

end Sys2Proof.Machine
end

