-- ==== Sys2Proof/Machine/Access.lean ====
section
/-! DEFINITION. How an issued access is performed at its home and acknowledged (R99 to R107, R128 to R152, R164 to R170,
R308, R310). -/

namespace Sys2Proof.Machine

/-! ### The effect of an access on bytes already at its home -/

/-- An access that names storage is performed on the bytes its home holds now (R128, R149, R186). -/
def State.doBytes (s : State) (l : Nat) (a : Acc) : State :=
  let t := s.doOn (fun s => s.homeNat a.home) (fun s => s.setHome a.home) l a
  if a.kind = .load then t else t.afterWrite a.home

/-! ### Mailbox operations (R164 to R170) -/

/-- Loads of a slot issued earlier by the core, and engine commands whose source touches it, hold an MUNPIN back
(R169). -/
def State.unpinWaits (s : State) (l : Nat) (a : Acc) : Bool :=
  let c := s.core l
  let slot := fld a.data 51 48
  let pa := (payAddr a.obj slot)
  (c.acc.any fun e => e.n < a.n && e.home == .mbm && e.kind == .load && e.st != .performed &&
    e.obj == a.obj && fld e.va 19 16 == slot) ||
  c.rlk.any fun r => r.op < a.n && r.src && r.cls == 5 && decide (r.lo < fld pa 59 0 + 2 ^ 16) && decide (fld pa 59 0 < r.hi)

/-- A mailbox operation at the mailbox memory, which does not wait. -/
def State.doMailbox (s : State) (l : Nat) (a : Acc) : State :=
  let n := a.obj
  let o := s.obj n
  let cfg := s.objCfg n
  let bad (s : State) : State := s.retFlt l a { flt causeMailbox with word := a.word }
  match a.kind with
  | .mpub =>
    match o.pub n (objSlots cfg) (.core l) with
    | some (o, v, w) => (s.setObj n o).doneW l a v w
    | none => s
  | .mcommit =>
    match o.commit (.core l) s.time with
    | some o => ((s.setObj n o).mirrorCommit n).doneW l a 0#64 0#64
    | none => bad s
  | .mread =>
    let (o, v, w, st) := o.read (.core l) (objLimit cfg) (fld (s.dcw (0x060008 + 64 * n)) 31 0) s.time
    let s := s.setObj n o
    (if st then s.countEv l evStale 1 else s).retVal l a [v, w]
  | .mreadv =>
    if o.version < a.data.toNat then s.retVal l a [handleWord 3 false 0 o.version, o.stamp]
    else
      let (o, v, w, st) := o.read (.core l) (objLimit cfg) (fld (s.dcw (0x060008 + 64 * n)) 31 0) s.time
      let s := s.setObj n o
      (if st then s.countEv l evStale 1 else s).retVal l a [v, w]
  | .munpin =>
    match o.unpin (.core l) (fld a.data 51 48) (fld a.data 47 0) with
    | some o => (s.setObj n o).doneW l a 0#64 0#64
    | none => bad s
  | .mreclaim => ((s.setObj n (o.reclaim (fld a.data 47 0))).mirrorReclaim n (fld a.data 47 0)).doneW l a 0#64 0#64
  | _ => s

/-! ### Flags, queues and VSTART (R292 to R295, R137) -/

/-- The words a QPOP takes from: qv, qg, and what the engines post (R292, R330). -/
def Core.popQueue (c : Core) (q : Nat) : List W64 :=
  match q with
  | 0 => c.seq.qv
  | 1 => c.seq.qg
  | 3 => c.qms
  | 5 => c.qes
  | 6 => c.qd
  | _ => []

def Core.setQueue (c : Core) (q : Nat) (ws : List W64) : Core :=
  match q with
  | 0 => { c with seq := { c.seq with qv := ws } }
  | 1 => { c with seq := { c.seq with qg := ws } }
  | 3 => { c with qms := ws }
  | 5 => { c with qes := ws }
  | 6 => { c with qd := ws }
  | _ => c

/-- Whether the core-local operation can be performed now: room in the queue, or a word in it; a stopped sequencer takes
no word (R305). -/
def Core.localOk (c : Core) (a : Acc) : Bool :=
  match a.kind with
  | .qpop q => !(c.popQueue q).isEmpty && (a.party == .ctl || (bit c.seq.vstat 63 && c.seq.stopDue.isNone))
  | .qpush q => decide ((c.popQueue q).length < 16)
  | _ => true

/-- A flag bit of f0 to f15. -/
def setFlag (f : BitVec 16) (n : Nat) (v : Bool) : BitVec 16 :=
  if v then f ||| (1#16 <<< n) else f &&& ~~~(1#16 <<< n)

/-- A queue, flag or VSTART access is performed in its core. -/
def State.doLocal (s : State) (l : Nat) (a : Acc) : State :=
  let c := s.core l
  match a.kind with
  | .qpop q =>
    match c.popQueue q with
    | w :: t => (s.setCore l (c.setQueue q t)).retVal l a [w]
    | [] => s
  | .qpush q => (s.setCore l (c.setQueue q (c.popQueue q ++ [a.data]))).doneW l a 0#64 0#64
  | .flgset n v =>
    (s.setCore l { c with seq := { c.seq with flags := setFlag c.seq.flags n v } }).doneW l a 0#64 0#64
  | .flgtst n => s.retVal l a [BitVec.ofNat 64 (b2n (bit c.seq.flags n))]
  | .vstart => (s.setCore l { c with seq := { c.seq with startPend := false } }).doneW l a 0#64 0#64
  | _ => s

/-! ### Performing -/

/-- What class 0x7 carries beside its address: the mode it was issued in (R20). -/
def accWriter (l : Nat) (a : Acc) : Writer :=
  { src := l, mode := if a.obj = 3 then .station else if a.obj = 2 then .hypervisor else .partition, part := a.part }

/-- A load or store of control space at its unit (R20, R131, R463). -/
def State.doCtl (s : State) (l : Nat) (a : Acc) : State :=
  let target := fld a.va 59 48
  let off := fld a.va 47 0
  let tag (f : Flt) : Flt := { f with faddr := some a.va, word := a.word }
  match a.kind with
  | .load =>
    match s.ctlRead (accWriter l a) target off a.len with
    | (s, .ok v) => s.retVal l a [v]
    | (s, .error f) => s.retFlt l a (tag f)
  | .store =>
    match s.ctlWrite (accWriter l a) target off a.len a.data with
    | (s, none) => s.doneW l a 0#64 0#64
    | (s, some f) => s.retFlt l a (tag f)
  | _ => s

/-- The core in whose handler context an LM atomic runs: the named one, or the lowest live core of its tile (R17). -/
def State.handlerCore (s : State) (a : W64) : Nat :=
  let l := fld a 59 48
  if !(s.retired l) then l else ((tileCores (tileOf l)).find? fun k => !(s.retired k)).getD l

/-- The bytes an access reads from its key on: an ADDZ reads its notify word when it makes the count zero (R310). -/
def State.readSpan (s : State) (a : Acc) : Nat :=
  if a.kind = .atomic .addz ∧ atmNew .addz a.len (s.homeNat a.home a.key a.len) a.data.toNat a.cmp.toNat = some 0 then 16
  else a.len

/-- An access that reads at a home with ECC: the data-error fault with the address of the bad word, if one is met; corrected
errors count (R72, R79, R83, R157). -/
def State.eccAcc (s : State) (a : Acc) : State × Option Flt :=
  match a.kind with
  | .load | .atomic _ =>
    match s.eccSpan a.key (s.readSpan a) with
    | (s, some d) => (s, some { a.dataErr with faddr := some (eccAddr a.va d) })
    | (s, none) => (s, none)
  | _ => (s, none)

/-- The bytes that an access would write at its key, as a number; none where it writes nothing. -/
def State.newBytes (s : State) (a : Acc) : Option Nat :=
  match a.kind with
  | .store => some a.data.toNat
  | .atomic op => atmNew op a.len (s.homeNat a.home a.key a.len) a.data.toNat a.cmp.toNat
  | _ => none

/-- Whether an access would set a reserved bit of the saved status word of a resident slot (R9, R178). -/
def State.statusBad (s : State) (a : Acc) : Bool :=
  match a.home with
  | .lm _ =>
    let off := a.key % 2 ^ 48
    decide (0x18000 ≤ off) && off / 8 % 64 == 0 &&
      match s.newBytes a with
      | some v => (BitVec.ofNat 64 (v % 2 ^ (8 * a.len) * 2 ^ (8 * (off % 8))) &&& (bits 59 48 ||| bits 1 0)) != 0#64
      | none => false
  | _ => false

/-- An access to storage with ECC is performed. -/
def State.doStored (s : State) (l : Nat) (a : Acc) : State :=
  match s.eccAcc a with
  | (s, some f) => s.retFlt l a f
  | (s, none) =>
    if s.statusBad a then s.retFlt l a { fltAt causeReserved a.va with word := a.word } else s.doBytes l a

/-- Whether a vector access to a home is single-copy atomic over each aligned 64 bytes: LM, a typed buffer, the mailbox
memory (R71, R78, R157). -/
def Home.wide : Home → Bool
  | .lm _ | .wbuf _ | .abuf _ | .mbm => true
  | .mem | .sram | .ctl | .foreign | .inCore | .ws _ => false

/-- The accesses performed at one instant with `a`: a vector word's elements in one aligned 64 bytes of such a home. -/
def Core.mates (c : Core) (a : Acc) : List Acc :=
  if a.grp = 0 ∨ a.home.wide = false then [a]
  else c.acc.filter fun e => e.grp == a.grp && e.home == a.home && e.key / 64 == a.key / 64 && e.st == .issued

/-- Whether an access and its mates may be performed now, by the order of their thread. -/
def Core.matesMay (c : Core) (l : Nat) (a : Acc) : Bool :=
  if a.grp = 0 then c.mayPerform l a
  else
    let ms := (c.mates a).map (·.n)
    (c.mates a).all fun m => ({ c with acc := c.acc.filter fun e => e.n == m.n || !(ms.contains e.n) } : Core).mayPerform l m

/-- Whether an access may be performed now, beyond the order of its thread. -/
def State.accReady (s : State) (l : Nat) (a : Acc) : Bool :=
  s.homeReady a.part a.home a.key a.span && !(s.objWaits l a) && (a.home != .inCore || (s.core l).localOk a) &&
    (match a.kind with
     | .munpin => !(s.unpinWaits l a)
     | .store => a.home != .ctl || !(s.ctlWaits (some (l, a.n)) (fld a.va 59 48) (fld a.va 47 0) a.len a.data)
     | _ => true)

/-- A read takes the value of its thread's latest earlier write before that is performed (R129): the write, when every
other order allows it. -/
def Core.forwardFrom (c : Core) (l : Nat) (a : Acc) : Option Acc :=
  let earlier := c.acc.filter fun e => e.n < a.n
  let blocked := earlier.any fun e =>
    (holdsBack l e a && !(e.kind == .store && e.rel.isNone)) || c.behindRelease e a || fenced l earlier e a
  let own := earlier.filter fun e => e.kind == .store && e.st != .performed && e.party == a.party && e.overlaps a
  match own.getLast? with
  | some e => if !blocked && e.key ≤ a.key && decide (a.key + a.len ≤ e.key + e.len) then some e else none
  | none => none

/-- The bytes that a forwarding write gives a read. -/
def forwardVal (e a : Acc) : W64 := BitVec.ofNat 64 (e.data.toNat >>> (8 * (a.key - e.key)) % 2 ^ (8 * a.len))

/-- The address fault of what is performed on an object after its En has fallen, which its thread issued behind the store that
cleared it, or behind an operation that waited (R160; log entry 141). -/
def Acc.objGone (a : Acc) : Flt :=
  let f := match a.kind with
    | .load | .store | .atomic _ => fltAt causeAddress a.va
    | _ => Machine.flt causeAddress
  { f with word := a.word }

/-- Performs an access at its home (R128). -/
def State.perform (s : State) (l : Nat) (a : Acc) : State :=
  match a.home with
  | .mem => s.doMem l a
  | .ctl => s.doCtl l a
  | .lm _ =>
    match a.kind with
    | .atomic _ =>
      let h := s.handlerCore a.va
      if 16 ≤ (s.core h).hq.length then s
      else
        (s.updCore h fun c => { c with hq := c.hq ++ [{ src := l, acc := a.n, amsg := false }] }).updCore l fun c =>
          c.updAcc a.n fun x => { x with st := .marker }
    | _ => s.doStored l a
  | .mbm =>
    if !(objEn (s.objCfg a.obj)) then s.retFlt l a a.objGone
    else match a.kind with
      | .load | .store | .atomic _ => s.doStored l a
      | _ => s.doMailbox l a
  | .wbuf _ | .abuf _ | .sram => s.doStored l a
  | .inCore => s.doLocal l a
  | .foreign | .ws _ => s

/-- ACCESS_PERFORM: access `n` of core `l` is performed, or, with `fwd`, answered by forwarding (R128, R129). -/
def State.accessPerform (s : State) (l n : Nat) (fwd : Bool) : State :=
  let c := s.core l
  match c.accNo n with
  | none => s
  | some a =>
    if a.st ≠ .issued || a.arr != 0 then s
    else if fwd then
      if a.kind = .load then
        match c.forwardFrom l a with
        | some e => s.retVal l a [forwardVal e a]
        | none => s
      else s
    else if !(c.matesMay l a) then s
    else if !(s.homeLive a.home) then s.wakeHome a.home
    else if s.accReady l a then (c.mates a).foldl (fun s m => s.perform l m) s
    else s

/-- HELD_RELEASE_PERFORM: a release held at a slice has counted in (R139). -/
def State.heldRelease (s : State) (l n : Nat) : State :=
  let c := s.core l
  match c.accNo n with
  | none => s
  | some a => if a.st = .marker ∧ a.home = .mem ∧ a.arr = 0 ∧ c.mayPerform l a then s.doMem l a else s

/-- ATOMIC_HANDLER: the LM atomic at the head of a core's handler queue runs (R150). -/
def State.atomicHandler (s : State) (l : Nat) : State :=
  match (s.core l).hq with
  | h :: t =>
    if h.amsg then s
    else
      let s := s.updCore l fun c => { c with hq := t }
      match (s.core h.src).accNo h.acc with
      | some a => s.doStored h.src a
      | none => s
  | [] => s

/-! ### Foreign memory (R22, R152, R437) -/

/-- Earlier class 0x8 accesses of the core that are not performed yet. -/
def Core.foreignBefore (c : Core) (a : Acc) : Bool :=
  c.acc.any fun e => e.n < a.n && e.home == .foreign && e.st != .performed

/-- PROXY_ACCESS: the proxy core issues a class 0x8 access on its link; a write is acknowledged once it is there. -/
def State.proxyAccess (s : State) (l n : Nat) : State :=
  let c := s.core l
  match c.accNo n with
  | none => s
  | some a =>
    if a.home ≠ .foreign ∨ a.st ≠ .issued ∨ !(c.mayPerform l a) ∨ c.foreignBefore a then s
    else
      let spare := fld a.va 57 57 = 1
      let addr := fld a.va 56 0
      let dropped := s.flw && !spare
      let old := ofBytes (s.hostRead spare addr a.len)
      let put (s : State) (v : Nat) : State := if dropped then s else s.hostWrite spare addr (toBytes a.len v)
      match a.kind with
      | .load => s.retVal l a [BitVec.ofNat 64 old]
      | .store => (put s a.data.toNat).doneW l a 0#64 0#64
      | .atomic op =>
        if !((op == .swap || op == .add || op == .cas) && Config.atomicOpSupport s.tick addr) then
          s.retFlt l a { fltAt causeAccess a.va with word := a.word }
        else
          match atmNew op a.len old a.data.toNat a.cmp.toNat with
          | some v => (put s v).doneW l a (BitVec.ofNat 64 old) 0#64
          | none => s.doneW l a (BitVec.ofNat 64 old) 0#64
      | _ => s.updCore l fun c => c.dropAcc a.n

/-! ### Acknowledgement (R131, R307) -/

/-- Whether a stalled word of core `c`, its firing running, interrupted or held, waits for tag `n`. -/
def Core.waitsFor (c : Core) (n : Nat) : Bool :=
  c.wait == .sent n || c.intr.any (fun i => i.wait == .sent n) || c.dir.any fun w => w.hwait == .sent n

/-- Whether a held result waits for access `n`. -/
def Core.holdsFor (c : Core) (n : Nat) : Bool :=
  c.held.any (·.waits.contains n) || c.seq.held.any (·.waits.contains n) ||
    c.intr.any fun i => i.held.any (·.waits.contains n)

/-- ACKNOWLEDGEMENT of access `n`: it no longer counts in Out; what it returns reaches the held result or the stalled word
that waits for it, and any other fault it carries is deferred. -/
def State.acknowledge (s : State) (l n : Nat) : State :=
  let c := s.core l
  match c.accNo n with
  | none => s
  | some a =>
    if a.st ≠ .performed then s
    else
      let s := s.setCore l (c.dropAcc n)
      if c.waitsFor n then
        s.reply l n (match a.flt with | some f => .refused f | none => .got a.data a.cmp)
      else if c.holdsFor n then
        s.updCore l fun c => { c with ret := kput c.ret n { vals := [a.data, a.cmp], flt := a.flt } }
      else
        match a.flt with
        | some f => s.deferFlt l a.owner a.part f
        | none => s

end Sys2Proof.Machine
end

