-- ==== Sys2Proof/Machine/Net.lean ====
section
/-! DEFINITION. The message network: capabilities, remote register writes, placement of messages, credits, retries, and
requests between cores (R29, R36 to R38, R196, R197, R201 to R210, R322, R361). -/

namespace Sys2Proof.Machine

/-! ### SipHash-2-4 (R38; log entry 8) -/

/-- The four words of the hash's state. -/
abbrev Sip := W64 × W64 × W64 × W64

def sipRound (v : Sip) : Sip :=
  let (v0, v1, v2, v3) := v
  let v0 := v0 + v1
  let v1 := v1.rotateLeft 13 ^^^ v0
  let v0 := v0.rotateLeft 32
  let v2 := v2 + v3
  let v3 := v3.rotateLeft 16 ^^^ v2
  let v0 := v0 + v3
  let v3 := v3.rotateLeft 21 ^^^ v0
  let v2 := v2 + v1
  let v1 := v1.rotateLeft 17 ^^^ v2
  let v2 := v2.rotateLeft 32
  (v0, v1, v2, v3)

def sipWord (v : Sip) (m : W64) : Sip :=
  let v := sipRound (sipRound (v.1, v.2.1, v.2.2.1, v.2.2.2 ^^^ m))
  (v.1 ^^^ m, v.2)

/-- SipHash-2-4 of a byte string under a 128-bit key. -/
def sipHash (key : BitVec 128) (bytes : List Byte) : W64 :=
  let k0 : W64 := key.setWidth 64
  let k1 : W64 := (key >>> 64).setWidth 64
  let v : Sip := (k0 ^^^ 0x736f6d6570736575#64, k1 ^^^ 0x646f72616e646f6d#64, k0 ^^^ 0x6c7967656e657261#64,
    k1 ^^^ 0x7465646279746573#64)
  let n := bytes.length
  let full := n / 8
  let last := mkWord [(0, ofBytes (bytes.drop (8 * full))), (56, n % 256)]
  let v := ((chunksOf 8 full (bytes.take (8 * full))).map fun b => BitVec.ofNat 64 (ofBytes b)).foldl sipWord v
  let v := sipWord v last
  let v := sipRound (sipRound (sipRound (sipRound (v.1, v.2.1, v.2.2.1 ^^^ 0xff#64, v.2.2.2))))
  v.1 ^^^ v.2.1 ^^^ v.2.2.1 ^^^ v.2.2.2

/-! ### Capabilities (R36, R37, R319) -/

def capPart (c : BitVec 128) : Nat := fld c 69 64
def capCore (c : BitVec 128) : Nat := fld c 59 48
def capWsid (c : BitVec 128) : BitVec 16 := BitVec.ofNat 16 (fld c 47 32)
def capGen (c : BitVec 128) : BitVec 12 := BitVec.ofNat 12 (fld c 31 20)
def capCount (c : BitVec 128) : Nat := fld c 19 13
def capFirst (c : BitVec 128) : Nat := fld c 8 3

/-- The check code of capability bits 111:0 under a key (R38). -/
def capCode (key : BitVec 128) (c : BitVec 128) : Nat := fld (sipHash key (toBytes 14 (fld c 111 0))) 15 0

def State.keyOf (s : State) (p : Nat) : BitVec 128 := kget s.keys p 0#128
def State.epochOf (s : State) (p : Nat) : Nat := fld (s.dcw (0x048800 + 8 * p)) 31 0

/-- A capability for `count` registers from `first` of a workspace (R36, R319). -/
def State.mintCap (s : State) (p l : Nat) (w : BitVec 16) (g : BitVec 12) (count rights first : Nat) : BitVec 128 :=
  let lo := mkWord [(60, 2), (48, l), (32, w.toNat), (20, g.toNat), (13, count), (10, rights), (3, first)]
  let body : BitVec 128 := mkWord [(6, s.epochOf p), (0, p)] ++ lo
  body ||| BitVec.ofNat 128 (capCode (s.keyOf p) body <<< 112)

/-- Check 1 of R37. -/
def capShape (c : BitVec 128) : Bool :=
  fld c 63 60 == 2 && fld c 111 102 == 0 && fld c 9 9 == 0 && fld c 2 0 == 0 && decide (1 ≤ capFirst c) &&
    decide (1 ≤ capCount c) && decide (capFirst c + capCount c ≤ 64) && isArrayCore (capCore c)

/-- Check 2 of R37: the index, and the kind of write. -/
def capAllows (c : BitVec 128) (i : Nat) (rel : Bool) : Bool :=
  decide (capFirst c ≤ i) && decide (i < capFirst c + capCount c) && bit c (if rel then 11 else 10)

/-! ### Packets in flight -/

/-- The route class of a packet; device traffic is class 15 (R201). -/
def PktKind.cls : PktKind → Nat
  | .message k _ _ _ => k
  | .amsg k _ _ _ => k
  | _ => 15

/-- Whether a packet has left its sender: a release has counted in, and no retry holds it (R141, R322). -/
def State.travels (s : State) (p : Pkt) : Bool :=
  !(s.retrying p) && p.rel.all fun n => ((s.core p.src).accNo n).isNone

/-- Where a packet writes at its destination: a message in a buffer of the tile's LM, a register write in the workspace; the
others are no writes (R126). -/
def PktKind.homeKind : PktKind → Option Bool
  | .message _ _ _ _ => some false
  | .rput _ _ _ _ _ => some true
  | .amsg _ _ _ _ | .tret _ _ _ | .spawn _ _ | .fork _ _ _ | .credit _ _ _ | .forwardEnd => none

/-- Whether a packet keeps a later one of its sender and destination behind it, unless it waits to be issued again: one of its
class, and, of a program class, also while it is a release held in its core; and a later write to its home while it is held there
(R126, R141, R203, R322). -/
def State.packetBefore (s : State) (q p : Pkt) : Bool :=
  q.n < p.n && q.src == p.src && q.dst == p.dst && !(s.retrying q) &&
    ((q.kind.cls == p.kind.cls && (s.travels q || decide (q.kind.cls < 15))) ||
      (!(s.travels q) && q.kind.homeKind.isSome && q.kind.homeKind == p.kind.homeKind))

/-- Whether a packet may arrive now: those it must follow have, no forward-end marker stands before it, its destination's
cluster is not in retention, and a new holder's waits for the steps of the change (R29, R203, R394, R411). -/
def State.mayArrive (s : State) (p : Pkt) : Bool :=
  s.travels p &&
    !(s.net.any fun q => s.packetBefore q p || (q.kind == .forwardEnd && q.n < p.n && q.dst == p.dst)) &&
    s.homeLive (.ws p.dst) &&
    !(s.slot.holder == some p.part.toNat &&
      (s.slot.due.contains p.dst || (s.isCommon p.dst && !s.slot.zero.isEmpty)))

def State.dropPkt (s : State) (p : Pkt) : State := { s with net := s.net.filter (·.n != p.n) }

def State.pkt (s : State) (n : Nat) : Option Pkt := s.net.find? (·.n == n)

/-! ### Placement (R205 to R210) -/

/-- Whether a descriptor is valid: its size, its base, its end; and its own place (R204, R206). -/
def State.descOk (s : State) (tile d : Nat) : Bool :=
  let d0 := s.lm64 tile d
  let base := fld d0 16 0
  let units := fld d0 27 17
  d % 32 == 0 && decide (d + 32 ≤ 0x18000) && decide (2 ≤ units) && decide (units ≤ 1024) && base % 64 == 0 &&
    decide (base + 64 * units ≤ 0x18000)

/-- Whether the save of a team, which has begun, keeps messages out of a buffer of its (R406). -/
def State.bufClosed (s : State) (tile d : Nat) : Bool :=
  s.teams.any fun t => teamGran t.2 tile d && s.saveBegun t.1 t.2

/-- The units of the buffer that class `k` of core `l` was bound to when its team was saved, until the team is resumed or the
class is bound anew (R406; DESIGN CHOICE, log entry 139). -/
def State.shutBuf (s : State) (l k : Nat) : Option Nat :=
  s.teams.findSome? fun t => if t.2.st == .saved then (t.2.shut.find? fun b => b.1 == l && b.2.1 == k).map (·.2.2) else none

/-- 64-byte units of a message with its header. -/
def bodyUnits (body : List Byte) : Nat := (body.length + 8 + 63) / 64

/-- Where `m` units go in a buffer, and whether a skip marker comes first (R207). -/
def placeAt (units head tail used m : Nat) : Option (Nat × Bool) :=
  if head ≤ tail && used < units then
    if m ≤ units - tail then some (tail, false) else if m ≤ head then some (0, true) else none
  else if m ≤ head - tail && used < units then some (tail, false)
  else none

/-- Header word of a message or skip marker (R208). -/
def headerWord (skip : Bool) (cls sender : Nat) (part : BitVec 6) (len : Nat) : W64 :=
  mkWord [(63, b2n skip), (59, cls), (47, sender), (41, part.toNat), (0, len)]

/-- Adds to a refusal count of a descriptor (R206 word 3). -/
def State.countRefused (s : State) (tile d : Nat) : State :=
  let w := s.lm64 tile (d + 24)
  s.setLm tile (d + 24) 8 (setFld w 63 32 (satAdd (fld w 63 32) 1 (2 ^ 32 - 1))).toNat

/-- Placement in a circular buffer: 0 placed, 1 full, 2 too long (R207). -/
def State.placeBuf (s : State) (tile d cls sender : Nat) (part : BitVec 6) (body : List Byte) : State × Nat :=
  let d0 := s.lm64 tile d
  let d1 := s.lm64 tile (d + 8)
  let base := fld d0 16 0
  let units := fld d0 27 17
  let len := body.length + 8
  let m := bodyUnits body
  let used := fld d1 42 32
  let head := if used = 0 then 0 else fld d1 9 0
  let tail := if used = 0 then 0 else fld d1 25 16
  if units - 1 < m then (s.countRefused tile d, 2)
  else if s.bufClosed tile d then (s.countRefused tile d, 1)
  else
    match placeAt units head tail used m with
    | none => (s.countRefused tile d, 1)
    | some (at_, skip) =>
      let s := if skip then
          s.setLm tile (base + 64 * tail) 8 (headerWord true cls sender part (64 * (units - tail))).toNat
        else s
      let used := if skip then used + (units - tail) else used
      let s := { s with mem := memWriteN s.mem (lmKey tile (base + 64 * at_))
                          (toBytes 8 (headerWord false cls sender part len).toNat ++ body) }
      let s := s.setLm tile (d + 8) 8
        (setFld (setFld (setFld d1 9 0 head) 25 16 ((at_ + m) % units)) 42 32 (used + m)).toNat
      let d3 := s.lm64 tile (d + 24)
      let s := s.setLm tile (d + 24) 8 (setFld d3 31 0 (fld d3 31 0 + 1)).toNat
      ((s.sendCredit tile d).reevalTile tile, 0)

/-- Placement in a channel of a sequencer (R210). -/
def State.placeChan (s : State) (l k cls : Nat) (body : List Byte) : State × Nat :=
  if body.length ≠ 64 then (s, 2)
  else
    let q := kget (s.core l).seq.chans k []
    if 8 ≤ q.length then (s, 1)
    else
      (s.updCore l fun c => { c with seq := { c.seq with
        chans := kput c.seq.chans k (q ++ [(cls, BitVec.ofNat 512 (ofBytes body))]) } }, 0)

/-- The outcome of an arriving message: 0 placed, or the reason (R205). One for a buffer of a saved team finds none of it in LM
(R406). -/
def State.arriveMsg (s : State) (l cls sender : Nat) (part : BitVec 6) (body : List Byte) : State × Nat :=
  let w := kget (s.core l).cls cls 0#64
  let tile := tileOf l
  let mode := fld w 61 59
  let d := fld w 16 0
  let other := fld w 53 48 ≠ part.toNat ∧ !(bit w 62)
  if !(bit w 63) || mode == 0 then (s, 3)
  else
    match s.shutBuf l cls with
    | some units => (s, if other then 4 else if units - 1 < bodyUnits body then 2 else 1)
    | none =>
      let s := if mode = 1 ∧ d % 32 = 0 ∧ d + 32 ≤ 0x18000 then s.scrub tile d 4 else s
      if mode == 1 && !(s.descOk tile d) then (s, 3)
      else if other then (s, 4)
      else if mode = 1 then s.placeBuf tile d cls sender part body
      else s.placeChan l (fld w 58 56) cls body

/-! ### Outcomes at the sender (R322, R311) -/

/-- A refusal counts at the sender; the retry unit takes the packet for 256 ns (R205, R322). -/
def State.retryLater (s : State) (p : Pkt) : State :=
  s.updCore p.src fun c => { c with sendq := c.sendq ++ [(p.n, s.time.toNat + 256)] }

/-- What a SEND or SENDT packet's arrival comes to. -/
def State.finishMsg (s : State) (p : Pkt) (word faddr : W64) (tried : Bool) (r : Nat) : State :=
  if r = 0 then (s.dropPkt p).remoteDone p.src p.acc 0#64 none
  else
    let s := s.countEv p.src evRefusal 1
    if tried then (s.dropPkt p).remoteDone p.src p.acc (BitVec.ofNat 64 r) none
    else if r = 1 then s.retryLater p
    else
      let w := match (s.core p.src).accNo p.acc with | some a => a.word | none => 0#32
      (s.dropPkt p).remoteDone p.src p.acc 0#64 (some
        { code := causeRefused, faddr := some faddr, xinfo := some word, detail := BitVec.ofNat 64 r, word := w })

/-- MESSAGE_ARRIVAL of packet `n`: a message or an AMSG. -/
def State.messageArrival (s : State) (n : Nat) : State :=
  match s.pkt n with
  | none => s
  | some p =>
    if !(s.mayArrive p) then (if s.travels p then s.wakeHome (.ws p.dst) else s)
    else
      match p.kind with
      | .message cls word faddr tried =>
        let (s, r) := s.arriveMsg p.dst cls p.src p.part p.bytes
        s.finishMsg p word faddr tried r
      | .amsg _ ga pc arg =>
        if 16 ≤ (s.core p.dst).hq.length then (s.countEv p.src evRefusal 1).retryLater p
        else
          let e : HqEnt := { src := p.src, acc := p.acc, amsg := true, pc := pc, ga := ga, arg := arg, part := p.part }
          ((s.updCore p.dst fun c => { c with hq := c.hq ++ [e] }).dropPkt p).remoteDone p.src p.acc 0#64 none
      | _ => s

/-- SEND_RETRY: a packet that the retry unit holds is issued again, as a new packet (R203, R322). -/
def State.sendRetry (s : State) (l : Nat) : State :=
  match (s.core l).sendq.find? fun q => decide (q.2 ≤ s.time.toNat) with
  | none => s
  | some q =>
    let s := s.updCore l fun c => { c with sendq := c.sendq.erase q }
    { s with
      net := (s.net.filter (·.n != q.1)) ++ (s.net.filter (·.n == q.1)).map fun p => { p with n := s.pktNext }
      pktNext := s.pktNext + 1 }

/-- CREDIT (R209). -/
def State.creditArrival (s : State) (n : Nat) : State :=
  match s.pkt n with
  | none => s
  | some p =>
    match p.kind with
    | .credit _ port v =>
      if s.mayArrive p then ((s.dropPkt p).setLm (tileOf p.dst) port 8 v).reevalTile (tileOf p.dst)
      else s.wakeHome (.ws p.dst)
    | _ => s

/-- FORWARD_END_MARKER: traffic sent before the move has been delivered; what waits behind the marker may follow (R29). -/
def State.forwardEnd (s : State) (l : Nat) : State :=
  match s.net.find? fun p => p.kind == .forwardEnd && p.dst == l with
  | none => s
  | some p =>
    if s.net.any fun q => q.n < p.n && q.dst == l && s.travels q then s else s.dropPkt p

/-! ### Remote register writes (R37, R196, R197, R320) -/

/-- The scoreboard's answer to a remote write of a resident register: the core, or 1 not armed, 2 full (R196). -/
def Core.remoteReg (c : Core) (place i : Nat) (v : W64) : Core × Nat :=
  let k := wordKey place i
  match kfind c.sb k with
  | some .armed =>
    let c := if c.rc.any (·.key == k) then c.putWord k v else { c with rf := kput c.rf k v }
    ({ c with sb := kput c.sb k .full }, 0)
  | some .full => (c, 2)
  | none => (c, 1)

/-- The word of a resident slot that a remote write finds out of the register cache is read where it lies: the flag says
that a double-bit error was met (R72, R320). -/
def State.slotWordErr (s : State) (l place i : Nat) : State × Bool :=
  if 16 ≤ place ∨ (s.core l).rc.any (·.key == wordKey place i) then (s, false)
  else
    match s.eccWords (lmKey (tileOf l) (0x18000 + l % 4 * 0x2000 + wordKey place i * 8)) 1 with
    | (s, bad) => (s, bad.isSome)

/-- A remote write of a register in a backing record (R197): 6 is a data error. -/
def State.remoteRecord (s : State) (l : Nat) (w : Wk) (i : Nat) (v : W64) : State × Nat :=
  let a := s.backAddr w.part.toNat l w.idx
  match s.hwRead w.part 0#10 false (a + 512) 16 with
  | (s, none) => (s, 6)
  | (s, some bs) =>
    let sb := ofBytes bs
    let code := sb / 4 ^ i % 4
    if code = 1 then
      let s := s.hwWrite w.part 0#10 false (a + 8 * i) (toBytes 8 v.toNat)
      (s.hwWrite w.part 0#10 false (a + 512) (toBytes 16 (sb + 4 ^ i)), 0)
    else (s, if code = 2 then 2 else 1)

/-- Checks 3 to 8 of R37 at the target, with R320's status: 0 accepted. -/
def State.remoteWrite (s : State) (p : Pkt) (cap : BitVec 128) (i : Nat) (v : W64) : State × Nat :=
  let l := p.dst
  let cp := capPart cap
  if s.retired l then (s, 4)
  else if fld cap 101 70 ≠ s.epochOf cp ∨ fld cap 127 112 ≠ capCode (s.keyOf cp) cap then (s, 5)
  else if cp ≠ p.part.toNat ∧ !(bit cap 12) then (s, 4)
  else
    match (s.core l).wkById (capWsid cap) with
    | none => (s, 3)
    | some w =>
      if w.part.toNat ≠ cp ∨ w.gen ≠ capGen cap then (s, 3)
      else if w.allot ≤ i then (s, 1)
      else
        match w.place with
        | some pl =>
          match s.slotWordErr l pl i with
          | (s, true) => (s, 6)
          | (s, false) =>
            let (c, r) := (s.core l).remoteReg pl i v
            (s.setCore l c, r)
        | none => s.remoteRecord l w i v

/-- The fault that an RPUT's refusal carries (R320). -/
def remoteCause (r : Nat) : BitVec 8 :=
  if r = 1 then causeNotArmed else if r = 2 then causeOverwrite else if r = 3 then causeStale
  else if r = 4 then causeAccess else if r = 5 then causeBadCap else causeData

/-- The fabric address of register `i` that a capability names (R36). -/
def capAddr (c : BitVec 128) (i : Nat) : W64 := setFld (setFld (c.setWidth 64) 19 9 0) 8 3 i

/-- REMOTE_WRITE_ARRIVAL of packet `n`. -/
def State.remoteArrival (s : State) (n : Nat) : State :=
  match s.pkt n with
  | none => s
  | some p =>
    match p.kind with
    | .rput cap i v _ tried =>
      if !(s.mayArrive p) then (if s.travels p then s.wakeHome (.ws p.dst) else s)
      else
        let (s, r) := s.remoteWrite p cap i v
        let s := s.dropPkt p
        if tried then
          s.remoteDone p.src p.acc (mkWord [(0, r), (8, if r = 6 then causeData.toNat else 0)]) none
        else if r = 0 then s.remoteDone p.src p.acc 0#64 none
        else
          let w := match (s.core p.src).accNo p.acc with | some a => a.word | none => 0#32
          s.remoteDone p.src p.acc 0#64 (some
            { code := remoteCause r, faddr := some (capAddr cap i), word := w })
    | _ => s

/-! ### Requests between cores -/

/-- A request of a kind that has reached a retained cluster starts its exit (R411). -/
def State.wakeFor (s : State) (l : Nat) (q : PktKind → Bool) : State :=
  if s.net.any fun p => p.dst == l && s.travels p && q p.kind then s.wakeHome (.ws l) else s

/-- SPAWN_ALLOCATE: the first request for core `l` that has reached it (R193). -/
def State.spawnNext (s : State) (l : Nat) : State :=
  match s.net.find? fun p => p.dst == l && s.mayArrive p && (match p.kind with | .spawn _ _ => true | _ => false) with
  | some p => match p.kind with
    | .spawn w g => s.spawnArrive p w g
    | _ => s
  | none => s.wakeFor l fun k => match k with | .spawn _ _ => true | _ => false

/-- FORK_RECRUITMENT for the FORK of core `l` (R194, R324). -/
def State.forkNext (s : State) (l : Nat) : State :=
  match s.net.find? fun p => p.src == l && s.travels p && (match p.kind with | .fork _ _ _ => true | _ => false) with
  | some p => match p.kind with
    | .fork w n cell => s.forkRecruit p w n cell
    | _ => s
  | none => s

/-- A TRET request at the target core: 0 done, 1 no such held firing, 2 only abandonment is accepted (R361). -/
def State.heldRequest (s : State) (l : Nat) (handle act : W64) : State × Nat :=
  match (s.core l).dir.find? fun w =>
      w.st == .held && w.wsid == BitVec.ofNat 16 (fld handle 47 32) && w.gen == BitVec.ofNat 12 (fld handle 31 20) with
  | none => (s, 1)
  | some w =>
    let a := fld act 1 0
    if a = 2 then (s.abandon l w.ent true, 0)
    else if w.nested then (s, 2)
    else
      let g : Guard := { rem := fld act 9 6, sense := bit act 10, pred := bit act 11 }
      let pc := if a = 1 then w.hpc + 4#64 else w.hpc
      let s := s.updCore l fun c =>
        let c := c.updWk w.ent fun w =>
          { w with st := .queued, resumed := true, hpc := pc, hguard := g
                   hwait := if a = 1 then .none else w.hwait, hjoin := if a = 1 then none else w.hjoin }
        { c with runq := c.runq ++ [{ pri := w.pri, ent := w.ent, since := s.time }] }
      (s, 0)

/-- HELD_FIRING_REQUEST: the first TRET request for core `l` that has reached it. -/
def State.heldNext (s : State) (l : Nat) : State :=
  match s.net.find? fun p => p.dst == l && s.mayArrive p && (match p.kind with | .tret _ _ _ => true | _ => false) with
  | some p => match p.kind with
    | .tret h a _ =>
      let (s, r) := (s.dropPkt p).heldRequest l h a
      s.reply p.src p.acc (.got (BitVec.ofNat 64 r) 0#64)
    | _ => s
  | none => s.wakeFor l fun k => match k with | .tret _ _ _ => true | _ => false

end Sys2Proof.Machine
end

