-- ==== Sys2Proof/Machine/Host.lean ====
section
/-! DEFINITION. The host port: windows W0, W1 and W2, hardware queue slots, the spare link, firmware start and
attestation (R42, R173 to R175, R374 to R376, R429 to R443). -/

namespace Sys2Proof.Machine

/-- A host write that maps to nothing: dropped and logged (R42, R431). -/
def State.nowhereW (s : State) (fn off : Nat) : State := s.pfLog 1 fn off

/-- A host read that maps to nothing completes with Unsupported Request: no bytes come back (R42). -/
def State.nowhereR (s : State) : State := { s with w2out := [] }

/-! ### W2: locked SRAM (R42, R435, R437) -/

def State.aperture (s : State) (fn i : Nat) : W64 := s.dcw (0x0E8000 + 128 * fn + 8 * i)

/-- The aperture range that holds `n` bytes from `off`, when the partition holds them too. -/
def State.apertureOf (s : State) (fn off n : Nat) : Option W64 :=
  if 512 < fn ∨ 0x2600000 < off + n ∨ !(s.holdsSram (s.fnPart fn).toNat off n) then none
  else
    ((List.range 16).map (s.aperture fn)).find? fun w =>
      bit w 63 && decide (4096 * fld w 13 0 ≤ off) && decide (off + n ≤ 4096 * (fld w 13 0 + fld w 45 32))

def sramKey (off : Nat) : Nat := clsBase 6 + off

/-- Whether `n` bytes from `off` meet an enabled range of a function that has Mir set (R435, R437). -/
def State.mirrors (s : State) (fn off n : Nat) : Bool :=
  ((List.range 16).map (s.aperture fn)).any fun w =>
    bit w 63 && bit w 62 && decide (off < 4096 * (fld w 13 0 + fld w 45 32)) && decide (4096 * fld w 13 0 < off + n)

/-- W2_SRAM_WRITE: a primary that runs firmware also sends the write of a mirrored range over the spare link; a follower
drops it (R437). -/
def State.hostSramWrite (s : State) (fn off : Nat) (bs : List Byte) : State :=
  match s.apertureOf fn off bs.length with
  | none => s.nowhereW fn off
  | some _ =>
    if s.mirrors fn off bs.length && s.flw then s.pfLog 7 fn off
    else
      let s := { s with mem := memWriteN s.mem (sramKey off) bs }
      if s.mirrors fn off bs.length && s.up && s.firm.rdy then { s with spareOut := s.spareOut ++ [.w2 off bs] } else s

/-- W2_SRAM_READ, with the ECC of the words it reads; a double-bit error leaves the read without data (R72, R83; DESIGN
CHOICE, log entry 134). -/
def State.hostSramRead (s : State) (fn off n : Nat) : State :=
  match s.apertureOf fn off n with
  | none => s.nowhereR
  | some _ =>
    match s.eccSpan (sramKey off) n with
    | (s, some _) => s.nowhereR
    | (s, none) => { s with w2out := memReadN s.mem (sramKey off) n }

/-- MIRRORED_W2_WRITE: performed at the same offset on a follower; a promoted module discards it (R437, R438). -/
def State.mirroredWrite (s : State) (off : Nat) (bs : List Byte) : State :=
  if s.flw && decide (off + bs.length ≤ 0x2600000) then { s with mem := memWriteN s.mem (sramKey off) bs } else s

/-! ### W2: mailbox windows (R173, R174) -/

/-- W2 offset of byte `o` of window `j`. -/
def winOff (j o : Nat) : Nat := 0x4000000 + j * 0x20000 + o

/-- The object that an enabled entry of a function's map names, with the entry: its object must be enabled and of the
function's partition (R164). -/
def State.mapped (s : State) (fn j : Nat) : Option (Nat × W64) :=
  let e := s.dcw (0x080000 + 256 * fn + 4 * j)
  let n := fld e 9 0
  let cfg := s.objCfg n
  if fn ≤ 512 ∧ j < 64 ∧ bit e 31 ∧ objEn cfg ∧ objPart cfg = (s.fnPart fn).toNat then some (n, e) else none

def State.mappedPub (s : State) (fn j : Nat) : Option Nat :=
  match s.mapped fn j with
  | some (n, e) => if bit e 30 then some n else none
  | none => none

def State.mappedSub (s : State) (fn j : Nat) : Option Nat :=
  match s.mapped fn j with
  | some (n, e) => if bit e 29 then some n else none
  | none => none

/-- The slot a function has reserved. -/
def Obj.resvBy (o : Obj) (fn : Nat) : Option Nat :=
  match o.resv with
  | some (k, h) => if h = .fn fn then some k else none
  | none => none

/-- The slot and version a function has pinned. -/
def Obj.pinBy (o : Obj) (fn : Nat) : Option (Nat × Nat) := (o.pins.find? fun p => p.1 == .fn fn).map (·.2)

def mbmKey (cfg : W64) (slot off : Nat) : Nat := clsBase 5 + objByte cfg slot + off

/-- W2_PAYLOAD_WRITE; of one that crosses Size the bytes below it are stored (DESIGN CHOICE, log entry 125). -/
def State.hostPayWrite (s : State) (fn j off : Nat) (bs : List Byte) : State :=
  match s.mappedPub fn j with
  | none => s.nowhereW fn (winOff j off)
  | some n =>
    match (s.obj n).resvBy fn with
    | none => s.nowhereW fn (winOff j off)
    | some k =>
      let cfg := s.objCfg n
      let ok := bs.take (objSize cfg - off)
      let s := { s with mem := memWriteN s.mem (mbmKey cfg k off) ok }
      if ok.length = bs.length then s else s.nowhereW fn (winOff j off)

/-- W2_PAYLOAD_READ, with the ECC of the words it reads (R157; DESIGN CHOICE, log entry 134); one that crosses Size maps to
nothing as a whole (DESIGN CHOICE, log entry 125). -/
def State.hostPayRead (s : State) (fn j off n : Nat) : State :=
  match s.mappedSub fn j with
  | none => s.nowhereR
  | some o =>
    match (s.obj o).pinBy fn with
    | none => s.nowhereR
    | some (k, _) =>
      let cfg := s.objCfg o
      if objSize cfg < off + n then s.nowhereR
      else match s.eccSpan (mbmKey cfg k off) n with
        | (s, some _) => s.nowhereR
        | (s, none) => { s with w2out := memReadN s.mem (mbmKey cfg k off) n }

/-- W2_MPUB: while the operation waits the read has not completed, and the device holds it (R160, R174). A waiting one acts
on what its map entry names when it is tried again, and a VF reset drops it (DESIGN CHOICE, log entry 125). -/
def State.hostPub (s : State) (fn j : Nat) : State :=
  let wait := s.w2wait.filter fun x => !(x.1 == fn && x.2.1 == j)
  match s.mappedPub fn j with
  | none => { s with w2wait := wait }.nowhereR
  | some n =>
    match (s.obj n).pub n (objSlots (s.objCfg n)) (.fn fn) with
    | some (o, _, w) => { s.setObj n o with w2out := toBytes 8 w.toNat, w2wait := wait }
    | none => { s with w2wait := wait ++ [(fn, j, n)] }

/-- A waiting W2 MPUB that can be performed now, or whose map no longer admits it: its function and index. -/
def State.pubWaiter (s : State) : Option (Nat × Nat) :=
  (s.w2wait.find? fun (x : Nat × Nat × Nat) =>
    match s.mappedPub x.1 x.2.1 with
    | none => true
    | some n => ((s.obj n).pub n (objSlots (s.objCfg n)) (.fn x.1)).isSome).map fun x => (x.1, x.2.1)

/-- W2_MCOMMIT. -/
def State.hostCommit (s : State) (fn j : Nat) : State :=
  match s.mappedPub fn j with
  | none => s.nowhereW fn (winOff j 0x10008)
  | some n =>
    match (s.obj n).commit (.fn fn) s.time with
    | some o => (s.setObj n o).mirrorCommit n
    | none => s.pfLog 5 fn (winOff j 0x10008)

/-- W2_MREAD: the function's pin goes first. A stale read is counted nowhere: the counters of R364 are cores' (DESIGN CHOICE,
log entry 125). -/
def State.hostRead8 (s : State) (fn j : Nat) : State :=
  match s.mappedSub fn j with
  | none => s.nowhereR
  | some n =>
    let o := s.obj n
    let o := ({ o with pins := o.pins.filter fun p => p.1 != .fn fn } : Obj).settle
    let (o, v, _, _) := o.read (.fn fn) (objLimit (s.objCfg n)) (fld (s.dcw (0x060008 + 64 * n)) 31 0) s.time
    { s.setObj n o with w2out := toBytes 8 v.toNat }

/-- W2_STAMP_READ. -/
def State.hostStamp (s : State) (fn j : Nat) : State :=
  match s.mappedSub fn j with
  | none => s.nowhereR
  | some n =>
    let o := s.obj n
    let t := match o.pinBy fn with
      | some (k, _) => match kfind o.slots k with
        | some (.committed _ ts _) => ts
        | _ => 0#64
      | none => 0#64
    { s with w2out := toBytes 8 t.toNat }

/-- W2_MUNPIN. -/
def State.hostUnpin (s : State) (fn j : Nat) : State :=
  match s.mappedSub fn j with
  | none => s.nowhereW fn (winOff j 0x10020)
  | some n =>
    let o := s.obj n
    match o.pinBy fn with
    | none => s.pfLog 5 fn (winOff j 0x10020)
    | some (k, v) =>
      match o.unpin (.fn fn) k v with
      | some o => s.setObj n o
      | none => s.pfLog 5 fn (winOff j 0x10020)

/-- Whether a payload write from byte `o` has a reserved slot to go to. -/
def State.payWritable (s : State) (fn j o : Nat) : Bool :=
  match s.mappedPub fn j with
  | some n => ((s.obj n).resvBy fn).isSome && decide (o < objSize (s.objCfg n))
  | none => false

/-- Whether a payload read of `n` bytes from byte `o` has a pinned slot to come from. -/
def State.payReadable (s : State) (fn j o n : Nat) : Bool :=
  match s.mappedSub fn j with
  | some k => ((s.obj k).pinBy fn).isSome && decide (o + n ≤ objSize (s.objCfg k))
  | none => false

/-- Whether a write, or a read, of `n` bytes of W2 maps to something: a row of R174's table, at its own offset and size, that
Pub or Sub allows. -/
def State.w2Maps (s : State) (fn off n : Nat) (wr : Bool) : Bool :=
  if off < 0x4000000 then (s.apertureOf fn off n).isSome
  else
    let j := (off - 0x4000000) / 0x20000
    let o := (off - 0x4000000) % 0x20000
    let pub := (s.mappedPub fn j).isSome
    let sub := (s.mappedSub fn j).isSome
    if wr then s.payWritable fn j o || (o == 0x10008 && pub) || (o == 0x10020 && sub)
    else s.payReadable fn j o n || (n == 8 && ((o == 0x10000 && pub) || ((o == 0x10010 || o == 0x10018) && sub)))

/-- W2_UNMAPPED_ACCESS. -/
def State.hostUnmapped (s : State) (fn off n : Nat) (wr : Bool) : State :=
  if s.w2Maps fn off n wr then s else if wr then s.nowhereW fn off else s.nowhereR

/-! ### W1 and the hardware queue slots (R374 to R376, R433) -/

def w1Key (fn qi k : Nat) : Nat := 64 * fn + 8 * qi + k
def State.w1Word (s : State) (fn qi k : Nat) : W64 := kget s.w1 (w1Key fn qi k) 0#64
def State.setW1 (s : State) (fn qi k : Nat) (v : W64) : State := { s with w1 := kput s.w1 (w1Key fn qi k) v }
def State.w1En (s : State) (fn qi : Nat) : Bool := bit (s.w1Word fn qi 1) 63
def State.cqSize (s : State) (fn qi : Nat) : Nat := 2 ^ fld (s.w1Word fn qi 1) 11 8

/-- Bits of a W1 word that the host writes: RingBase, Cfg, CqBase, CqHead. -/
def w1Mask (k : Nat) : W64 :=
  if k = 0 then bits 63 6
  else if k = 1 then bits 63 63 ||| bits 11 8 ||| bits 3 0
  else if k = 2 then bits 63 4
  else if k = 6 then bits 63 0
  else 0#64

/-- W1_QUEUE_CONFIG_WRITE: word `reg` (block offset / 8) of a queue's block. Read-only words ignore it. -/
def State.w1Config (s : State) (fn qi reg : Nat) (v : W64) : State :=
  if 512 < fn ∨ 7 < qi ∨ 6 < reg then s.nowhereW fn (64 * qi + 8 * reg)
  else if reg ≤ 2 ∧ s.w1En fn qi then s
  else if w1Mask reg = 0#64 then s
  else s.setW1 fn qi reg (v &&& w1Mask reg)

/-- An 8-byte read of W1 by a function: Notify, which is write-only, reads zero, and an offset that names no word of a queue's
block maps to nothing (R9, R42, R429, R433). -/
def State.w1Read (s : State) (fn off : Nat) : Option W64 :=
  let qi := off / 64
  let reg := off % 64 / 8
  if 512 < fn ∨ 7 < qi ∨ 6 < reg ∨ off % 8 ≠ 0 then none else some (if reg = 3 then 0#64 else s.w1Word fn qi reg)

def State.slotMaps (s : State) (k fn qi : Nat) : Bool :=
  let w := kget s.qslots k 0#64
  bit w 63 && fld w 61 52 == fn && fld w 51 49 == qi

def slotMapWord (fn qi : Nat) : W64 := mkWord [(63, 1), (52, fn), (49, qi)]

/-- The slot with Busy = 0 whose last fetch is oldest, the lowest among equals. -/
def State.idleSlot (s : State) : Option Nat :=
  (List.range 256).foldl (fun (b : Option Nat) k =>
    if bit (s.qslotWord k) 62 then b
    else
      match b with
      | some j => if (kget s.qfetch k 0#64).toNat < (kget s.qfetch j 0#64).toNat then some k else b
      | none => some k) none

/-- A slot that a queue may take: the lowest with En = 0, else an idle one. -/
def State.freeSlot (s : State) : Option Nat :=
  match (List.range 256).find? fun k => !(bit (kget s.qslots k 0#64) 63) with
  | some k => some k
  | none => s.idleSlot

def State.mapSlot (s : State) (k fn qi : Nat) : State :=
  ({ s with qslots := kput s.qslots k (slotMapWord fn qi) }).signal 0

def State.pendOff (fn : Nat) : Nat := 0x0B1000 + 8 * fn

/-- W1_NOTIFY (R375, R433). A bit that was pending keeps the time it was set (R376). -/
def State.notify (s : State) (fn qi : Nat) (tail : BitVec 16) : State :=
  if 512 < fn ∨ 7 < qi then s.nowhereW fn (64 * qi + 24)
  else if !(s.w1En fn qi) || !s.firm.rdy || (kfind s.resets fn).isSome then s.pfLog 2 fn (64 * qi + 24)
  else
    let s := s.setW1 fn qi 3 (tail.setWidth 64)
    if (List.range 256).any fun k => s.slotMaps k fn qi then s.signal 0
    else
      match s.freeSlot with
      | some k => s.mapSlot k fn qi
      | none =>
        let off := State.pendOff fn
        let s := s.setDcw off (s.dcw off ||| (1#64 <<< qi))
        let told := kget s.pendAt (8 * fn + qi) (s.time.toNat, false)
        { s with pendAt := kput s.pendAt (8 * fn + qi) told }.signal 1

/-- The next function to serve: the lowest number above the last one with a bit set, wrapping round. -/
def State.nextPending (s : State) : Option Nat :=
  ((List.range 513).map fun i => (s.lastServed + 1 + i) % 513).find? fun fn => s.dcw (State.pendOff fn) != 0#64

/-- PENDING_SERVE: when a slot has become free, one pending bit is served (R376). -/
def State.pendServe (s : State) : State :=
  match s.nextPending with
  | none => s
  | some fn =>
    let off := State.pendOff fn
    match s.freeSlot, (List.range 8).find? fun i => bit (s.dcw off) i with
    | some k, some qi =>
      let s := s.setDcw off (setFld (s.dcw off) qi qi 0)
      ({ s with pendAt := kdel s.pendAt (8 * fn + qi), lastServed := fn }).mapSlot k fn qi
    | _, _ => s

/-- The same for each of `n` slots that have become free. -/
def State.pendServeN (s : State) (n : Nat) : State := (List.range n).foldl (fun s _ => s.pendServe) s

/-- Whether a pending bit has been held longer than its partition's bound (R376). -/
def State.boundPassed (s : State) (key : Nat) (since : Nat) : Bool :=
  let b := fld (s.dcw (0x045000 + 8 * (s.fnPart (key / 8)).toNat)) 31 0
  b != 0 && decide (since + 1000 * b < s.time.toNat)

/-- NOTIFY_BOUND_EXPIRY: one event for a bit, which stays set. -/
def State.notifyBound (s : State) (fn qi : Nat) : State :=
  match kfind s.pendAt (8 * fn + qi) with
  | none => s
  | some (t, told) =>
    if !told && s.boundPassed (8 * fn + qi) t then
      let r := s.eventRecord 0x42 0#64
      let s := (s.postPf r).postRecord (s.fnPart fn) r
      { s with pendAt := kput s.pendAt (8 * fn + qi) (t, true) }
    else s

/-! ### The spare link (R175, R436 to R438) -/

/-- µs since the last heartbeat; 0 on the primary (R436). -/
def State.hbAge (s : State) : Nat := if s.flw then min ((s.time - s.hbAt).toNat / 1000) (2 ^ 32 - 1) else 0

def State.spareWord (s : State) : W64 := mkWord [(63, b2n s.up), (62, b2n s.flw), (0, s.hbAge)]

/-- HEARTBEAT_SEND, every 100 µs. -/
def State.heartbeatDue (s : State) : Bool :=
  s.up && !s.flw && s.firm.rdy && decide (100000 ≤ (s.time - s.hbSent).toNat)

def State.heartbeatSend (s : State) : State :=
  if s.heartbeatDue then { s with spareOut := s.spareOut ++ [.heartbeat], hbSent := s.time } else s

def State.heartbeatArrival (s : State) : State :=
  if s.flw then { s with hbAt := s.time, hbTold := false } else s

/-- HEARTBEAT_TIMEOUT: the PF's vector, once for each time HbAge passes 3,000 µs. -/
def State.heartbeatLate (s : State) : Bool := s.flw && !s.hbTold && decide (3000 < s.hbAge)

def State.heartbeatTimeout (s : State) : State :=
  if s.heartbeatLate then ({ s with hbTold := true, msi := kupd s.msi 0 0 (· + 1) }).signal 5 else s

/-- Every object with Mirror set gets Follow as given (R175, R438). -/
def State.setFollow (s : State) (f : Bool) : State :=
  { s with objs := s.objs.map fun o => (o.1, { o.2 with follow := f && bit (s.objCfg o.1) 62 }) }

def State.enterFollow (s : State) : State :=
  { s.setFollow true with flw := true, hbAt := s.time, hbTold := false }

/-- FOLLOWER_ENTER: only while no team is placed and no object has a reservation (R436). -/
def State.followerEnter (s : State) : State :=
  if s.flw || !s.teams.isEmpty || s.objs.any fun o => o.2.resv.isSome then s.signal 6 else s.enterFollow.signal 6

/-- PROMOTE (R438). -/
def State.promote (s : State) : State :=
  if !s.flw then s.signal 6
  else
    let s := { s.setFollow false with flw := false, promoted := s.time }
    (if s.up then { s with spareOut := s.spareOut ++ [.demote s.time] } else s).signal 6

/-- DEMOTE_ARRIVAL: the later promotion stays primary; at equal times the root port does (R438). -/
def State.demoted (s : State) (at_ : W64) : State :=
  if s.flw || decide (at_.toNat < s.promoted.toNat) || (at_ == s.promoted && Config.rootPort) then s.signal 5
  else s.enterFollow.signal 5

/-- MIRROR_APPLY: a commit or reclaim of the primary (R175); discarded on a primary. A commit that finds no slot applies nothing
(DESIGN CHOICE, log entry 150). -/
def State.mirrorApply (s : State) (n : Nat) (reclaim : Bool) (ver : Nat) (stamp : W64) (bs : List Byte) : State :=
  let cfg := s.objCfg n
  let o := s.obj n
  if !s.flw || 1023 < n || !(objEn cfg && bit cfg 62) then s
  else if reclaim then s.setObj n (o.reclaim ver)
  else
    match o.pubSlot (objSlots cfg) with
    | none => s
    | some k =>
      let s := { s with mem := memWriteN s.mem (mbmKey cfg k 0) (bs.take (objSize cfg)) }
      s.setObj n { o with
        slots := kput o.slots k (.committed ver stamp false), version := ver, stamp := stamp, latest := k, valid := true }

def State.linkTrain (s : State) : State := { s with up := true }.signal 5

/-- Whether a range of a function's aperture is mirrored (R435). -/
def State.mirRange (s : State) : Bool :=
  (List.range 8208).any fun i => bit (s.dcw (0x0E8000 + 8 * i)) 63 && bit (s.dcw (0x0E8000 + 8 * i)) 62

/-- SPARE_LINK_LOSS: Why bit 6 while this module follows, or mirrors of objects or ranges are enabled (R443). -/
def State.linkLoss (s : State) : State :=
  let mir := s.mirRange || s.objs.any fun o => objEn (s.objCfg o.1) && bit (s.objCfg o.1) 62
  let s := if s.up && (s.flw || mir) then s.setWhy 6 else s
  { s with up := false }.signal 5

/-! ### Firmware images and start (R439, R440) -/

def bytesAt (bs : List Byte) (o n : Nat) : Nat := ofBytes ((bs.drop o).take n)

/-- The checks of R439 in order: the code of the first that fails, 0 when the image is accepted. -/
def imageCheck (bs : List Byte) : Nat :=
  let len := bytesAt bs 12 4
  let code := (bs.drop 256).take len
  let digest := Config.sha512 (bs.take 16 ++ code)
  if bytesAt bs 0 4 ≠ 0x57465842 then 1
  else if len % 64 ≠ 0 ∨ 2 ^ 21 - 256 < len then 2
  else if Config.sha512 ((bs.drop 144).take 32) ≠ Config.fusedKeyHash then 3
  else if bytesAt bs 16 64 ≠ digest.toNat then 4
  else if !(Config.ed25519Verify (BitVec.ofNat 256 (bytesAt bs 144 32)) digest (BitVec.ofNat 512 (bytesAt bs 80 64))) then 5
  else if bytesAt bs 8 4 < Config.fusedMinSvn then 6
  else 0

/-- An accepted image: it lies in the Station store, the Stations start at its entry, and Rdy is set (R440). -/
def State.acceptImage (s : State) (bs : List Byte) : State :=
  let len := bytesAt bs 12 4
  let s := { s with
    mem := memWriteN s.mem (stationKey 0) ((bs.drop 256).take len)
    firm := { s.firm with
      boot := 3#3, rdy := true, rej := 0#8, store := some (bs.take (256 + len))
      digest := BitVec.ofNat 512 (bytesAt bs 16 64), svnVer := mkWord [(0, bytesAt bs 8 4), (32, bytesAt bs 4 4)] } }
  (List.range 8).foldl (fun s k =>
    s.updCore (0xF00 + k) fun c => { c with mode := .station, run := true, halted := false, pc := 0#64 }) s

/-- The image in staging, as far as its header says. -/
def State.staged (s : State) : List Byte :=
  memReadN s.firm.staging 0 (256 + min (ofBytes (memReadN s.firm.staging 12 4)) (2 ^ 21 - 256))

/-- The ROM verifies the image it has: the one accepted since power-on, or the one in staging. -/
def State.verifyImage (s : State) (bs : List Byte) : State :=
  match imageCheck bs with
  | 0 => s.acceptImage bs
  | k => { s with firm := { s.firm with boot := 4#3, rej := BitVec.ofNat 8 k, store := none } }

/-- Writes to staging are taken while Boot is loading or rejected (R430, R440). -/
def State.staging (s : State) : Bool := s.firm.boot == 1#3 || s.firm.boot == 4#3

/-- BOOT_COMMAND: the staged image, from its first byte, goes to verification. -/
def State.bootCommand (s : State) (image : List Byte) : State :=
  if s.staging then
    { s with firm := { s.firm with boot := 2#3, staging := memWriteN s.firm.staging 0 image } }
  else s

/-- Whether the self-test leaves a usable Grove and Clearing set: a core of each array, a cache way and a channel at the least
(R440, log entry 133). -/
def State.usable (s : State) (live : BitVec 32) : Bool :=
  ((List.range 0x800).any fun l => !(s.retired l)) && ((List.range 0x40).any fun k => !(s.retired (0x800 + k))) &&
    ((List.range 512).any fun b => kget s.retiredWays b 0#16 != ~~~0#16) && live != 0#32 && Config.selfTestOk

/-- The ROM's first steps: self-test, memory configuration, time, and the image accepted since power-on (R440). -/
def State.romStart (s : State) : State :=
  let bad := (List.range 0x840).filter Config.selfTestBadCore
  let s := bad.foldl (fun s l => s.retireCore l) s
  let ways := (List.range 512).filter fun b => Config.selfTestBadWays b != 0#16
  let s := ways.foldl (fun s b =>
    { s with retiredWays := kupd s.retiredWays b 0#16 (· ||| Config.selfTestBadWays b) }.setWhy 2) s
  let live := Config.liveChannels &&& ~~~s.failed
  let s := if Config.liveChannels = ~~~0#32 ∧ s.failed = 0#32 then s else s.setWhy 3
  let s := { s.setDcw 0x051008 (mkWord [(32, live.toNat), (20, Config.channelCap.toNat)]) with
    memCfg := true, time := if Config.ptmLink then Config.ptmTime s.tick else s.time }
  let s := { s with ptmAt := s.time }
  if !(s.usable live) then { s with firm := { s.firm with boot := 5#3 } }
  else
    match s.firm.store with
    | some _ => { s with firm := { s.firm with boot := 2#3 } }
    | none => { s with firm := { s.firm with boot := 1#3 } }

/-- What Station 0 does in ROM while Boot is 000 or 010. -/
def State.romStep (s : State) : State :=
  if s.firm.boot = 0#3 then s.romStart
  else if s.firm.boot = 2#3 then s.verifyImage (s.firm.store.getD s.staged)
  else s

/-- DEVICE_RESET: what outlives it is the crash region, the sticky Why bits, the accepted image, retired cores, retired
cache ways and failed channels (R28, R111, R122, R440, R442, R443). -/
def State.deviceReset (s : State) : State :=
  let keep := (List.range 0x840).filter s.retired
  let r := keep.foldl (fun (r : State) l =>
    r.setDcw (0x010000 + 4 * l) (setFld (setFld (r.dcw (0x010000 + 4 * l)) 30 30 1) 31 31 0)) State.reset
  { r with
    crashes := s.crashes, crashCount := s.crashCount, why := s.why, failed := s.failed
    retiredWays := s.retiredWays
    firm := { store := s.firm.store }, mem := s.mem.filter (fun c => decide (c.1 >>> 60 = 8)), msi := s.msi
    spareOut := s.spareOut, tick := s.tick }

/-- POWER_LOSS: everything goes. -/
def State.powerLoss (s : State) : State := { State.reset with tick := s.tick }

/-! ### Attestation (R441) and status (R432, R442) -/

/-- The 160 signed bytes of a report. -/
def State.reportBody (s : State) : List Byte :=
  ((List.range 4).flatMap fun i => toBytes 8 (kget s.firm.nonce i 0#64).toNat) ++ toBytes 64 s.firm.digest.toNat ++
    toBytes 8 s.firm.svnVer.toNat ++ toBytes 8 s.time.toNat ++ toBytes 2 s.why.toNat ++ List.replicate 14 0#8 ++
    toBytes 32 Config.identityKey.toNat

/-- ATTESTATION_NONCE_WRITE: the last nonce word makes the report. -/
def State.nonceWrite (s : State) (i : Nat) (v : W64) : State :=
  if 3 < i then s
  else
    let s := { s with firm := { s.firm with nonce := kput s.firm.nonce i v } }
    if i < 3 then s
    else
      let b := s.reportBody
      let sig := Config.ed25519Sign (Config.sha512 b)
      { s with firm := { s.firm with report := b ++ toBytes 64 sig.toNat, attOk := true } }

/-- The status word of a function (R432). -/
def State.statusW0 (s : State) (fn : Nat) : W64 :=
  mkWord [(63, b2n s.firm.rdy), (62, b2n (s.why != 0#16)), (59, s.firm.boot.toNat), (58, b2n s.flw), (48, fn),
    (40, s.firm.rej.toNat), (0, s.why.toNat)]

/-- A crash record (R442). -/
def Crash.bytes (r : Crash) : List Byte :=
  let b := ([BitVec.ofNat 64 r.id, r.cause, r.tpc, r.tvec, r.time, r.svn, r.faddr, r.xinfo] ++ r.regs).flatMap fun w =>
    toBytes 8 w.toNat
  b ++ List.replicate (1024 - b.length) 0#8

/-- The crash region: Count and Next, then the ring of records (R442). -/
def State.crashRegion (s : State) : List Byte :=
  let next := s.crashCount % 63
  let old := s.crashes.drop (s.crashes.length - next)
  let new := s.crashes.take (s.crashes.length - next)
  let recs := if s.crashCount ≤ 63 then s.crashes else old ++ new
  toBytes 8 s.crashCount ++ toBytes 8 next ++ List.replicate 1008 0#8 ++ recs.flatMap Crash.bytes

/-- An 8-byte read of W0 by a function, where it is assigned to it (R430 to R432, R436, R441, R442). -/
def State.w0Read (s : State) (fn off : Nat) : Option W64 :=
  let at_ (bs : List Byte) (o : Nat) : W64 := BitVec.ofNat 64 (bytesAt bs o 8)
  if off = 0 then some (s.statusW0 fn)
  else if off = 0x18 then some s.time
  else if off = 8 then some 0#64
  else if fn ≠ 0 then none
  else if off = 0x10 then some s.pfQueue
  else if off = 0x20 then some s.spareWord
  else if off = 0x28 then some (BitVec.ofNat 64 s.migSel)
  else if off = 0x30 ∨ (0x100 ≤ off ∧ off < 0x120) then some 0#64
  else if off = 0x40 then some (mkWord [(32, s.pfCount.toNat), (24, s.pfKind.toNat), (0, s.pfFn)])
  else if off = 0x48 then some s.pfOff
  else if 0x200 ≤ off ∧ off < 0x300 then some (at_ (s.firm.report ++ toBytes 8 (b2n s.firm.attOk)) (off - 0x200))
  else if 0x10000 ≤ off ∧ off < 0x20000 then some (at_ s.crashRegion (off - 0x10000))
  else if 0x100000 ≤ off ∧ off < 0x180000 then some (s.ctlWord 0xFFF (off - 0x080000))
  else if 0x200000 ≤ off ∧ off < 0x400000 then some (BitVec.ofNat 64 (ofBytes (memReadN s.firm.staging (off - 0x200000) 8)))
  else none

/-- What the read-only I3C target reads (R444). -/
inductive I3c where
  | status
  | sensorMax (key : Nat)
  | power
  | crash (off : Nat)
  deriving DecidableEq, Repr

/-- A read of the I3C target: the status word as the physical function has it, the Max of the sensor word of a tile (its
core 0) or of a slice (0xC00 on), the power status word, or 8 bytes of the crash region (R422, R424, R432, R442, R444). -/
def State.i3cRead (s : State) : I3c → W64
  | .status => s.statusW0 0
  | .sensorMax k => BitVec.ofNat 64 (fld (s.cw k (if 0xC00 ≤ k then 0x500 else 0x900)) 63 56)
  | .power => s.ctlWord 0xFFF 0x0E0010
  | .crash off => BitVec.ofNat 64 (bytesAt s.crashRegion off 8)

/-- A reset that a function's W0 asks for (R409, R430). -/
def State.w0Reset (s : State) (fn : Nat) : State := if fn = 0 then s.deviceReset else s.vfReset fn

/-- PF_ERROR_LOG_CLEAR (R431). -/
def State.pfLogClear (s : State) : State := { s with pfCount := 0#32 }

/-- An 8-byte write of W0 by a function (R430). A word with reserved bits takes the write without them: no thread is there
to fault (R9, log entry 40). -/
def State.w0Write (s : State) (fn off : Nat) (v : W64) : State :=
  if off = 0 ∨ off = 0x18 then s
  else if off = 8 then if bit v 0 then s.w0Reset fn else s
  else if fn ≠ 0 then s.nowhereW fn off
  else if off = 0x10 then { s with pfQueue := v &&& (bits 63 63 ||| bits 51 12) }
  else if off = 0x20 then
    let s := if bit v 61 then s.promote else s
    if bit v 60 then s.followerEnter else s
  else if off = 0x28 then { s with migSel := fld v 9 0 }
  else if off = 0x30 then if bit v 0 then (s.bootCommand []).signal 6 else s
  else if off = 0x40 then if v = 0#64 then s.pfLogClear else s
  else if off = 0x48 ∨ (0x200 ≤ off ∧ off < 0x300) ∨ (0x10000 ≤ off ∧ off < 0x20000) then s
  else if 0x100 ≤ off ∧ off < 0x120 then s.nonceWrite ((off - 0x100) / 8) v
  else if off = 0x1000 then s.migWrite v
  else if 0x100000 ≤ off ∧ off < 0x180000 then s.ctlEvent Writer.pf 0xFFF (off - 0x080000) v
  else if 0x200000 ≤ off ∧ off < 0x400000 then
    if s.staging then
      { s with firm := { s.firm with staging := memWriteN s.firm.staging (off - 0x200000) (toBytes 8 v.toNat) } }
    else s
  else s.nowhereW fn off

/-- CONTROL_WORD_WRITE: by a hypervisor-mode core, a station-mode core, the control proxy, or a function through W0. -/
def State.controlWrite (s : State) (who target off : Nat) (v : W64) : State :=
  if who = 0 then s.ctlEvent Writer.hyp target off v
  else if who = 1 then s.ctlEvent Writer.stn target off v
  else if who = 2 then s.ctlEvent Writer.pf target off v
  else s.w0Write target off v

/-- Whether a PTM exchange is due: one runs every 10 ms once the ROM has aligned cw.time, on a link that has PTM (R434). -/
def State.ptmDue (s : State) : Bool :=
  s.firm.boot != 0#3 && decide (10000000 ≤ (s.time - s.ptmAt).toNat) && Config.ptmLink

/-- PTM_EXCHANGE: host time is compared with cw.time, and the offset is slewed away from then on (R434). -/
def State.ptm (s : State) (host : W64) : State :=
  if s.ptmDue then { s with ptmOff := (host.toNat : Int) - s.time.toNat, ptmAt := s.time } else s

/-- Host time at an exchange: within 200 ns of cw.time (R434). -/
def State.ptmHost (s : State) : W64 :=
  BitVec.ofNat 64 ((s.time.toNat : Int) + max (-200) (min 200 (Config.ptmDrift s.tick))).toNat

/-- What passes on cw.time in a step: the elapsed time, corrected by at most 50 ppm of it; what is less than a whole ns is
carried to the next step (R434). -/
def State.slew (s : State) (e : Nat) : State :=
  let r := s.slewRem + e
  let lim : Int := r / 20000
  let k : Int := max (-lim) (min lim s.ptmOff)
  { s with
    time := BitVec.ofNat 64 (s.time.toNat + ((e : Int) + k).toNat), ptmOff := s.ptmOff - k, slewRem := r % 20000 }

end Sys2Proof.Machine
end

