-- ==== Sys2Proof/Machine/Integer.lean ====
section
/-! DEFINITION. Integer instructions, bit operations, guards, branches and jumps (chapter 11, R219). -/

namespace Sys2Proof.Machine

/-! ### Shared shapes -/

/-- `gD := f gA gB` (R255). -/
def int2 (m : Bool) (b a d : R6) (f : W64 → W64 → W64) (s : State) : Host.Outcome State Fault Refusal :=
  issue { names := [d, a, b], reads := [a, b] } m s (writes d fun s l => f (s.reg l a) (s.reg l b))

/-- `gD := f gA` (R255, R257, R258). -/
def int1 (m : Bool) (a d : R6) (f : W64 → W64) (s : State) : Host.Outcome State Fault Refusal :=
  issue { names := [d, a], reads := [a] } m s (writes d fun s l => f (s.reg l a))

/-- `gD := f gD gA`, which reads its destination (R254). -/
def intD (m : Bool) (a d : R6) (f : W64 → W64 → W64) (s : State) : Host.Outcome State Fault Refusal :=
  issue { names := [d, a], reads := [d, a] } m s (writes d fun s l => f (s.reg l d) (s.reg l a))

/-- A saturating form: clamps to 64 bits and counts integer saturation (R254, R255). -/
def intSat (m : Bool) (b a d : R6) (f : Int → Int → Int) (s : State) : Host.Outcome State Fault Refusal :=
  issue { names := [d, a, b], reads := [a, b] } m s fun s l =>
    let x := f (s.reg l a).toInt (s.reg l b).toInt
    let y := clampInt (-2 ^ 63) (2 ^ 63 - 1) x
    let s := if x = y then s else s.countEv l evIntSat 1
    .done (s.setReg l d (BitVec.ofInt 64 y))

/-- A select: writes gA when the condition on gB holds, else writes nothing (R255). -/
def intSel (m : Bool) (b a d : R6) (p : W64 → Bool) (s : State) : Host.Outcome State Fault Refusal :=
  issue { names := [d, a, b], reads := [a, b] } m s fun s l =>
    if p (s.reg l b) then .done (s.setReg l d (s.reg l a)) else .done s

/-- A division: long-latency, its saturation counted at the park (R256). -/
def intDiv (m : Bool) (b a d : R6) (f : W64 → W64 → W64 × Bool) (s : State) : Host.Outcome State Fault Refusal :=
  issue { long := true, names := [d, a, b], reads := [a, b] } m s fun s l =>
    let r := f (s.reg l a) (s.reg l b)
    .done (s.holdResult l { dest := .reg d, vals := [r.1], events := if r.2 then [evIntSat] else [] })

def bool64 (b : Bool) : W64 := if b then 1#64 else 0#64
def shAmt (x : W64) : Nat := fld x 5 0

def clz64 (x : W64) : W64 := if x = 0#64 then 64#64 else BitVec.ofNat 64 (63 - Nat.log2 x.toNat)
/-- Trailing zeros, looking at `k` bits from bit `i`. -/
def ctzFrom (x : W64) (i : Nat) : Nat → Nat
  | 0 => i
  | k + 1 => if bit x i then i else ctzFrom x (i + 1) k
def ctz64 (x : W64) : W64 := BitVec.ofNat 64 (ctzFrom x 0 64)
def popc64 (x : W64) : W64 := BitVec.ofNat 64 ((List.range 64).countP (bit x))
def bswap64 (x : W64) : W64 := BitVec.ofNat 64 (ofBytes (toBytes 8 x.toNat).reverse)

def divS (a b : W64) : W64 × Bool :=
  if b = 0#64 then (if a.toInt < 0 then BitVec.ofNat 64 (2 ^ 63) else BitVec.ofNat 64 (2 ^ 63 - 1), true)
  else if a.toNat = 2 ^ 63 ∧ b.toInt = -1 then (BitVec.ofNat 64 (2 ^ 63 - 1), true)
  else (BitVec.ofInt 64 (a.toInt.tdiv b.toInt), false)
def divU (a b : W64) : W64 × Bool :=
  if b = 0#64 then (BitVec.ofNat 64 (2 ^ 64 - 1), true) else (BitVec.ofNat 64 (a.toNat / b.toNat), false)
def remS (a b : W64) : W64 × Bool :=
  if b = 0#64 then (a, false) else (BitVec.ofInt 64 (a.toInt.tmod b.toInt), false)
def remU (a b : W64) : W64 × Bool :=
  if b = 0#64 then (a, false) else (BitVec.ofNat 64 (a.toNat % b.toNat), false)

/-- A field of `len` bits from `pos`, in place or as a value (R259). -/
def bfxU (pos len : Nat) (x : W64) : W64 := BitVec.ofNat 64 (x.toNat >>> pos % 2 ^ len)
def bfxS (pos len : Nat) (x : W64) : W64 := sextN (bfxU pos len x) len
def bfIns (pos len : Nat) (old x : W64) : W64 := setFld old (pos + len - 1) pos (x.toNat % 2 ^ len)
/-- The run of bits n to n + k − 1 (R261). -/
def runMask (n : R6) (k : BitVec 3) : W64 := BitVec.ofNat 64 ((2 ^ (k.toNat + 1) - 1) <<< n.toNat)

/-! ### Register-register (R255, R256) -/

def execAdd (m : Bool) (b a d : R6) (s : State) := int2 m b a d (fun x y => x + y) s
def execSub (m : Bool) (b a d : R6) (s : State) := int2 m b a d (fun x y => x - y) s
def execAnd (m : Bool) (b a d : R6) (s : State) := int2 m b a d (fun x y => x &&& y) s
def execOr (m : Bool) (b a d : R6) (s : State) := int2 m b a d (fun x y => x ||| y) s
def execXor (m : Bool) (b a d : R6) (s : State) := int2 m b a d (fun x y => x ^^^ y) s
def execAndn (m : Bool) (b a d : R6) (s : State) := int2 m b a d (fun x y => x &&& ~~~y) s
def execSll (m : Bool) (b a d : R6) (s : State) := int2 m b a d (fun x y => x <<< shAmt y) s
def execSrl (m : Bool) (b a d : R6) (s : State) := int2 m b a d (fun x y => x >>> shAmt y) s
def execSra (m : Bool) (b a d : R6) (s : State) := int2 m b a d (fun x y => x.sshiftRight (shAmt y)) s
def execRor (m : Bool) (b a d : R6) (s : State) := int2 m b a d (fun x y => x.rotateRight (shAmt y)) s
def execSlt (m : Bool) (b a d : R6) (s : State) := int2 m b a d (fun x y => bool64 (x.slt y)) s
def execSltn (m : Bool) (b a d : R6) (s : State) := int2 m b a d (fun x y => bool64 (x.ult y)) s
def execSeq (m : Bool) (b a d : R6) (s : State) := int2 m b a d (fun x y => bool64 (x == y)) s
def execMin (m : Bool) (b a d : R6) (s : State) := int2 m b a d (fun x y => if x.slt y then x else y) s
def execMax (m : Bool) (b a d : R6) (s : State) := int2 m b a d (fun x y => if x.slt y then y else x) s
def execMinn (m : Bool) (b a d : R6) (s : State) := int2 m b a d (fun x y => if x.ult y then x else y) s
def execMaxn (m : Bool) (b a d : R6) (s : State) := int2 m b a d (fun x y => if x.ult y then y else x) s
def execMul (m : Bool) (b a d : R6) (s : State) := int2 m b a d (fun x y => x * y) s
def execMulh (m : Bool) (b a d : R6) (s : State) :=
  int2 m b a d (fun x y => BitVec.ofInt 64 (x.toInt * y.toInt / 2 ^ 64)) s
def execMulhn (m : Bool) (b a d : R6) (s : State) :=
  int2 m b a d (fun x y => BitVec.ofNat 64 (x.toNat * y.toNat / 2 ^ 64)) s
def execDiv (m : Bool) (b a d : R6) (s : State) := intDiv m b a d divS s
def execDivn (m : Bool) (b a d : R6) (s : State) := intDiv m b a d divU s
def execRem (m : Bool) (b a d : R6) (s : State) := intDiv m b a d remS s
def execRemn (m : Bool) (b a d : R6) (s : State) := intDiv m b a d remU s
def execClz (m : Bool) (a d : R6) (s : State) := int1 m a d clz64 s
def execCtz (m : Bool) (a d : R6) (s : State) := int1 m a d ctz64 s
def execPopc (m : Bool) (a d : R6) (s : State) := int1 m a d popc64 s
def execBswap (m : Bool) (a d : R6) (s : State) := int1 m a d bswap64 s
def execAdds (m : Bool) (b a d : R6) (s : State) := intSat m b a d (fun x y => x + y) s
def execSubs (m : Bool) (b a d : R6) (s : State) := intSat m b a d (fun x y => x - y) s
def execSelz (m : Bool) (b a d : R6) (s : State) := intSel m b a d (fun y => y == 0#64) s
def execSelnz (m : Bool) (b a d : R6) (s : State) := intSel m b a d (fun y => y != 0#64) s

/-! ### Immediate and bit fields (R257 to R261) -/

def execAddi (m : Bool) (i : BitVec 12) (a d : R6) (s : State) := int1 m a d (fun x => x + i.signExtend 64) s
def execAndi (m : Bool) (i : BitVec 12) (a d : R6) (s : State) := int1 m a d (fun x => x &&& i.signExtend 64) s
def execOri (m : Bool) (i : BitVec 12) (a d : R6) (s : State) := int1 m a d (fun x => x ||| i.signExtend 64) s
def execXori (m : Bool) (i : BitVec 12) (a d : R6) (s : State) := int1 m a d (fun x => x ^^^ i.signExtend 64) s
def execSlti (m : Bool) (i : BitVec 12) (a d : R6) (s : State) :=
  int1 m a d (fun x => bool64 (x.slt (i.signExtend 64))) s
def execSltni (m : Bool) (i : BitVec 12) (a d : R6) (s : State) :=
  int1 m a d (fun x => bool64 (x.ult (i.signExtend 64))) s
def execSlli (m : Bool) (n a d : R6) (s : State) := int1 m a d (fun x => x <<< n.toNat) s
def execSrli (m : Bool) (n a d : R6) (s : State) := int1 m a d (fun x => x >>> n.toNat) s
def execSrai (m : Bool) (n a d : R6) (s : State) := int1 m a d (fun x => x.sshiftRight n.toNat) s
def execRori (m : Bool) (n a d : R6) (s : State) := int1 m a d (fun x => x.rotateRight n.toNat) s
def execBfx (m : Bool) (p l a d : R6) (s : State) := int1 m a d (bfxU p.toNat (l.toNat + 1)) s
def execBfxs (m : Bool) (p l a d : R6) (s : State) := int1 m a d (bfxS p.toNat (l.toNat + 1)) s
def execBfi (m : Bool) (p l a d : R6) (s : State) := intD m a d (bfIns p.toNat (l.toNat + 1)) s

/-- LUI: lane 0 writes the value alone; the other lanes keep the rest of gD, which they read (R260). -/
def execLui (m : Bool) (n : BitVec 2) (v : BitVec 16) (d : R6) (s : State) :=
  if n = 0#2 then issue { names := [d] } m s (writes d fun _ _ => v.setWidth 64)
  else
    issue { names := [d], reads := [d] } m s
      (writes d fun s l => setFld (s.reg l d) (16 * n.toNat + 15) (16 * n.toNat) v.toNat)

def execAdpc (m : Bool) (i : BitVec 18) (d : R6) (s : State) :=
  issue { names := [d] } m s (writes d fun s l => (s.core l).pc + i.signExtend 64 * 4096#64)

def execBtst (m : Bool) (n : R6) (k : BitVec 3) (a d : R6) (s : State) :=
  int1 m a d (fun x => bool64 (x &&& runMask n k != 0#64)) s
def execBset (m : Bool) (n : R6) (k : BitVec 3) (a d : R6) (s : State) := int1 m a d (fun x => x ||| runMask n k) s
def execBclr (m : Bool) (n : R6) (k : BitVec 3) (a d : R6) (s : State) := int1 m a d (fun x => x &&& ~~~(runMask n k)) s
def execBinv (m : Bool) (n : R6) (k : BitVec 3) (a d : R6) (s : State) := int1 m a d (fun x => x ^^^ runMask n k) s

/-! ### Guards (R219, R220) -/

/-- Opens a window of k + 1 words on bit n of gA; inside a window the word is illegal, executed or suppressed. The
count stands one higher here because the end of every word uses one up. -/
def guardWord (sense : Bool) (m : Bool) (n : R6) (k : BitVec 3) (a : R6) (s : State) :
    Host.Outcome State Fault Refusal :=
  let l := s.mover.core
  if s.mover.strm = .ctl ∧ 0 < (s.core l).guard.rem then .next (endCtl l m (.trap s (flt causeIllegal)))
  else
    issue { names := [a], reads := [a] } m s fun s l =>
      .done (s.updCore l fun c =>
        { c with guard := { rem := k.toNat + 2, sense := sense, pred := bit (c.reg a) n.toNat } })

def execGrd (m : Bool) (n : R6) (k : BitVec 3) (a : R6) (s : State) := guardWord true m n k a s
def execGrdn (m : Bool) (n : R6) (k : BitVec 3) (a : R6) (s : State) := guardWord false m n k a s

/-! ### Branches and jumps (R213, R262 to R265) -/

/-- PC + 4 × SignExtend(off) (R213). -/
def target {w : Nat} (pc : W64) (o : BitVec w) : W64 := pc + 4#64 * o.signExtend 64

def branch2 (m : Bool) (o : BitVec 12) (b a : R6) (p : W64 → W64 → Bool) (s : State) :
    Host.Outcome State Fault Refusal :=
  issue { names := [a, b], reads := [a, b] } m s fun s l =>
    if p (s.reg l a) (s.reg l b) then .jump s (target (s.core l).pc o) else .done s

def branchBit (m : Bool) (o : BitVec 12) (n a : R6) (v : Bool) (s : State) : Host.Outcome State Fault Refusal :=
  issue { names := [a], reads := [a] } m s fun s l =>
    if bit (s.reg l a) n.toNat = v then .jump s (target (s.core l).pc o) else .done s

def execBeq (m : Bool) (o : BitVec 12) (b a : R6) (s : State) := branch2 m o b a (fun x y => x == y) s
def execBne (m : Bool) (o : BitVec 12) (b a : R6) (s : State) := branch2 m o b a (fun x y => x != y) s
def execBlt (m : Bool) (o : BitVec 12) (b a : R6) (s : State) := branch2 m o b a (fun x y => x.slt y) s
def execBge (m : Bool) (o : BitVec 12) (b a : R6) (s : State) := branch2 m o b a (fun x y => !(x.slt y)) s
def execBltn (m : Bool) (o : BitVec 12) (b a : R6) (s : State) := branch2 m o b a (fun x y => x.ult y) s
def execBgen (m : Bool) (o : BitVec 12) (b a : R6) (s : State) := branch2 m o b a (fun x y => !(x.ult y)) s
def execBbs (m : Bool) (o : BitVec 12) (n a : R6) (s : State) := branchBit m o n a true s
def execBbc (m : Bool) (o : BitVec 12) (n a : R6) (s : State) := branchBit m o n a false s

def execJ (m : Bool) (o : BitVec 24) (s : State) :=
  issue {} m s fun s l => .jump s (target (s.core l).pc o)

/-- JL links into g7 (R264). -/
def execJl (m : Bool) (o : BitVec 24) (s : State) :=
  issue { names := [7#6] } m s fun s l =>
    let pc := (s.core l).pc
    .jump (s.setReg l 7#6 (pc + 4#64)) (target pc o)

/-- JLR links after gA is read (R264). -/
def execJlr (m : Bool) (i : BitVec 12) (a d : R6) (s : State) :=
  issue { names := [a, d], reads := [a] } m s fun s l =>
    let t := effAddr (s.reg l a) i
    .jump (s.setReg l d ((s.core l).pc + 4#64)) t

/-! ### DEAD (R181) -/

/-- DEAD drops the cached words of plain registers without writing them back; a shadow bank has none. -/
def execDead (m : Bool) (n a : R6) (s : State) :=
  issue { names := [a + n] } m s fun s l =>
    .done (s.updCore l fun c =>
      { c with rc := c.rc.filter fun e =>
          !(e.key / 64 == c.cur && decide (a.toNat ≤ e.key % 64) && decide (e.key % 64 ≤ a.toNat + n.toNat) &&
            e.key % 64 != 0 && kfind c.sb e.key == none) })

/-! ### Hint space (R228): words that do nothing -/

/-- A hint of either stream: it does nothing, fails no check, and its marker acts (R228). -/
def hintWord (m : Bool) (s : State) (f : State → Nat → State) : Host.Outcome State Fault Refusal :=
  let l := s.mover.core
  if s.mover.strm = .ctl then
    let c := s.core l
    if 0 < c.guard.rem && c.guard.pred != c.guard.sense then .next (endCtl l m (.done s))
    else .next (endCtl l m (.done (f s l)))
  else .next (endSeq l m (.done s))

def execNop (m : Bool) (_i : BitVec 12) (_a : R6) (_h : BitVec 6) (s : State) := hintWord m s fun s _ => s

end Sys2Proof.Machine
end

