-- ==== Sys2Proof/Machine/LoadStore.lean ====
section
/-! DEFINITION. Scalar loads, stores and prefetch hints, and what ends a firing (chapter 11). -/

namespace Sys2Proof.Machine

/-! ### Issuing accesses -/

/-- What an access carries beside its address: the mode for class 0x7, the object for class 0x5. -/
def accObj (a : W64) (m : Mode) : Nat := if clsOf a = 7 then modeCode m else if clsOf a = 5 then fld a 41 32 else 0

/-- A checked access of a thread as it is issued. -/
def mkAcc (p : Stream) (k : AccKind) (va : W64) (t : Target) (n : Nat) (m : Mode) : Acc :=
  { n := 0, party := p, kind := k, va := va, home := t.home, key := t.key, len := n, obj := accObj va m, na := t.na
    tlb := t.tlb }

/-- A load of `n` bytes into gD: its value comes back at the park (R267, R269). -/
def loadFrom (va : W64) (n : Nat) (e : Ext) (acq : Option (BitVec 3)) (d : R6) (s : State) (l : Nat) : Out :=
  match s.check l { acc := .read, n := n, align := n } va with
  | (s, .error f) => .trap s f
  | (s, .ok t) =>
    let c := s.core l
    let s := s.issueAcc l { mkAcc .ctl .load va t n c.mode with acq := acq }
    .done (s.holdResult l { dest := .reg d, waits := [c.accNext], ext := e })

def loadWord (m : Bool) (i : BitVec 12) (a d : R6) (n : Nat) (e : Ext) (s : State) : Host.Outcome State Fault Refusal :=
  issue { long := true, names := [a, d], reads := [a] } m s fun s l => loadFrom (effAddr (s.reg l a) i) n e none d s l

/-- A store of the low `n` bytes of a value (R267, R269); a release waits for an entry (R140, R141). -/
def storeTo (va v : W64) (n : Nat) (rel : Option (BitVec 3)) (s : State) (l : Nat) : Out :=
  match s.check l { acc := .write, n := n, align := n } va with
  | (s, .error f) => .trap s f
  | (s, .ok t) =>
    let c := s.core l
    if c.outFull 1 || (rel.isSome && s.relBlocked l t.home t.key) then .stall s
    else .done (s.issueAcc l { mkAcc .ctl .store va t n c.mode with data := lowBits v (8 * n), rel := rel })

def storeWord (m : Bool) (i : BitVec 12) (b a : R6) (n : Nat) (s : State) : Host.Outcome State Fault Refusal :=
  issue { names := [a, b], reads := [a, b] } m s fun s l => storeTo (effAddr (s.reg l a) i) (s.reg l b) n none s l

/-! ### Loads and stores (R267) -/

def execLdB (m : Bool) (i : BitVec 12) (a d : R6) (s : State) := loadWord m i a d 1 (.zero 8) s
def execLdBS (m : Bool) (i : BitVec 12) (a d : R6) (s : State) := loadWord m i a d 1 (.sign 8) s
def execLdH (m : Bool) (i : BitVec 12) (a d : R6) (s : State) := loadWord m i a d 2 (.zero 16) s
def execLdHS (m : Bool) (i : BitVec 12) (a d : R6) (s : State) := loadWord m i a d 2 (.sign 16) s
def execLdW (m : Bool) (i : BitVec 12) (a d : R6) (s : State) := loadWord m i a d 4 (.zero 32) s
def execLdWS (m : Bool) (i : BitVec 12) (a d : R6) (s : State) := loadWord m i a d 4 (.sign 32) s
def execLdD (m : Bool) (i : BitVec 12) (a d : R6) (s : State) := loadWord m i a d 8 .raw s

/-- LDA: size, sign and scope in fn6 (R222), an acquire (R134). -/
def execLda (m : Bool) (z : BitVec 2) (sg : BitVec 1) (c : BitVec 3) (a d : R6) (s : State) :=
  issue { long := true, names := [a, d], reads := [a] } m s fun s l =>
    let n := 2 ^ z.toNat
    loadFrom (s.reg l a) n (if sg = 1#1 then .sign (8 * n) else .zero (8 * n)) (some c) d s l

def execStB (m : Bool) (i : BitVec 12) (b a : R6) (s : State) := storeWord m i b a 1 s
def execStH (m : Bool) (i : BitVec 12) (b a : R6) (s : State) := storeWord m i b a 2 s
def execStW (m : Bool) (i : BitVec 12) (b a : R6) (s : State) := storeWord m i b a 4 s
def execStD (m : Bool) (i : BitVec 12) (b a : R6) (s : State) := storeWord m i b a 8 s

/-- STL: a release at its scope (R135). -/
def execStl (m : Bool) (z : BitVec 2) (c : BitVec 3) (b a : R6) (s : State) :=
  issue { names := [a, b], reads := [a, b] } m s fun s l => storeTo (s.reg l a) (s.reg l b) (2 ^ z.toNat) (some c) s l

/-! ### Prefetch hints (R271) -/

/-- The entry that a prefetch's translation hits: in the L1 or the L2 TLB; the physical context needs none (R59). -/
def State.prefEntry (s : State) (l : Nat) (va : Nat) : Option TlbE :=
  let c := s.core l
  if c.ctx = 0x3FF#10 then
    some { part := c.part, ctx := c.ctx, va := 0, size := 48, pa := 0, r1 := true, w1 := true, x1 := true, fm := true,
           r2 := true, w2 := true, x2 := true, na := false, d := true }
  else
    match tlbFind c.tlb1 c.part c.ctx va with
    | some e => some e
    | none => if isArrayCore l then tlbFind (s.clu (clusterOf l)).tlb2 c.part c.ctx va else none

/-- A prefetch at its slice: a line that is there becomes most recent, one on its way counts a Miss and is left to its fill,
and one that is absent is filled, once a way its mask allows is no longer on its way itself (R100, R271, log entry 98). The number
bounds the fills it waits for. -/
def State.prefLine (s : State) (part : BitVec 6) (ctx : BitVec 10) (pa : Nat) : Nat → State
  | 0 => s
  | n + 1 =>
    match s.wayOf pa with
    | some w => if w.st = .pending then s.counted pa part false else (s.counted pa part true).touchLine pa
    | none =>
      match s.acceptMiss part ctx pa with
      | some s => s
      | none => (s.oneFill part ctx pa).prefLine part ctx pa n

/-- A prefetch of an address: dropped on any obstacle. -/
def State.prefetch (s : State) (l : Nat) (a : W64) (wr : Bool) : State :=
  let c := s.core l
  let va := fld a 47 0
  if clsOf a ≠ 0 ∨ !(s.wellFormed a 1) ∨ c.rangeHit a 1 true ∨ s.ctxFault c.part c.ctx c.mode then s
  else
    match s.prefEntry l va with
    | none => s
    | some e =>
      let pa := e.pa + va % 2 ^ e.size
      if (entPerm e .read c.mode).isSome || (wr && (entPerm e .write c.mode).isSome) || decide (s.installed ≤ pa) ||
          s.noAlloc c.part c.ctx e.na pa || decide (32 ≤ s.missesOf pa) then s
      else s.prefLine c.part c.ctx pa (40 + (s.waiting fun _ => true).length)

def execPrefR (m : Bool) (i : BitVec 12) (a : R6) (s : State) :=
  hintWord m s fun s l => s.prefetch l (effAddr (s.reg l a) i) false
def execPrefW (m : Bool) (i : BitVec 12) (a : R6) (s : State) :=
  hintWord m s fun s l => s.prefetch l (effAddr (s.reg l a) i) true

/-! ### END and YIELD (R266) -/

/-- The sequencer is idle with qv empty: nothing runs, nothing is to start, no word is on its way (R189, R294). -/
def Core.seqDone (c : Core) : Bool :=
  !(bit c.seq.vstat 63) && !c.seq.startPend && c.seq.qv.isEmpty &&
    !(c.acc.any fun a => a.st == .issued && (a.kind == .qpush 0 || a.kind == .vstart))

/-- What the end of the running firing reads of its input ports: a double-bit error there is a fault of the word that ends
it (R72, R189). -/
def State.portFault (s : State) (l : Nat) : State × Option Flt :=
  match (s.core l).curWk with
  | none => (s, none)
  | some w =>
    match s.eccPorts l w.nin w true with
    | (s, d) => (s, d.map fun o => fltAt causeData (BitVec.ofNat 64 (lmKey (tileOf l) o)))

/-- END: an inline child goes back to the word after its SPAWN, else the firing commits (R189, R193). -/
def execEndF (m : Bool) (s : State) :=
  issue { park := true } m s fun s l =>
    let c := s.core l
    if !c.seqDone then .stall s
    else
      match c.inl with
      | r :: t => .jump (s.setCore l { c with inl := t }) r
      | [] =>
        match s.portFault l with
        | (s, some f) => .trap s f
        | (s, none) => .gone (s.endFiring l)

/-- YIELD; an inline child has no firing of its own to end. -/
def execYield (m : Bool) (s : State) :=
  issue { park := true } m s fun s l =>
    let c := s.core l
    if !c.inl.isEmpty then .trap s (Machine.flt causeIllegal)
    else if !c.seqDone then .stall s
    else .gone (s.yieldFiring l)

end Sys2Proof.Machine
end

