-- ==== Sys2Proof/Machine/Sync.lean ====
section
/-! DEFINITION. Synchronisation, atomic, message and mailbox instructions, and the control thread's queues and flags
(chapters 06, 08, 13, 14). -/

namespace Sys2Proof.Machine

/-! ### Atomics (R308 to R310) -/

/-- Classes an atomic reaches beyond what CheckAccess refuses (R309): one to class 0x8 goes to the proxy core, whatever its
operation (R152). -/
def atmClass (op : AtmOp) (a : W64) : Bool :=
  match clsOf a with
  | 5 => op != .addz
  | _ => true

/-- An ATM word: `r` order, `w` size (0 D, 1 W), `sc` scope (R225). -/
def atm (op : AtmOp) (m : Bool) (r : BitVec 2) (w : BitVec 1) (b a d : R6) (sc : BitVec 3) (s : State) :
    Host.Outcome State Fault Refusal :=
  let reads := if op = .cas then [a, b, d] else [a, b]
  issue { long := true, names := [d, a, b], reads := reads } m s fun s l =>
    let n := if w = 0#1 then 8 else 4
    let va := s.reg l a
    match s.check l { acc := .atomic, n := n, align := if op = .addz then 16 else n } va with
    | (s, .error f) => .trap s f
    | (s, .ok t) =>
      let c := s.core l
      if !(atmClass op va) then .trap s (fltAt causeAccess va)
      else if c.outFull 1 || (bit r 1 && s.relBlocked l t.home t.key) then .stall s
      else
        let acc := mkAcc .ctl (.atomic op) va t n c.mode
        let s := s.issueAcc l { acc with
          data := lowBits (s.reg l b) (8 * n), cmp := lowBits (s.reg l d) (8 * n)
          acq := if bit r 0 then some sc else none, rel := if bit r 1 then some sc else none }
        .done (s.holdResult l { dest := .reg d, waits := [c.accNext], ext := .zero (8 * n) })

def execAtmSwap (m : Bool) (r : BitVec 2) (w : BitVec 1) (b a d : R6) (sc : BitVec 3) (s : State) := atm .swap m r w b a d sc s
def execAtmAdd (m : Bool) (r : BitVec 2) (w : BitVec 1) (b a d : R6) (sc : BitVec 3) (s : State) := atm .add m r w b a d sc s
def execAtmAddz (m : Bool) (r : BitVec 2) (b a d : R6) (sc : BitVec 3) (s : State) := atm .addz m r 0#1 b a d sc s
def execAtmAnd (m : Bool) (r : BitVec 2) (w : BitVec 1) (b a d : R6) (sc : BitVec 3) (s : State) := atm .and m r w b a d sc s
def execAtmOr (m : Bool) (r : BitVec 2) (w : BitVec 1) (b a d : R6) (sc : BitVec 3) (s : State) := atm .or m r w b a d sc s
def execAtmXor (m : Bool) (r : BitVec 2) (w : BitVec 1) (b a d : R6) (sc : BitVec 3) (s : State) := atm .xor m r w b a d sc s
def execAtmMax (m : Bool) (r : BitVec 2) (w : BitVec 1) (b a d : R6) (sc : BitVec 3) (s : State) := atm .max m r w b a d sc s
def execAtmCas (m : Bool) (r : BitVec 2) (w : BitVec 1) (b a d : R6) (sc : BitVec 3) (s : State) := atm .cas m r w b a d sc s

/-! ### FENCE and DRAIN (R133, R136, R313) -/

/-- FENCE: the rr and wr pairs stall the issuer, the rw and ww pairs hold later writes back for as long as an earlier
access is out. -/
def execFence (m : Bool) (k : BitVec 4) (sc : BitVec 3) (s : State) :=
  issue {} m s fun s l =>
    let mine := (s.core l).acc.filter fun a => a.party == .ctl && insideScope l sc a.home
    if (bit k 3 && mine.any (·.kind.isRead)) || (bit k 1 && mine.any (·.kind.isWrite)) then .stall s
    else if bit k 2 || bit k 0 then
      .done ((s.issueAcc l { n := 0, party := .ctl, kind := .fence sc k, home := .inCore, key := 256, len := 0 }).updCore l
        fun c => { c with acc := pruneFences c.acc })
    else .done s

def execDrain (m : Bool) (s : State) :=
  issue {} m s fun s l => if (s.core l).out = 0 then .done s else .stall s

/-! ### Barriers (R314 to R316) -/

/-- The team of the running firing. -/
def State.curTeam (s : State) (l : Nat) : Option (Nat × Team) :=
  match (s.core l).curWk with
  | some w => (kfind s.teams w.team).map fun t => (w.team, t)
  | none => none

/-- The 72-byte record of an episode (R316). -/
def barRecord (as : List BarArr) (ep : Nat) : List Byte :=
  ((List.range 8).flatMap fun i =>
    toBytes 8 (min ((as.map fun a => (a.evs.getD i 0#32).toNat).foldl (· + ·) 0) (2 ^ 48 - 1))) ++
    toBytes 2 as.length ++ toBytes 6 (ep % 2 ^ 48)

/-- Writes one word of an episode's record. Its page is translated at the write, so a TLBINV that removes the entry the
BAR.G's check used leaves nothing behind (R64, log entry 131). -/
def State.barWord (s : State) (p : BitVec 6) (a : BarArr) (va : W64) (bs : List Byte) : State × Option Flt :=
  if clsOf va = 0 then
    match s.translate a.core p a.ctx a.mode .write (fld va 47 0) with
    | (s, .error f) => (s, some (xlatFlt f .write a.ctx va))
    | (s, .ok r) =>
      match s.hwTouchW p a.ctx r.na r.pa with
      | (s, true) => (s, some (fltAt causeData va))
      | (s, false) => (s.cohWrite r.pa bs, none)
  else
    let h := s.homeOf va
    ((s.setHome h.1 h.2 bs).afterWrite h.1, none)

/-- Writes an episode's record, word by word, to the first that faults; that fault is reported to the partition's fault
queue (R316). -/
def State.barWrite (s : State) (p : BitVec 6) (a : BarArr) (va : W64) : List (List Byte) → State
  | [] => s
  | w :: t =>
    match s.barWord p a va w with
    | (s, none) => s.barWrite p a (va + 8#64) t
    | (s, some f) =>
      let c := s.core a.core
      s.postRecord p (s.faultRecord a.core f (c.owner a.core) false false {} c.pc)

/-- The first arrival that names a record, with its address. -/
def recordOf (as : List BarArr) : Option (BarArr × W64) := as.findSome? fun a => a.rec_.map fun va => (a, va)

/-- The last arrival ends the episode: the record, then every waiting thread resumes. -/
def State.barEnd (s : State) (t n : Nat) (as : List BarArr) : State :=
  match kfind s.teams t with
  | none => s
  | some x =>
    let ep := kget x.barEp n 0
    let s := match recordOf as with
      | some (a, va) => s.barWrite x.part a va (chunksOf 8 9 (barRecord as ep))
      | none => s
    let s := match kfind s.teams t with
      | some x => { s with teams := kput s.teams t { x with bars := kput x.bars n [], barEp := kput x.barEp n (ep + 1) } }
      | none => s
    as.foldl (fun s a => s.reply a.core a.tag (.got 0#64 0#64)) s

/-- The home of an episode's record when it does not take the record now (R394, R411). -/
def State.recordWaits (s : State) (p : BitVec 6) (as : List BarArr) : Option Home :=
  match recordOf as with
  | some (_, va) =>
    let h := s.homeOf va
    if s.homeReady p h.1 h.2 72 then none else some h.1
  | none => none

/-- An arrival at barrier `n`: a release at device scope, so it waits for what the thread issued before. -/
def barArrive (n : Nat) (drainOpt : Bool) (rec_ : Option W64) (s : State) (l : Nat) : Out :=
  let c := s.core l
  match c.wait with
  | .got _ _ => .done s
  | .refused f => .trap s f
  | .sent _ => .stall s
  | .none =>
    if (drainOpt && c.out != 0) || !(c.releaseWaits l .ctl 4#3).isEmpty then .stall s
    else
      match s.curTeam l with
      | none => .done s
      | some (t, x) =>
        let as := kget x.bars n []
        let a : BarArr :=
          { core := l, tag := c.accNext, evs := (List.range 8).map fun i => kget c.ev i 0#32, rec_ := rec_, ctx := c.ctx
            mode := c.mode }
        let all := as ++ [a]
        if as.any (·.core == l) then .stall s
        else if x.barCnt ≤ all.length then
          match s.recordWaits x.part all with
          | some h => .stall (s.wakeHome h)
          | none => .done ((s.newTag l).1.barEnd t n all)
        else
          .stall ({ (s.newTag l).1 with teams := kput s.teams t { x with bars := kput x.bars n all } }.updCore l
            fun c => { c with wait := .sent a.tag })

def execBar (m : Bool) (n : BitVec 2) (x : BitVec 1) (s : State) :=
  issue {} m s fun s l => barArrive n.toNat (x == 1#1) none s l

/-- The check of a record's 72 bytes as one store, which may lie in two pages (R58, R316). -/
def State.checkRecord (s : State) (l : Nat) (va : W64) : State × Option Flt :=
  match s.checkSpan l { acc := .write, n := 72, align := 8, only := fun k => k == 0 || k == 1 } va with
  | (t, .error f) => (t, some f)
  | (t, .ok _) => (t, none)

/-- BAR.G: its checks are made as it issues, and no more once it has arrived (R316). -/
def execBarG (m : Bool) (n : BitVec 2) (a : R6) (x : BitVec 1) (s : State) :=
  issue { names := [a], reads := [a] } m s fun s l =>
    let va := s.reg l a
    if (s.core l).wait = .none then
      match s.checkRecord l va with
      | (s, some f) => .trap s f
      | (s, none) => barArrive n.toNat (x == 1#1) (some va) s l
    else barArrive n.toNat (x == 1#1) (some va) s l

/-! ### Waiting on counters and sync words (R317) -/

/-- Whether the control thread may read `n` bytes at a home now, in its order (R130, R134, R136). -/
def Core.mayRead (c : Core) (l : Nat) (h : Home) (key n : Nat) : Bool :=
  c.mayPerform l { n := c.accNext, party := .ctl, kind := .load, home := h, key := key, len := n }

/-- A wait on a value at a home: it stalls until the value read satisfies `p`; a read that stalls again leaves nothing. -/
def waitOn (va : W64) (t : Target) (n : Nat) (p : Nat → Bool) (s : State) (l : Nat) : Out :=
  let c := s.core l
  if !(s.homeReady c.part t.home t.key n) then .stall (s.wakeHome t.home)
  else if !(c.mayRead l t.home t.key n) then .stall s
  else
    let r : State × Option W64 :=
      if t.home = .mem then
        match s.hwTouch c.part c.ctx t.na true t.key with
        | (s, e) => (s, if e then some va else none)
      else
        match s.eccSpan t.key n with
        | (s, d) => (s, d.map (eccAddr va))
    match r with
    | (s', some a) => .trap s' (fltAt causeData a)
    | (s', none) => if p (s'.homeNat t.home t.key n) then .done s' else .stall s

def execWaitge (m : Bool) (_sc : BitVec 3) (b a : R6) (s : State) :=
  issue { names := [a, b], reads := [a, b] } m s fun s l =>
    let va := s.reg l a
    let want := (s.reg l b).toNat
    match s.check l { acc := .read, n := 8, align := 8, only := fun k => k == 0 || k == 1 || k == 6 } va with
    | (s, .error f) => .trap s f
    | (s, .ok t) => waitOn va t 8 (fun v => decide (want ≤ v)) s l

def execWaitgen (m : Bool) (b a : R6) (s : State) :=
  issue { names := [a, b], reads := [a, b] } m s fun s l =>
    let va := s.reg l a
    let want := fld (s.reg l b) 15 0
    match s.check l { acc := .read, n := 16, align := 16, only := (· == 1) } va with
    | (s, .error f) => .trap s f
    | (s, .ok t) => waitOn va t 16 (fun v => decide ((v / 2 ^ 112 % 2 ^ 16 + 2 ^ 16 - want) % 2 ^ 16 < 2 ^ 15)) s l

/-! ### Registers as targets (R196, R318 to R320) -/

/-- The ARM transition of a register, with the keep bit as given (R196). -/
def Core.arm (c : Core) (i : Nat) (keep : Bool) : Core :=
  let k := wordKey c.cur i
  { c with
    sb := if kfind c.sb k = some .full then c.sb else kput c.sb k .armed
    keep := if keep then k :: c.keep.filter (· != k) else c.keep.filter (· != k) }

def armRegs (d : R6) (k : BitVec 3) : List Nat := (List.range (k.toNat + 1)).map (d.toNat + ·)

def armWord (keep : Bool) (m : Bool) (k : BitVec 3) (d : R6) (s : State) : Host.Outcome State Fault Refusal :=
  issue { names := (armRegs d k).map (BitVec.ofNat 6) } m s fun s l =>
    .done (s.updCore l fun c => (armRegs d k).foldl (fun c i => c.arm i keep) c)

def execArm (m : Bool) (k : BitVec 3) (d : R6) (s : State) := armWord false m k d s
def execArmK (m : Bool) (k : BitVec 3) (d : R6) (s : State) := armWord true m k d s

/-- MINTC: a capability for registers of the running firing's workspace (R319). -/
def execMintc (m : Bool) (b d : R6) (s : State) :=
  issue { names := [d, pairHi d, b], reads := [b] } m s fun s l =>
    let v := s.reg l b
    let c := s.core l
    let first := fld v 5 0
    let count := fld v 12 6
    if v.toNat / 2 ^ 16 ≠ 0 then .trap s (flt causeReserved)
    else if first = 0 ∨ count = 0 ∨ c.allot < first + count then .trap s (flt causeAccess)
    else
      let (id, g) := match c.curWk with | some w => (w.wsid, w.gen) | none => (0#16, 0#12)
      let cap := s.mintCap c.part.toNat l id g count (fld v 15 13) first
      .done ((s.setReg l d (cap.setWidth 64)).setReg l (pairHi d) ((cap >>> 64).setWidth 64))

/-- The accesses that a packet of core `l` waits for: those a release covers, and those that an acquire or a fence puts
before it (R134 to R136, R141). -/
def Core.sendWaits (c : Core) (l : Nat) (rel : Option (BitVec 3)) (h : Home) : List Nat :=
  let a : Acc := { n := c.accNext, party := .ctl, kind := .remote, home := h }
  (match rel with | some sc => c.releaseWaits l .ctl sc | none => []) ++
    (c.acc.filter fun e => holdsBack l e a || fenced l c.acc e a).map (·.n)

/-- A request leaves on the network; its access counts until it is acknowledged, and keeps `w` for the reply (R131,
R132). -/
def State.postRemote (s : State) (l dst : Nat) (va : W64) (k : PktKind) (bs : List Byte) (rel : Option (BitVec 3))
    (w : W64 := 0#64) : State :=
  let c := s.core l
  let ws := c.sendWaits l rel (.ws dst)
  let s := s.issueAcc l { n := 0, party := .ctl, kind := .remote, va := va, home := .ws dst, rel := rel, cmp := w }
  s.sendPkt { n := 0, src := l, dst := dst, part := c.part, acc := c.accNext, kind := k, bytes := bs, rel := ws }

/-- A word that has sent a request stalls until its reply comes. -/
def awaitReply (s : State) (l n : Nat) : Out := .stall (s.updCore l fun c => { c with wait := .sent n })

def capOf (s : State) (l : Nat) (a : R6) : BitVec 128 := s.reg l (pairHi a) ++ s.reg l a

def execRput (m : Bool) (r : BitVec 1) (sc : BitVec 3) (b a i : R6) (s : State) :=
  issue { names := [a, pairHi a, b], reads := [a, pairHi a, b] } m s fun s l =>
    let cap := capOf s l a
    let rel := if r = 1#1 then some sc else none
    let c := s.core l
    if !(capShape cap) then .trap s (fltAt causeBadCap (s.reg l a))
    else if !(capAllows cap i.toNat rel.isSome) then .trap s (fltAt causeAccess (capAddr cap i.toNat))
    else if c.outFull 1 || (rel.isSome && c.relFull) then .stall s
    else .done (s.postRemote l (capCore cap) (capAddr cap i.toNat) (.rput cap i.toNat (s.reg l b) rel false) [] rel)

/-- RPUTT: as RPUT, and the outcome comes back as a status in gB. -/
def execRputt (m : Bool) (r : BitVec 1) (sc : BitVec 3) (b a i : R6) (s : State) :=
  issue { names := [a, pairHi a, b], reads := [a, pairHi a, b] } m s fun s l =>
    let cap := capOf s l a
    let rel := if r = 1#1 then some sc else none
    let c := s.core l
    match c.wait with
    | .got v _ => .done (s.setReg l b v)
    | .refused f => .trap s f
    | .sent _ => .stall s
    | .none =>
      if !(capShape cap) then .done (s.setReg l b 5#64)
      else if !(capAllows cap i.toNat rel.isSome) then .done (s.setReg l b 4#64)
      else if c.outFull 1 || (rel.isSome && c.relFull) then .stall s
      else
        awaitReply (s.postRemote l (capCore cap) (capAddr cap i.toNat) (.rput cap i.toNat (s.reg l b) rel true) [] rel) l
          c.accNext

/-! ### Messages (R311, R321, R322) -/

/-- Whether a payload may lie at an address: the own tile's LM data region, or class 0x6 for a Clearing core. -/
def payloadOk (l : Nat) (a : W64) (n : Nat) : Bool :=
  (clsOf a == 1 && tileOf (fld a 59 48) == tileOf l && decide (fld a 47 0 + n ≤ 0x18000)) ||
    (clsOf a == 6 && isClearing l)

/-- The SEND forms: `tried` for SENDT, a release at device scope for .REL. -/
def sendWord (tried : Bool) (rel : Option (BitVec 3)) (m : Bool) (b a d : R6) (s : State) :
    Host.Outcome State Fault Refusal :=
  issue { names := if tried then [a, b, d] else [a, b], reads := [a, b] } m s fun s l =>
    let w := s.reg l b
    let va := s.reg l a
    let c := s.core l
    let dst := fld w 59 48
    let cls := fld w 35 32
    let len := fld w 15 0
    let go (s : State) (body : List Byte) : Out :=
      if c.outFull 1 || (rel.isSome && c.relFull) then .stall s
      else
        let s' := s.postRemote l dst va (.message cls w va tried) body rel
        if tried then awaitReply s' l c.accNext else .done s'
    match c.wait with
    | .got v _ => .done (s.setReg l d v)
    | .refused f => .trap s f
    | .sent _ => .stall s
    | .none =>
      if w &&& (bits 63 60 ||| bits 47 36 ||| bits 31 16) ≠ 0#64 then .trap s (flt causeReserved)
      else if cls = 15 then .trap s (flt causeIllegal)
      else if len < 8 ∨ 2048 < len ∨ !(s.destOk l dst) then .trap s (fltAt causeAccess va)
      else if len = 8 then go s []
      else
        match s.check l { acc := .read, n := len - 8, align := 8, only := fun k => k == 1 || k == 6 } va with
        | (s, .error f) => .trap s f
        | (s, .ok t) =>
          if !(payloadOk l va (len - 8)) then .trap s (fltAt causeAccess va)
          else if !(s.homeReady c.part t.home t.key (len - 8)) then .stall s
          else if !(c.mayRead l t.home t.key (len - 8)) then .stall s
          else
            match s.eccSpan t.key (len - 8) with
            | (s, some d) => .trap s (fltAt causeData (eccAddr va d))
            | (s, none) => go s (memReadN s.mem t.key (len - 8))

def execSend (m : Bool) (b a : R6) (s : State) := sendWord false none m b a 0#6 s
def execSendt (m : Bool) (b a d : R6) (s : State) := sendWord true none m b a d s
def execSendRel (m : Bool) (b a : R6) (s : State) := sendWord false (some 4#3) m b a 0#6 s
def execSendtRel (m : Bool) (b a d : R6) (s : State) := sendWord true (some 4#3) m b a d s

/-- AMSG: a handler PC and an argument for a core named by a class 0x1 address (R311). -/
def execAmsg (m : Bool) (b a k : R6) (s : State) :=
  issue { names := [a, b, pairHi b], reads := [a, b, pairHi b] } m s fun s l =>
    let ga := s.reg l a
    let pc := s.reg l b
    let c := s.core l
    let dst := fld ga 59 48
    if k.toNat = 15 then .trap s (flt causeIllegal)
    else if clsOf ga ≠ 1 ∨ !(s.wellFormed ga 1) ∨ clsOf pc ≠ 1 ∨ !(s.wellFormed pc 4) ∨ pc.toNat % 4 ≠ 0 ∨
        tileOf (fld pc 59 48) ≠ tileOf dst ∨ 0x18000 < fld pc 47 0 + 4 then .trap s (fltAt causeAddress ga)
    else
      match s.checkClass l c.part c.mode .thread true ga 1 with
      | some f => .trap s f
      | none =>
        if c.outFull 1 then .stall s
        else .done (s.postRemote l (s.handlerCore ga) ga (.amsg k.toNat ga pc (s.reg l (pairHi b))) [] none)

/-! ### SPAWN, FORK and JOIN (R193, R194, R323 to R325) -/

/-- The workspace whose actor asks: the running firing's. -/
def Core.callerWk (c : Core) : Wk :=
  match c.curWk with
  | some w => w
  | none => { ent := 0, wsid := 0#16, gen := 0#12, part := c.part, idx := 0, allot := 64, ctx := c.ctx, mode := c.mode }

def callRegs (s : State) (l : Nat) : List W64 := [s.reg l 1#6, s.reg l 2#6, s.reg l 3#6, s.reg l 4#6]

def execSpawn (m : Bool) (b a : R6) (s : State) :=
  issue { park := true, names := [a, b], reads := [a, b, 1#6, 2#6, 3#6, 4#6] } m s fun s l =>
    let entry := s.reg l a
    let c := s.core l
    let dst := fld (s.reg l b) 11 0
    match c.wait with
    | .got v _ =>
      if v = 1#64 then .done s
      else .jump (s.setCore l { c with inl := (c.pc + 4#64) :: c.inl }) entry
    | .refused f => .trap s f
    | .sent _ => .stall s
    | .none =>
      match s.checkFetch l entry with
      | (s, .error f) => .trap s f
      | (s, .ok _) =>
        if fld (s.reg l b) 63 12 ≠ 0 then .trap s (flt causeReserved)
        else if !(isArrayCore dst) || isClearing dst != isClearing l || !(s.holdsCore c.part.toNat dst) || s.retired dst then
          .trap s (flt causeAccess)
        else if c.outFull 1 then .stall s
        else awaitReply (s.postRemote l dst 0#64 (.spawn (c.callerWk.child entry) (callRegs s l)) [] none) l c.accNext

/-- The check of a FORK cell, as a 32-byte store of class 0x1 (R324). -/
def State.checkCell (s : State) (l : Nat) (a : W64) : State × Except Flt Target :=
  s.check l { acc := .write, n := 32, align := 32, only := (· == 1) } a

def State.cellWord (s : State) (t : Target) (i : Nat) : W64 := BitVec.ofNat 64 (s.homeNat t.home (t.key + 8 * i) 8)

/-- Whether the control thread may write `n` bytes at a home now, in its order (R130, R134, R136, R141). -/
def Core.mayWrite (c : Core) (l : Nat) (h : Home) (key n : Nat) : Bool :=
  c.mayPerform l { n := c.accNext, party := .ctl, kind := .store, home := h, key := key, len := n }

/-- Writes Left of a FORK cell. -/
def State.setLeft (s : State) (t : Target) (n : Nat) : State := (s.setHome t.home t.key (toBytes 8 n)).afterWrite t.home

/-- A read of words of a cell, from word `i` on; its data error (R72). -/
def State.cellRead (s : State) (va : W64) (t : Target) (i n : Nat) : State × Option Flt :=
  match s.eccSpan (t.key + 8 * i) (8 * n) with
  | (s, d) => (s, d.map fun d => fltAt causeData (eccAddr (va + BitVec.ofNat 64 (8 * i)) d))

/-- FORK once its cell is checked: T and G are read, Left is written, and cores are asked for, or with no share the thread
goes on at Cont, which is read then only; S comes back with the reply. -/
def forkCell (va entry : W64) (t : Target) (s : State) (l : Nat) : Out :=
  let c := s.core l
  if !(s.homeReady c.part t.home t.key 32) then .stall (s.wakeHome t.home)
  else if !(c.mayRead l t.home t.key 32 && c.mayWrite l t.home t.key 8) || c.outFull 1 then .stall s
  else
    match s.cellRead va t 2 2 with
    | (s, some f) => .trap s f
    | (s, none) =>
      let g := (s.cellWord t 3).toNat
      let shares := ((s.cellWord t 2).toNat + g - 1) / g
      if g = 0 then .trap s (flt causeReserved)
      else if shares = 0 then
        match s.cellRead va t 1 1 with
        | (s, some f) => .trap s f
        | (s, none) => .jump (s.setLeft t 0) (s.cellWord t 1)
      else
        awaitReply ((s.setLeft t shares).postRemote l l va (.fork (c.callerWk.child entry) shares va) [] none
          (BitVec.ofNat 64 shares)) l c.accNext

/-- FORK: Left is written, cores are recruited, and the caller becomes participant 0. -/
def execFork (m : Bool) (b a : R6) (s : State) :=
  issue { names := [a, b], reads := [a, b] } m s fun s l =>
    let va := s.reg l a
    let entry := s.reg l b
    match (s.core l).wait with
    | .got p n => .jump ((((s.setReg l 1#6 0#64).setReg l 2#6 p).setReg l 3#6 n).setReg l 4#6 va) entry
    | .refused f => .trap s f
    | .sent _ => .stall s
    | .none =>
      match s.checkCell l va with
      | (s, .error f) => .trap s f
      | (s, .ok t) => forkCell va entry t s l

/-- Where the words of a cell that has passed its check lie. -/
def State.cellAt (s : State) (va : W64) : Target := { home := (s.homeOf va).1, key := (s.homeOf va).2 }

/-- A JOIN that has subtracted its shares and leaves some ends its firing as END does; a fault that it takes while it waits finds
the subtraction made (R189, R217, R304, R325). -/
def joinEnds (s : State) (l : Nat) : Out :=
  let c := s.core l
  if !c.held.isEmpty then .gone (s.setCore l { c with parkDue := true })
  else if !c.seqDone then .stall s
  else .gone (s.endFiring l)

/-- The JOIN at the PC has subtracted its shares: it does not subtract them again. -/
def Core.hasJoined (c : Core) : Core := { c with wait := .none, joined := some c.pc }

/-- JOIN: an atomic subtraction from Left; the one that brings it to zero goes on at Cont, any other ends its firing. Every
check is made as it issues, before Left changes: that of its cell, and the reads of Cont and of the
ports an end consumes (R325, log entry 132). -/
def execJoin (m : Bool) (b a : R6) (s : State) :=
  issue { names := [a, b], reads := [a, b] } m s fun s l =>
    let va := s.reg l a
    let n := s.reg l b
    let c := s.core l
    match c.wait with
    | .got old _ =>
      if old = n then .jump s (s.cellWord (s.cellAt va) 1)
      else joinEnds (s.updCore l Core.hasJoined) l
    | .refused f => .trap s f
    | .sent _ => .stall s
    | .none =>
      if c.joined = some c.pc then joinEnds s l
      else if !c.inl.isEmpty then .trap s (flt causeIllegal)
      else
        match s.checkCell l va with
        | (s, .error f) => .trap s f
        | (s, .ok t) =>
          if n = 0#64 then .trap s (fltAt causeAccess va)
          else if c.outFull 1 || s.relBlocked l t.home t.key then .stall s
          else
            match s.cellRead va t 1 1 with
            | (s, some f) => .trap s f
            | (s, none) =>
              match s.portFault l with
              | (s, some f) => .trap s f
              | (s, none) =>
                let acc := mkAcc .ctl (.atomic .join) va t 8 c.mode
                awaitReply (s.issueAcc l { acc with data := n, acq := some 4#3, rel := some 4#3 }) l c.accNext

/-! ### Class masking (R326): a mask may govern ports of actors on other cores of the tile (log entry 129) -/

def execMaskc (m : Bool) (k : R6) (s : State) :=
  issue {} m s fun s l => .done (s.updCore l fun c => { c with cmask := c.cmask ||| (1#64 <<< k.toNat) })
def execUnmaskc (m : Bool) (k : R6) (s : State) :=
  issue {} m s fun s l => .done ((s.updCore l fun c => { c with cmask := c.cmask &&& ~~~(1#64 <<< k.toNat) }).reevalTile (tileOf l))

/-! ### Flags and VSTART of the control thread (R292 to R294) -/

def flagWriteC (n : Nat) (v : Bool) (s : State) (l : Nat) : Out :=
  let c := s.core l
  if c.outFull 1 || c.relFull then .stall s
  else .done (s.issueAcc l (localAcc .ctl (.flgset n v) (64 + n) 0#64 true false))

def execFlgset (m : Bool) (n : R6) (s : State) :=
  issue { array := true } m s fun s l => flagWriteC n.toNat true s l
def execFlgclr (m : Bool) (n : R6) (s : State) :=
  issue { array := true } m s fun s l => flagWriteC n.toNat false s l
def execFlgtst (m : Bool) (n d : R6) (s : State) :=
  issue { array := true, long := true, names := [d] } m s fun s l =>
    let k := (s.core l).accNext
    .done ((s.issueAcc l (localAcc .ctl (.flgtst n.toNat) (64 + n.toNat) 0#64 false true)).holdResult l
      { dest := .reg d, waits := [k] })

/-- VSTART: an idle sequencer gets its PC and Run; its first word waits for the release (R294, R468). -/
def execVstart (m : Bool) (a : R6) (s : State) :=
  issue { array := true, names := [a], reads := [a] } m s fun s l =>
    let c := s.core l
    let v := s.reg l a
    if bit c.seq.vstat 63 || c.seq.parkDue || c.outFull 1 || c.relFull then .stall s
    else
      let q := { c.seq with
        vpc := v, startPend := true
        vstat := setFld (setFld (setFld c.seq.vstat 63 63 1) 61 61 0) 60 60 0, owner := c.curEnt, firing := c.owner l }
      .done ((s.setCore l { c with seq := q }).issueAcc l (localAcc .ctl .vstart 128 v true false))

/-! ### Mailbox instructions (R327) -/

/-- The object that gA names, checked at issue. -/
def State.mbObj (s : State) (l : Nat) (a : R6) : Except Flt Nat :=
  let v := s.reg l a
  let c := s.core l
  if fld v 63 10 ≠ 0 then .error (flt causeReserved)
  else match s.objCheck c.part c.mode (fld v 9 0) with
    | some f => .error f
    | none => .ok (fld v 9 0)

/-- A mailbox operation on object `n` as an access: all of one object are one location (R164). -/
def mbAcc (k : AccKind) (n : Nat) (data cmp : W64) : Acc :=
  { n := 0, party := .ctl, kind := k, home := .mbm, key := clsBase 5 + 2 ^ 50 + n, len := 1, obj := n, data := data, cmp := cmp }

def mboxHold (m : Bool) (k : AccKind) (a d : R6) (more : List R6) (data cmp : State → Nat → W64) (acq : Bool) (s : State) :
    Host.Outcome State Fault Refusal :=
  issue { long := true, names := [a, d, pairHi d] ++ more, reads := a :: more } m s fun s l =>
    match s.mbObj l a with
    | .error f => .trap s f
    | .ok n =>
      let c := s.core l
      if k.counts && c.outFull 1 then .stall s
      else
        let s := s.issueAcc l { mbAcc k n (data s l) (cmp s l) with acq := if acq then some 4#3 else none }
        .done (s.holdResult l { dest := .pair d, waits := [c.accNext] })

def mboxPost (m : Bool) (k : AccKind) (a : R6) (more : List R6) (data : State → Nat → W64) (rel : Bool)
    (bad : State → Nat → Bool) (s : State) : Host.Outcome State Fault Refusal :=
  issue { names := a :: more, reads := a :: more } m s fun s l =>
    if bad s l then .trap s (flt causeReserved)
    else
      match s.mbObj l a with
      | .error f => .trap s f
      | .ok n =>
        if (s.core l).outFull 1 || (rel && (s.core l).relFull) then .stall s
        else .done (s.issueAcc l { mbAcc k n (data s l) 0#64 with rel := if rel then some 4#3 else none })

def execMpub (m : Bool) (a d : R6) (s : State) := mboxHold m .mpub a d [] (fun _ _ => 0#64) (fun _ _ => 0#64) false s
def execMread (m : Bool) (a d : R6) (s : State) := mboxHold m .mread a d [] (fun _ _ => 0#64) (fun _ _ => 0#64) true s
def execMreadv (m : Bool) (b a d : R6) (s : State) :=
  mboxHold m .mreadv a d [b, pairHi b] (fun s l => s.reg l b) (fun s l => s.reg l (pairHi b)) true s
def execMcommit (m : Bool) (a : R6) (s : State) := mboxPost m .mcommit a [] (fun _ _ => 0#64) true (fun _ _ => false) s
/-- MUNPIN: of the handle word only Ver and Slot count; its Status, Stale and reserved bits are not looked at (R169; DESIGN
CHOICE, log entry 126). -/
def execMunpin (m : Bool) (b a : R6) (s : State) :=
  mboxPost m .munpin a [b] (fun s l => s.reg l b) false (fun _ _ => false) s
def execMreclaim (m : Bool) (b a : R6) (s : State) :=
  mboxPost m .mreclaim a [b] (fun s l => s.reg l b) false (fun s l => fld (s.reg l b) 63 48 != 0) s

end Sys2Proof.Machine
end

