-- ==== Sys2Proof/Machine/EngWords.lean ====
section
/-! DEFINITION. Engine instructions: copies, leases, Wain and Tender commands, status words and the queues of a core (chapters
13 and 15). -/

namespace Sys2Proof.Machine

/-! ### Records, counters and locks (R328, R331, R146) -/

/-- The block of `n` registers that starts at gA. -/
def blockRegs (a : R6) (n : Nat) : List R6 := (List.range n).map fun i => a + BitVec.ofNat 6 i

/-- The record an engine instruction reads. -/
def State.block (s : State) (l : Nat) (a : R6) (n : Nat) : List W64 := (blockRegs a n).map (s.reg l)

/-- Reserved bits and scopes of a tag word; `tend` admits field Cl (R331). -/
def tagBad (t : W64) (tend : Bool) : Bool :=
  fld t 63 28 != 0 || (!tend && fld t 27 16 != 0) || fld t 4 0 != 0 || decide (5 < fld t 7 5)

/-- The counter's address is checked as an 8-byte store (R331, R269). -/
def State.checkCtr (s : State) (l : Nat) (en : Bool) (k : Nat) : State × Except Flt (Option Ctr) :=
  if !en then (s, .ok none)
  else
    let a := (s.core l).cbase + BitVec.ofNat 64 (8 * k)
    match s.check l { acc := .write, n := 8, align := 8, only := fun k => k == 0 || k == 1 || k == 6 } a with
    | (s, .error f) => (s, .error f)
    | (s, .ok t) => (s, .ok (some { home := t.home, key := t.key, va := a }))

def State.checkTag (s : State) (l : Nat) (t : W64) : State × Except Flt (Option Ctr) :=
  s.checkCtr l (bit t 14) (fld t 13 8)

/-- Writes of the thread that an engine command follows (R144). -/
def Core.writesOut (c : Core) : List Nat := (c.acc.filter fun a => a.party == .ctl && a.kind.counts).map (·.n)

/-- Room for `n` more entries of 128. -/
def Core.lockRoom (c : Core) (n : Nat) : Bool := decide (c.rlk.length + n ≤ 128)

/-- A command of the running firing, its record read, with the next operation number. -/
def Core.command (c : Core) (l fn : Nat) (recs : List W64) (cl : Nat) (fmt : FmtCtx) (ctr : Option Ctr) : EngCmd :=
  { fn := fn, recs := recs, word := c.curWord, op := c.accNext, part := c.part, ctx := c.ctx, mode := c.mode
    waits := c.writesOut, ctr := ctr, cl := cl, fmt := fmt, owner := c.owner l
    team := match c.curWk with | some w => w.team | none => 0 }

/-! ### COPY and COPYT (R332, R333) -/

/-- Check 1 of R333. -/
def cpBad (r : List W64) : Bool :=
  fld (rw r 3) 26 24 != 0 || decide (5 < fld (rw r 3) 36 34) ||
    (decide (1 < cpRows r) && decide ((sintOf 24 (fld (rw r 2) 63 40)).natAbs < cpLen r))

/-- Whether core `l` has no pin on the slot of a class 0x5 source (R333); what it has reserved it has not pinned. -/
def State.unpinned (s : State) (l : Nat) (a : W64) : Bool :=
  clsOf a == 5 && !((s.obj (fld a 41 32)).pins.any fun p => p.1 == .core l && p.2.1 == fld a 19 16)

/-- Check 2 of R333 on one row after its address: its class for the Dray, and what the partition holds. -/
def State.checkRow (s : State) (l : Nat) (a : W64) (n : Nat) (wr : Bool) : Option Flt :=
  let c := s.core l
  match s.checkClass l c.part c.mode .dray wr a n with
  | some f => some f
  | none =>
    if !(s.classCond (if wr then .drayWrite else .drayRead) a n) then some (fltAt causeAccess a)
    else none

/-- Two row spans that meet in one class; every core id of a tile names the tile's LM (R17). -/
def rowsMeet (a b : W64) (n : Nat) : Bool :=
  clsOf a == clsOf b && decide (rlAddr a < rlAddr b + n) && decide (rlAddr b < rlAddr a + n)

/-- The checks of R333 in their order; the counter's home. -/
def State.checkCopy (s : State) (l : Nat) (r : List W64) : State × Except Flt (Option Ctr) :=
  let n := cpLen r
  let rows := List.range (cpRows r)
  let srcs := rows.map (cpSrc r)
  let dsts := rows.map (cpDst r)
  if cpBad r then (s, .error (flt causeReserved))
  else
    match (srcs ++ dsts).find? fun a => decide (9 ≤ clsOf a) || !(s.wellFormed a n) with
    | some a => (s, .error (fltAt causeAddress a))
    | none =>
      match (srcs.findSome? fun a => s.checkRow l a n false) <|> (dsts.findSome? fun a => s.checkRow l a n true) with
      | some f => (s, .error f)
      | none =>
        match srcs.find? (s.unpinned l) with
        | some a => (s, .error (fltAt causeMailbox a))
        | none =>
        if srcs.any fun a => dsts.any fun b => rowsMeet a b n then (s, .error (fltAt causeAccess (rw r 0)))
        else
          let sy : State × Except Flt Unit := match cpSync r with
            | none => (s, .ok ())
            | some a => match s.check l { acc := .write, n := 16, align := 16 } a with
              | (s, .error f) => (s, .error f)
              | (s, .ok _) => if fld a 47 0 + 16 ≤ 0x18000 then (s, .ok ()) else (s, .error (fltAt causeAccess a))
          match sy with
          | (s, .error f) => (s, .error f)
          | (s, .ok _) => s.checkCtr l (bit (rw r 3) 33) (fld (rw r 3) 32 27)

/-- A checked copy enters the FIFO: its ranges are locked and it is counted in cw.dseq, whose new value its field `cl` keeps
for the notice (R146, R335). -/
def Core.enterCopy (c : Core) (l : Nat) (r : List W64) (ctr : Option Ctr) : Core :=
  let e := c.command l fnCopy r 0 {} ctr
  let n := cpRows r
  { c with
    fifo := c.fifo ++ [{ e with cl := (c.dseq + 1#32).toNat }], dseq := c.dseq + 1#32, accNext := c.accNext + 1
    rlk := c.rlk ++ [spanLock c e.op true (rw r 0) (sintOf 24 (fld (rw r 2) 39 16)) n (cpLen r),
      spanLock c e.op false (rw r 1) (sintOf 24 (fld (rw r 2) 63 40)) n (cpLen r)] }

def execCopy (m : Bool) (a : R6) (s : State) :=
  issue { array := true, names := blockRegs a 4, reads := blockRegs a 4 } m s fun s l =>
    let r := s.block l a 4
    match s.checkCopy l r with
    | (s, .error f) => .trap s f
    | (s, .ok ctr) =>
      let c := s.core l
      if 16 ≤ c.fifo.length || !(c.lockRoom 2) then .stall s else .done (s.setCore l (c.enterCopy l r ctr))

def execCopyt (m : Bool) (a d : R6) (s : State) :=
  issue { array := true, names := d :: blockRegs a 4, reads := blockRegs a 4 } m s fun s l =>
    let r := s.block l a 4
    match s.checkCopy l r with
    | (s, .error f) => .trap s f
    | (s, .ok ctr) =>
      let c := s.core l
      if 16 ≤ c.fifo.length then .done (s.setReg l d 1#64)
      else if !(c.lockRoom 2) then .done (s.setReg l d 2#64)
      else .done ((s.setCore l (c.enterCopy l r ctr)).setReg l d 0#64)

/-! ### Leases (R336 to R338) -/

/-- The clusters whose Wain or Tender a core may command: its own, or a Grove cluster its partition has seized. -/
def State.mayCommand (s : State) (l cl : Nat) : Bool :=
  cl == clusterOf l || (isClearing l && cl < 0x80 && s.seizedBy (s.core l).part.toNat cl)

/-- The checks of a lease request. -/
def State.checkLease (s : State) (l : Nat) (v : W64) : Option Flt :=
  if fld v 33 12 ≠ 0 then some (flt causeReserved)
  else if !(s.mayCommand l (fld v 11 0)) then some (flt causeAccess)
  else if (s.leaseOf l).isSome || s.clusters.any fun c => c.2.waiters.any (·.core == l) then some (flt causeWain)
  else none

def execWlease (m : Bool) (a d : R6) (s : State) :=
  issue { array := true, names := [a, d], reads := [a] } m s fun s l =>
    let v := s.reg l a
    match (s.core l).wait with
    | .got x _ => .done (s.setReg l d x)
    | .refused f => .trap s f
    | .sent _ => .stall s
    | .none =>
      match s.checkLease l v with
      | some f => .trap s f
      | none =>
        let (s, tag) := s.newTag l
        awaitReply (s.updClu (fld v 11 0) fun c => { c with waiters := c.waiters ++ [{ core := l, spec := v, tag := tag }] }) l tag

/-- WLEASET: granted when the Wain is free, which in a seized cluster it is once no tile is a Grove core's (R338). -/
def execWleaset (m : Bool) (a d : R6) (s : State) :=
  issue { array := true, names := [a, d], reads := [a] } m s fun s l =>
    let v := s.reg l a
    let cl := fld v 11 0
    match s.checkLease l v with
    | some f => .trap s f
    | none =>
      let s := s.cleanSeized cl
      let r := s.leaseRank cl l
      let kept := (s.clu cl).seized.isSome && !((s.clu cl).holders true).isEmpty
      let higher := (s.clu cl).waiters.any fun w => match s.leaseRank cl w.core, r with
        | some x, some y => decide (x < y)
        | _, _ => false
      if r.isNone || (s.clu cl).lease.isSome || kept || higher then .done (s.setReg l d (1#64 <<< 63))
      else
        let s := s.grantLease cl l v
        .done (s.setReg l d (BitVec.ofNat 64 ((s.clu cl).holdMask l)))

def execWrel (m : Bool) (a : R6) (s : State) :=
  issue { array := true, names := [a], reads := [a] } m s fun s l =>
    let v := s.reg l a
    if fld v 63 16 ≠ 0 then .trap s (flt causeReserved)
    else
      let s := match s.leaseOf l with
        | some (cl, _) => s.endLease cl
        | none => s
      match (s.core l).wlast with
      | some cl => .done (s.updClu cl fun c => c.freeTiles l (fld v 15 0))
      | none => .done s

/-! ### Wain commands (R337, R339, R340, R344 to R348) -/

/-- The format context a new command of a core works under: that of its last WFMT still queued, else the one in force. -/
def State.nextFmt (s : State) (l cl : Nat) : FmtCtx :=
  match ((s.core l).qm.filter fun e => e.fn == fnWfmt && e.cl == cl).getLast? with
  | some e => e.fmt
  | none => (s.clu cl).fmtOf l

/-- Check 5 of R340: a lease that has not accepted its Cmd commands, and every tile held (R337, R338, log entry 63). -/
def State.leaseBad (s : State) (l : Nat) (tiles : List Nat) : Bool :=
  match s.leaseOf l with
  | none => true
  | some (cl, x) =>
    decide (x.cmds ≤ x.accepted) ||
      tiles.any fun t => kfind (s.clu cl).holder t != some l

/-- A span that is not well formed, and then a class or a holding that the engine may not use: orders 3 and 4 of R340. -/
def State.spanFault (s : State) (l : Nat) (p : Party) (wr : Bool) (spans : List (W64 × Nat)) : Option Flt :=
  let c := s.core l
  match spans.find? fun x => decide (9 ≤ clsOf x.1) || !(s.wellFormed x.1 x.2) with
  | some x => some (fltAt causeAddress x.1)
  | none => spans.findSome? fun x => s.checkClass l c.part c.mode p wr x.1 x.2

/-- Queues a command whose checks 1 to 5 passed: check 6, then room in the queue and in the lock table. -/
def State.queueCmd (s : State) (l : Nat) (e : EngCmd) (locks : List RLock) (tend : Bool) : Out :=
  match s.checkTag l e.tag with
  | (s, .error f) => .trap s f
  | (s, .ok ctr) =>
    let c := s.core l
    if 16 ≤ (if tend then c.qe else c.qm).length || !(c.lockRoom locks.length) then .stall s
    else
      let e := { e with ctr := ctr }
      let c := { c with rlk := c.rlk ++ locks, accNext := c.accNext + 1 }
      .done (s.setCore l (if tend then { c with qe := c.qe ++ [e] } else { c with qm := c.qm ++ [e] }))

/-- A command for the Wain a core last leased. -/
def State.wainCmd (s : State) (l fn : Nat) (r : List W64) : EngCmd :=
  let c := s.core l
  let cl := c.wlast.getD (clusterOf l)
  c.command l fn r cl (s.nextFmt l cl) none

/-- The source ranges of a WMMA or WSTEP: one for each operand, whatever its mask selects (R146). -/
def EngCmd.sources (e : EngCmd) (c : Core) : List RLock :=
  let one (k : Nat) (st : Int) : RLock := spanLock c e.op true (e.stepAddr k) st 32 (e.stepBytes k)
  if e.fn = fnWmma then
    [one 0 (stride24 (rw e.recs 3) 63), one 32 (stride24 (rw e.recs 3) 39)]
  else [one 0 (stride24 (rw e.recs 1) 63)]

/-- WFMT's format word and scales: reserved values (R339). -/
def fmtBad (v g : W64) : Bool :=
  let a := fld v 4 0
  fld v 63 21 != 0 || fld v 11 10 == 3 || decide (256 < fld v 20 12) || !(pairLegal a (fld v 9 5) (fld v 11 10)) ||
    (a != 18 && a != 19 && g != 0#64)

def fmtWord (v g : W64) : FmtCtx :=
  { a := BitVec.ofNat 5 (fld v 4 0), b := BitVec.ofNat 5 (fld v 9 5), acc := BitVec.ofNat 2 (fld v 11 10)
    n := if fld v 20 12 = 0 then 64 else fld v 20 12, tA := BitVec.ofNat 32 (fld g 31 0), tB := BitVec.ofNat 32 (fld g 63 32) }

def execWfmt (m : Bool) (b a : R6) (s : State) :=
  issue { array := true, names := [a, b], reads := [a, b] } m s fun s l =>
    let v := s.reg l a
    let g := s.reg l b
    if fmtBad v g then .trap s (flt causeReserved)
    else
      match s.leaseOf l with
      | none => .trap s (flt causeWain)
      | some (cl, _) =>
        if 0x80 ≤ cl ∧ !(clearingPair (fld v 4 0) (fld v 9 5) (fld v 11 10)) then .trap s (flt causeFormat)
        else
          let c := s.core l
          if 16 ≤ c.qm.length then .stall s
          else
            let e := c.command l fnWfmt [v, g] cl (fmtWord v g) none
            .done (s.setCore l { c with qm := c.qm ++ [e], accNext := c.accNext + 1 })

def execWmma (m : Bool) (a : R6) (s : State) :=
  issue { array := true, names := blockRegs a 5, reads := blockRegs a 5 } m s fun s l =>
    let r := s.block l a 5
    let e := s.wainCmd l fnWmma r
    let k := pairK e.fmt.a.toNat e.fmt.b.toNat
    if fld (rw r 3) 2 0 ≠ 0 ∨ k < fld (rw r 3) 15 7 ∨ (e.fmt.acc = 2#2 ∧ bit (rw r 3) 6) ∨ tagBad (rw r 4) false then
      .trap s (flt causeReserved)
    else if (rw r 0).toNat % 32 ≠ 0 ∨ (rw r 1).toNat % 32 ≠ 0 ∨ fld (rw r 3) 63 40 % 32 ≠ 0 ∨ fld (rw r 3) 39 16 % 32 ≠ 0 then
      .trap s (flt causeAlign)
    else
      match s.spanFault l .wain false e.spans with
      | some f => .trap s f
      | none =>
        if s.leaseBad l e.tiles then .trap s (flt causeWain) else s.queueCmd l e (e.sources (s.core l)) false

def execWzero (m : Bool) (a : R6) (s : State) :=
  issue { array := true, names := blockRegs a 2, reads := blockRegs a 2 } m s fun s l =>
    let r := s.block l a 2
    let e := s.wainCmd l fnWzero r
    let pairs := (List.range 8).all fun t => bit (rw r 0) (2 * t) == bit (rw r 0) (2 * t + 1)
    if fld (rw r 0) 63 24 ≠ 0 ∨ (if e.fmt.acc = 2#2 then !pairs else fld (rw r 0) 23 16 != 0) ∨ tagBad (rw r 1) false then
      .trap s (flt causeReserved)
    else if s.leaseBad l e.tiles then .trap s (flt causeWain)
    else s.queueCmd l e [] false

def execWstep (m : Bool) (a : R6) (s : State) :=
  issue { array := true, names := blockRegs a 3, reads := blockRegs a 3 } m s fun s l =>
    let r := s.block l a 3
    let e := s.wainCmd l fnWstep r
    if bit (rw r 1) 39 ∨ fld (rw r 1) 35 33 = fld (rw r 1) 38 36 ∨ tagBad (rw r 2) false then .trap s (flt causeReserved)
    else if fld (rw r 1) 63 40 % 32 ≠ 0 then .trap s (flt causeAlign)
    else
      match s.spanFault l .wain false e.spans with
      | some f => .trap s f
      | none =>
        if e.fmt.acc ≠ 2#2 ∨ s.leaseBad l e.tiles then .trap s (flt causeWain)
        else s.queueCmd l e (e.sources (s.core l)) false

def execWnorm (m : Bool) (a : R6) (s : State) :=
  issue { array := true, names := blockRegs a 2, reads := blockRegs a 2 } m s fun s l =>
    let r := s.block l a 2
    let e := s.wainCmd l fnWnorm r
    if fld (rw r 0) 63 35 ≠ 0 ∨ tagBad (rw r 1) false then .trap s (flt causeReserved)
    else if s.leaseBad l e.tiles then .trap s (flt causeWain)
    else s.queueCmd l e [] false

/-- WRETRY needs a lease on the Wain that holds the core's stopped command (R348). -/
def execWretry (m : Bool) (s : State) :=
  issue { array := true } m s fun s l =>
    let c := s.core l
    match s.leaseOf l with
    | none => .trap s (flt causeWain)
    | some (cl, _) =>
      if !(bit c.rowprog 63) || !((s.clu cl).wain.any fun w => w.stopped && w.core == l) then .trap s (flt causeWain)
      else if 16 ≤ c.qm.length then .stall s
      else
        let e := c.command l fnWretry [] cl {} none
        .done (s.setCore l { c with qm := c.qm ++ [e], accNext := c.accNext + 1 })

/-- The status word of a Wain for a core (R352). -/
def State.wstatWord (s : State) (l : Nat) : W64 :=
  let c := s.core l
  let cl := c.wlast.getD (clusterOf l)
  let k := s.clu cl
  let left := match s.leaseOf l with
    | some (_, x) => x.cmds - x.accepted
    | none => 0
  let pend := k.wain.countP fun w => w.core == l && !w.stopped && !w.internal
  mkWord [(63, b2n (s.leaseOf l).isSome), (62, b2n (bit c.rowprog 63)), (61, b2n c.wdrop),
    (60, b2n (s.clusters.any fun x => x.2.waiters.any (·.core == l))), (48, cl), (41, left), (34, pend % 128),
    (16, k.holdMask l)]

def execWstat (m : Bool) (d : R6) (s : State) :=
  issue { array := true, names := [d] } m s fun s l =>
    let v := s.wstatWord l
    .done ((s.updCore l fun c => { c with wdrop := false }).setReg l d v)

/-! ### TEPI and TSTAT (R349, R351, R352) -/

/-- Check 1 of a TEPI under a context. -/
def tpBad (r : List W64) (fmt : FmtCtx) : Bool :=
  let o := tpOut r
  let s40 := fmt.acc == 2#2
  fld (rw r 3) 24 0 != 0 || o == 0x10 || decide (0x11 < o) ||
    (rw r 1 != 0#64 && !(bit (rw r 3) 29) && !(bit (rw r 3) 30)) || (s40 && (bit (rw r 3) 34 || !(tpRed r))) ||
    (tpRed r && fld (rw r 3) 63 40 != 0) || tagBad (rw r 4) true

def execTepi (m : Bool) (a : R6) (s : State) :=
  issue { array := true, names := blockRegs a 5, reads := blockRegs a 5 } m s fun s l =>
    let r := s.block l a 5
    let cl := fld (rw r 4) 27 16
    let c := s.core l
    let fmt := s.nextFmt l cl
    let e := c.command l fnTepi r cl fmt none
    if tpBad r fmt then .trap s (flt causeReserved)
    else if (rw r 0).toNat % 4 ≠ 0 ∨ fld (rw r 3) 63 40 % 4 ≠ 0 then .trap s (flt causeAlign)
    else
      match s.spanFault l .tender true (tpSpans r) with
      | some f => .trap s f
      | none =>
        if !(s.mayCommand l cl) then .trap s (flt causeAccess)
        else if e.tiles.any fun t => kfind (s.clu cl).holder t != some l then .trap s (flt causeWain)
        else
          s.queueCmd l e [spanLock c e.op false (rw r 0) (stride24 (rw r 3) 63) 32 (4 * wainWidth (tpOut r))] true

/-- The status word of the Tender of a core's cluster (R352). -/
def State.tstatWordOf (s : State) (l : Nat) : W64 :=
  let k := s.clu (clusterOf l)
  let pend := (s.core l).qe.countP (fun e => e.fn == fnTepi && e.cl == clusterOf l) + k.tender.countP (·.core == l)
  mkWord [(40, pend % 256), (0, (kget k.tdone l 0#16).toNat)]

def execTstat (m : Bool) (d : R6) (s : State) :=
  issue { array := true, names := [d] } m s fun s l => .done (s.setReg l d (s.tstatWordOf l))

/-! ### QPUSH and QPOP (R292, R330) -/

/-- A marker joins an engine queue; while the core holds no lease it posts one for the Wain at once, if qms has room. -/
def pushMarker (tend : Bool) (v : W64) (s : State) (l : Nat) : Out :=
  let c := s.core l
  let body := lowBits v 60
  if !tend && (s.leaseOf l).isNone && decide (c.qms.length < 16) then
    .done (s.setCore l { c with qms := c.qms ++ [body] })
  else if 16 ≤ (if tend then c.qe else c.qm).length then .stall s
  else
    let e : EngCmd := { fn := fnMarker, recs := [body], op := c.accNext }
    let c := { c with accNext := c.accNext + 1 }
    .done (s.setCore l (if tend then { c with qe := c.qe ++ [e] } else { c with qm := c.qm ++ [e] }))

def execQpush (m : Bool) (q a : R6) (s : State) :=
  issue { array := true, names := [a], reads := [a] } m s fun s l =>
    let v := s.reg l a
    let c := s.core l
    if q.toNat = 2 then pushMarker false v s l
    else if q.toNat = 4 then pushMarker true v s l
    else
      let room := decide (c.seq.qv.length + c.acc.countP (fun a => a.st == .issued && a.kind == .qpush 0) < 16)
      if !room || c.outFull 1 || c.relFull then .stall s
      else .done (s.issueAcc l (localAcc .ctl (.qpush 0) 0 v true false))

def execQpop (m : Bool) (q d : R6) (s : State) :=
  issue { array := true, long := true, names := [d] } m s fun s l =>
    let k := (s.core l).accNext
    let n := q.toNat
    .done ((s.issueAcc l (localAcc .ctl (.qpop n) n 0#64 false (n == 1))).holdResult l { dest := .reg d, waits := [k] })

end Sys2Proof.Machine
end

