-- ==== Sys2Proof/Machine/EngEvents.lean ====
section
/-! DEFINITION. What the engines do on their own: copies, lease grants, Wain commands, markers and epilogues (chapters 2, 3
and 15). -/

namespace Sys2Proof.Machine

def EngCmd.ready (e : EngCmd) (c : Core) : Bool := e.waits.all fun n => (c.accNo n).isNone

/-! ### Copies (R333 to R335, R64) -/

/-- Destination units of a row: its aligned pieces of at most 64 bytes. -/
def rowUnits (a : W64) (n : Nat) : Nat := (a.toNat % 64 + n + 63) / 64

def copyTotal (r : List W64) : Nat :=
  ((List.range (cpRows r)).map fun i => rowUnits (cpDst r i) (cpLen r)).foldl (· + ·) 0

/-- The row, offset in the row and length of a unit. -/
def unitAt (r : List W64) : Nat → Nat → Nat → Option (Nat × Nat × Nat)
  | 0, _, _ => none
  | fuel + 1, i, u =>
    let n := rowUnits (cpDst r i) (cpLen r)
    if u < n then
      let h := (cpDst r i).toNat % 64
      let lo := 64 * u - h
      some (i, lo, min (64 * (u + 1) - h) (cpLen r) - lo)
    else unitAt r fuel (i + 1) (u - n)

def EngCmd.unit (e : EngCmd) (u : Nat) : Option (Nat × Nat × Nat) := unitAt e.recs (cpRows e.recs) 0 u

/-- DRAY_TAKE_COPY. -/
def State.drayTake (s : State) (l : Nat) : State :=
  let c := s.core l
  match c.fifo with
  | [] => s
  | e :: t =>
    if c.copies.length < 1024 ∧ e.ready c then
      s.setCore l { c with fifo := t, copies := c.copies ++ [{ cmd := e, sq := e.cl, total := copyTotal e.recs }] }
    else s

def pageKey (row : Nat) (dst : Bool) (va : Nat) : Nat := (2 * row + b2n dst) * 2 ^ 36 + va / 4096

def Copy.page (c : Copy) (row : Nat) (dst : Bool) (va : Nat) : Option CopyPage :=
  c.pages.find? fun p => p.key == pageKey row dst va

/-- Where a byte of a row lies: a class 0x0 byte by its translated page. -/
def State.copyHome (s : State) (c : Copy) (row : Nat) (dst : Bool) (a : W64) : Home × Nat × Bool :=
  if clsOf a = 0 then
    match c.page row dst (fld a 47 0) with
    | some p => (.mem, p.ent.pa + fld a 47 0 % 2 ^ p.ent.size, p.ent.na)
    | none => (.mem, 0, false)
  else ((s.homeOf a).1, (s.homeOf a).2, false)

/-- Translates the page of an address of a copy, unless it has been; what that leaves is settled later. -/
def State.copyXlat (s : State) (l : Nat) (c : Copy) (row : Nat) (dst : Bool) (a : W64) :
    State × Except Flt (Copy × List (XAcc × XOk)) :=
  if clsOf a ≠ 0 ∨ (c.page row dst (fld a 47 0)).isSome then (s, .ok (c, []))
  else
    let acc : XAcc := if dst then .drayWrite else .drayRead
    match s.xlate l c.cmd.part c.cmd.ctx c.cmd.mode acc (fld a 47 0) with
    | (s, .error f) => (s, .error (xlatFlt f acc c.cmd.ctx a))
    | (s, .ok r) =>
      (s, .ok ({ c with pages := { key := pageKey row dst (fld a 47 0), ent := r.ent } :: c.pages }, [(acc, r)]))

/-- Where the second page of a span that crosses one begins. -/
def nextPage (a : W64) : W64 := a + BitVec.ofNat 64 (4096 - a.toNat % 4096)

/-- The read of a unit's source: the lines of class 0x0, page by page, or the words where they lie; how far from the unit's
first byte the first bad line or word begins, if a read meets an error (R72, R115). -/
def State.unitTouch (s : State) (c : Copy) (row : Nat) (a : W64) (len : Nat) : State × Option Int :=
  let (h, k, na) := s.copyHome c row false a
  if h = .foreign then (s, none)
  else if h = .mem then
    let n1 := min len (4096 - k % 4096)
    match s.hwTouchSpan c.cmd.part c.cmd.ctx na true (k / 64) (spanLines k n1) with
    | (s, true) => (s, some 0)
    | (s, false) =>
      if n1 = len then (s, none)
      else
        let (_, k2, na2) := s.copyHome c row false (nextPage a)
        match s.hwTouchSpan c.cmd.part c.cmd.ctx na2 true (k2 / 64) (spanLines k2 (len - n1)) with
        | (s, e) => (s, if e then some n1 else none)
  else s.eccSpan k len

/-- Translation of the pages that the bytes of a unit lie on: from `a` at its source, from `b` at its destination. -/
def State.unitXlat (s : State) (l : Nat) (c : Copy) (row : Nat) (a b : W64) (len : Nat) :
    State × Except Flt (Copy × List (XAcc × XOk)) :=
  match s.copyXlat l c row false a with
  | (s, .error f) => (s, .error f)
  | (s, .ok (c, r1)) =>
    match (if a.toNat % 4096 + len ≤ 4096 then (s, .ok (c, [])) else s.copyXlat l c row false (nextPage a)) with
    | (s, .error f) => (s, .error f)
    | (s, .ok (c, r2)) =>
      match s.copyXlat l c row true b with
      | (s, .error f) => (s, .error f)
      | (s, .ok (c, r3)) => (s, .ok (c, r1 ++ r2 ++ r3))

/-- Translation reaches unit `u`: the pages its bytes lie on, at the lowest byte of each, and then the lines and words that it
reads and the line that its write allocates (R58, R72, R115, R334). A unit that meets a fault leaves no AF and no D. One whose
payload object has been disabled since takes the address fault (R160). -/
def State.copyReach (s : State) (l : Nat) (c : Copy) (u : Nat) : State × Except Flt Copy :=
  match c.cmd.unit u with
  | none => (s, .ok c)
  | some (row, off, len) =>
    let a := cpSrc c.cmd.recs row + BitVec.ofNat 64 off
    let b := cpDst c.cmd.recs row + BitVec.ofNat 64 off
    if clsOf a = 5 ∧ objEn (s.objCfg (fld a 41 32)) = false then (s, .error (fltAt causeAddress a))
    else
      match s.unitXlat l c row a b len with
      | (s, .error f) => (s, .error f)
      | (s, .ok (c, rs)) =>
        match s.unitTouch c row a len with
        | (s, some d) => (s, .error (fltAt causeData (eccAddr a d)))
        | (s, none) =>
          let (h, k, na) := s.copyHome c row true b
          match (if h = .mem then s.hwTouchW c.cmd.part c.cmd.ctx na k else (s, false)) with
          | (s, true) => (s, .error (fltAt causeData b))
          | (s, false) => (rs.foldl (fun s r => s.settle l c.cmd.part c.cmd.ctx r.1 r.2) s, .ok c)

/-- Translation goes on in order to unit `u`; a fault ends the copy before the unit that met it (R334). -/
def State.copyTo (s : State) (l : Nat) (c : Copy) : Nat → State × Copy
  | 0 => (s, c)
  | k + 1 =>
    if c.cause.isSome then (s, c)
    else
      match s.copyReach l c c.xl with
      | (s, .error f) => (s, { c with cause := some f, total := c.xl })
      | (s, .ok c) => s.copyTo l { c with xl := c.xl + 1 } k

def Core.putCopy (c : Core) (x : Copy) : Core :=
  { c with copies := c.copies.map fun y => if y.sq = x.sq then x else y }

/-- CountIn (R92): Gen advances once for each whole Target. A sync word that shows a double-bit error is left (R72). -/
def State.countIn (s : State) (tile off n : Nat) : State × Option Int :=
  match s.eccSpan (lmKey tile off) 16 with
  | (s, some d) => (s, some d)
  | (s, none) =>
  let w0 := s.lm64 tile off
  let w1 := s.lm64 tile (off + 8)
  let target := fld w0 47 0
  let cnt := min (fld w1 47 0 + n) (2 ^ 48 - 1)
  let adv := if target = 0 then 0 else cnt / target
  ((s.setLm tile (off + 8) 8 (mkWord [(48, (fld w1 63 48 + adv) % 2 ^ 16), (0, cnt - adv * target)]).toNat).reevalTile tile, none)

/-- Bytes of the aligned unit that an engine reads at once at a home: a port word of LM or of a typed buffer, 64 bytes of the
mailbox memory (R71, R78, R157); 0 where the spec gives none. -/
def Home.readUnit : Home → Nat
  | .lm _ | .mbm => 64
  | .wbuf _ => 256
  | .abuf _ => 128
  | .mem | .sram | .ctl | .foreign | .inCore | .ws _ => 0

/-- The key of unit `u` of a row's source, as a copy keeps it. -/
def lineKey (row u : Nat) : Nat := row * 2 ^ 64 + u

/-- A copy reads an aligned unit of a row's source at once, when it first comes to it (R71, R78, R157). -/
def State.readLines (s : State) (c : Copy) (row : Nat) (h : Home) (k n : Nat) : Copy :=
  let w := h.readUnit
  if w = 0 then c
  else
    (List.range ((k + n - 1) / w - k / w + 1)).foldl (fun (c : Copy) i =>
      let u := k / w + i
      if (kfind c.lines (lineKey row u)).isSome then c
      else { c with lines := kput c.lines (lineKey row u) ((List.range w).map fun j => s.homeByte h (w * u + j)) }) c

/-- The bytes of a unit at their source. -/
def State.unitBytes (s : State) (c : Copy) (row : Nat) (a : W64) (len : Nat) : List Byte :=
  if clsOf a = 8 then s.hostRead (fld a 57 57 == 1) (fld a 56 0) len
  else
    (List.range len).map fun i =>
      let (h, k, _) := s.copyHome c row false (a + BitVec.ofNat 64 i)
      match (if h.readUnit = 0 then none else kfind c.lines (lineKey row (k / h.readUnit))) with
      | some bs => bs.getD (k % h.readUnit) 0#8
      | none => s.homeByte h k

/-- Writes a unit at its destination. -/
def State.unitWrite (s : State) (h : Home) (k : Nat) (b : W64) (bs : List Byte) : State :=
  match h with
  | .mem => s.cohWriteLine k bs
  | .foreign => if s.flw && fld b 57 57 == 0 then s else s.hostWrite (fld b 57 57 == 1) (fld b 56 0) bs
  | h => (s.setHome h k bs).afterWrite h

/-- Performs a translated unit and counts it into the sync word (R92, R334); a sync word that cannot be read is the copy's
fault, once the units translated so far are performed. -/
def State.unitDo (s : State) (c : Copy) (u row off len : Nat) : State × Copy :=
  let r := c.cmd.recs
  let a := cpSrc r row + BitVec.ofNat 64 off
  let b := cpDst r row + BitVec.ofNat 64 off
  let (h, k, _) := s.copyHome c row true b
  let (sh, sk, _) := s.copyHome c row false a
  let c := s.readLines c row sh sk len
  let s := s.unitWrite h k b (s.unitBytes c row a len)
  let c := { c with units := u :: c.units }
  match cpSync r with
  | none => (s, c)
  | some x =>
    match s.countIn (tileOf (fld x 59 48)) (fld x 47 0) len with
    | (s, none) => (s, c)
    | (s, some d) => (s, { c with cause := c.cause <|> some (fltAt causeData (eccAddr x d)), total := min c.total c.xl })

/-- The first home that a unit needs and that takes no accesses now (R394, R411, R423). -/
def State.unitAsleep (s : State) (c : Copy) (row off len : Nat) : Option Home :=
  let r := c.cmd.recs
  let d := s.copyHome c row true (cpDst r row + BitVec.ofNat 64 off)
  let f := s.copyHome c row false (cpSrc r row + BitVec.ofNat 64 off)
  let hs := [(d.1, d.2.1, len), (f.1, f.2.1, len)] ++
    (match cpSync r with | some x => [((s.homeOf x).1, (s.homeOf x).2, 16)] | none => [])
  (hs.find? fun h => !(s.homeReady c.cmd.part h.1 h.2.1 h.2.2)).map (·.1)

/-- Bytes of a port word of a destination: a typed buffer takes one at a time (R78). -/
def portWord (b : W64) : Nat := if clsOf b = 3 then 256 else if clsOf b = 4 then 128 else 64

/-- The units of a copy that are performed together with unit `u`: those of its row in one port word. -/
def EngCmd.portMates (e : EngCmd) (u : Nat) : List Nat :=
  match e.unit u with
  | none => [u]
  | some (row, off, _) =>
    let b := cpDst e.recs row + BitVec.ofNat 64 off
    let w := portWord b
    (((List.range 7).filter fun k => decide (3 ≤ u + k)).map (u + · - 3)).filter fun v => v = u || match e.unit v with
      | some (r, o, _) => r == row && (cpDst e.recs r + BitVec.ofNat 64 o).toNat / w == b.toNat / w
      | none => false

/-- Performs those of a list of units that may be. -/
def State.unitsDo (s : State) (c : Copy) : List Nat → State × Copy
  | [] => (s, c)
  | u :: t =>
    match c.cmd.unit u with
    | some (row, off, len) =>
      if c.total ≤ u || c.units.contains u then s.unitsDo c t
      else
        match s.unitDo c u row off len with
        | (s, c) => s.unitsDo c t
    | none => s.unitsDo c t

/-- DRAY_UNIT_PERFORM of unit `u` of the copy numbered `sq`, with the others of its port word. The last one frees the locks of
a copy that names no counter and met no fault (R148). -/
def State.drayUnit (s : State) (l sq u : Nat) : State :=
  match (s.core l).copies.find? (·.sq == sq) with
  | none => s
  | some c =>
    if c.told || c.total ≤ u || c.units.contains u then s
    else
      let us := c.cmd.portMates u
      let (s, c) := s.copyTo l c (us.foldl max u + 1 - c.xl)
      let s := s.updCore l fun k => k.putCopy c
      match c.cmd.unit u with
      | some (row, off, len) =>
        match s.unitAsleep c row off len with
        | some h => s.wakeHome h
        | none =>
          match s.unitsDo c us with
          | (s, c) => s.updCore l fun k =>
              let k := k.putCopy c
              if c.quiet && c.cmd.ctr.isNone && c.cause.isNone then k.freeLocks c.cmd.op else k
      | none => s

/-- The notice of a copy (R335). -/
def Copy.notice (c : Copy) : W64 :=
  mkWord [(63, b2n c.cause.isSome), (48, match c.cause with | some f => f.code.toNat | none => 0), (0, c.sq)]

/-- The completion of a copy is signalled: counter, locks and fault at once (R148, R334). -/
def State.copySignal (s : State) (l : Nat) (c : Copy) : State :=
  let s := (s.counterPost (c.cmd.add l 1)).updCore l fun k => if c.cmd.ctr.isNone then k.freeLocks c.cmd.op else k
  match c.cause with
  | some f => s.deferFlt l c.cmd.owner c.cmd.part (engFlt f 1 c.cmd)
  | none => s

/-- DRAY_COPY_COMPLETE: the completion is signalled once the counter's home takes the increment, so that the copy is outstanding
until then (R41, R95); the notice follows once qd has room (R335). -/
def State.drayComplete (s : State) (l sq : Nat) : State :=
  match (s.core l).copies.find? (·.sq == sq) with
  | none => s
  | some c =>
    if !c.quiet then s
    else
      match (if c.told then none else s.ctrAsleep (c.cmd.add l 1)) with
      | some h => s.wakeHome h
      | none =>
        let s := if c.told then s else s.copySignal l c
        let ntf := bit (rw c.cmd.recs 3) 37
        if ntf && decide (16 ≤ (s.core l).qd.length) then s.updCore l fun k => k.putCopy { c with told := true }
        else
          s.updCore l fun k =>
            { k with
              copies := k.copies.filter (·.sq != sq), qd := if ntf then k.qd ++ [c.notice] else k.qd }

/-! ### Leases (R336 to R338, R398) -/

/-- LEASE_GRANT: a free Wain grants the request that is next. -/
def State.leaseGrant (s : State) (cl : Nat) : State :=
  if (s.clu cl).lease.isSome then s
  else if !(s.cluLive cl) then s.wakeHome (.wbuf cl)
  else
    let s := s.cleanSeized cl
    if (s.clu cl).seized.isSome && !((s.clu cl).holders true).isEmpty then s
    else
      match s.nextGrant cl with
      | some r =>
        let s := s.grantLease cl r.core r.spec
        s.reply r.core r.tag (.got (BitVec.ofNat 64 ((s.clu cl).holdMask r.core)) 0#64)
      | none => s

/-- LEASE_BOUND_EXPIRY. -/
def State.leaseBound (s : State) (cl : Nat) : State :=
  match (s.clu cl).lease with
  | some x => if x.until_.toNat ≤ s.time.toNat then s.endLease cl else s
  | none => s

/-! ### Wain commands (R65 to R68, R343, R345) -/

def meets (xs ys : List Nat) : Bool := xs.any ys.contains

/-- Whether a Wain takes the command at the head of a core's queue now. -/
def State.mayAccept (s : State) (cl l : Nat) (e : EngCmd) : Bool :=
  let c := s.core l
  let mine := match (s.clu cl).lease with
    | some x => x.core == l && (!e.counted || decide (x.accepted < x.cmds))
    | none => false
  e.fn != fnMarker && e.cl == cl && e.ready c && decide (c.qms.length ≤ 16) &&
    (mine || e.fn == fnWfmt) &&
    !(c.qe.any fun t => t.fn == fnTepi && t.cl == cl && decide (t.op < e.op) && meets t.tiles e.tiles)

/-- A Wain accepts a command: a format context is set, a stopped command resumes, any other waits its turn. -/
def Cluster.accept (c : Cluster) (l : Nat) (e : EngCmd) : Cluster :=
  if e.fn = fnWfmt then { c with fmt := kput c.fmt l e.fmt }
  else if e.fn = fnWretry then
    { c with wain := c.wain.map fun w =>
        if w.core = l ∧ w.stopped then { w with stopped := false, resumed := true } else w }
  else
    match c.lease with
    | some x =>
      { c with
        lease := some { x with accepted := x.accepted + 1 }
        wain := c.wain ++ [{ core := l, cmd := e, index := x.accepted }] }
    | none => c

/-- WAIN_COMMAND_ACCEPT. -/
def State.wainAccept (s : State) (cl : Nat) : State :=
  if !(s.cluLive cl) then s.wakeHome (.wbuf cl)
  else
    match s.cores.find? fun x => match x.2.qm with
      | e :: _ => s.mayAccept cl x.1 e
      | [] => false with
    | some (l, c) =>
      match c.qm with
      | e :: t => (s.setCore l { c with qm := t }).updClu cl fun k => k.accept l e
      | [] => s
    | none => s

/-- The read of a step, page by page for class 0x0, with the translations to settle; the fault says whether it stops the
command (translation) or ends it. -/
def State.pipeRead (s : State) (w : WCmd) : Nat → W64 → Nat → State × Except Flt (List Byte × List XOk)
  | 0, _, _ => (s, .ok ([], []))
  | fuel + 1, a, n =>
    if n = 0 then (s, .ok ([], []))
    else
      let e := w.cmd
      let k := min n (4096 - fld a 47 0 % 4096)
      match s.xlate w.core e.part e.ctx e.mode .wainPipe (fld a 47 0) with
      | (s, .error f) => (s, .error (xlatFlt f .wainPipe e.ctx a))
      | (s, .ok r) =>
        match s.hwTouchSpan e.part e.ctx r.na true (r.pa / 64) (spanLines r.pa k) with
        | (s, true) => (s, .error (fltAt causeData a))
        | (s, false) =>
          let bs := s.cohBytes r.pa k
          match s.pipeRead w fuel (a + BitVec.ofNat 64 k) (n - k) with
          | (s, .error f) => (s, .error f)
          | (s, .ok (t, rs)) => (s, .ok (bs ++ t, r :: rs))

/-- The accumulator field of cw.rowprog for a command. -/
def EngCmd.accField (e : EngCmd) : Nat := if e.fn = fnWmma then fld (rw e.recs 3) 6 3 else fld (rw e.recs 1) 38 36

/-- A translation fault stops a command at a step (R66, R348). -/
def State.stopCmd (s : State) (cl : Nat) (w : WCmd) (k : Nat) (f : Flt) : State :=
  let s := s.updClu cl fun c => c.updCmd w fun x => { x with stopped := true, step := k }
  let s := s.updCore w.core fun c =>
    { c with
      rowprog := rowprogWord w.index w.cmd.accField k, faddr := f.faddr.getD c.faddr, xinfo := f.xinfo.getD c.xinfo }
  s.deferFlt w.core w.cmd.owner w.cmd.part (engFlt f 2 w.cmd)

/-- WAIN_STAGE_STEP: the next step of the active command is read; a read that faults leaves no AF (R58). -/
def State.wainStage (s : State) (cl : Nat) : State :=
  match (s.clu cl).active with
  | none => s
  | some w =>
    match w.nextStep with
    | none => s
    | some k =>
      let a := w.cmd.stepAddr k
      let n := w.cmd.stepBytes k
      let put (s : State) (bs : List Byte) : State :=
        s.updClu cl fun c => c.updCmd w fun x => { x with staged := kput x.staged k bs, step := k + 1 }
      if clsOf a = 0 then
        match s.pipeRead w 3 a n with
        | (s, .ok (bs, rs)) => put (s.settleAll w.core w.cmd.part w.cmd.ctx .wainPipe rs) bs
        | (s, .error f) => if f.code = causeXlat then s.stopCmd cl w k f else s.failCmd cl w f
      else
        let (h, key) := s.homeOf a
        if !(s.homeReady w.cmd.part h key n) then s.wakeHome h
        else
          match s.eccSpan key n with
          | (s, some d) => s.failCmd cl w (fltAt causeData (eccAddr a d))
          | (s, none) => put s ((List.range n).map fun i => s.homeByte h (key + i))

/-- WAIN_COMMAND_RETIRE of the active command, whose steps are all staged. -/
def State.wainRetire (s : State) (cl : Nat) : State :=
  match (s.clu cl).active with
  | none => s
  | some w =>
    if !w.inMac || w.internal then s
    else
      match s.macBegin cl with
      | some s => s.finishCmd cl w
      | none => s

/-- WAIN_RAMP_STEP. -/
def State.rampStep (s : State) (cl : Nat) : State :=
  let c := s.clu cl
  if c.ramp < 4 ∧ 125 ≤ (s.time - c.rampAt).toNat then s.updClu cl fun c => { c with ramp := c.ramp + 1, rampAt := s.time } else s

/-- AUTO_RENORMALISE: the internal command after an N-th WSTEP. -/
def State.autoNorm (s : State) (cl : Nat) : State :=
  match (s.clu cl).active with
  | some w => if w.internal then s.retireCmd cl w else s
  | none => s

/-! ### Markers (R330) -/

/-- MARKER_POST: an engine reaches a marker once the core's earlier commands are done, or wait behind one that is stopped,
whose WRETRY may follow the marker (R348); or the core posts the first one in qm when no lease is held. A word posted to a full status queue is the one its engine holds: it takes nothing more of that core then. -/
def State.markerPost (s : State) (l : Nat) (tend : Bool) : State :=
  let c := s.core l
  let isMark (e : EngCmd) : Bool := e.fn == fnMarker
  if tend then
    match c.qe with
    | [] => s
    | e :: t =>
      if !(isMark e) || (s.clusters.any fun x => x.2.tender.any (·.core == l)) || decide (16 < c.qes.length) then s
      else s.setCore l { c with qe := t, qes := c.qes ++ [rw e.recs 0] }
  else
    let mine := s.clusters.flatMap fun x => x.2.wain.filter fun w => w.core == l && !w.internal
    let free := (s.leaseOf l).isNone
    let busy := !free && !mine.isEmpty && !(mine.any (·.stopped))
    match (if free then c.qm.find? isMark else c.qm.head?) with
    | none => s
    | some e =>
      if !(isMark e) || busy || decide (16 < c.qms.length) then s
      else s.setCore l { c with qm := c.qm.erase e, qms := c.qms ++ [rw e.recs 0] }

/-! ### The Tender (R349 to R351) -/

def tpTile (e : EngCmd) : Nat := if e.fmt.acc = 2#2 then fld (rw e.recs 3) 33 31 else fld (rw e.recs 3) 34 31

/-- The exact value of an element of a command's tile under its accumulator. -/
def Cluster.elemVal (c : Cluster) (e : EngCmd) (i j : Nat) : Val :=
  let t := tpTile e
  if e.fmt.acc = 0#2 then decodeF F32 (c.el32 t i j).toNat
  else if e.fmt.acc = 1#2 then ofInt (c.el32 t i j).toInt
  else
    let (qs, ex) := c.s40Row t i
    s40Val (qs.getD j 0#40) ex

/-- The output of an element, or under Red of a row (R350); an integer into a narrower integer format saturates as R252
says. -/
def Cluster.tepiElem (c : Cluster) (e : EngCmd) (row x : Nat) : FRes :=
  let r := e.recs
  let out := tpOut r
  let act := fld (rw r 3) 28 27
  let scl := if bit (rw r 3) 29 then some (decodeF F32 (fld (rw r 1) 31 0)) else none
  let bias := if bit (rw r 3) 30 then some (decodeF F32 (fld (rw r 1) 63 32)) else none
  let f :=
    if tpRed r then
      let ps := (tpCols r).map fun j => match scl with
        | some k => vMul (c.elemVal e x j) k
        | none => (c.elemVal e x j, false)
      let (v, inv) := match ps with
        | [] => (Val.fin false 0 0, false)
        | p :: t => t.foldl (fun (a : Val × Bool) (q : Val × Bool) => let (v, b) := vAdd a.1 q.1; (v, a.2 || q.2 || b)) p
      let f := tepiValue out act none bias v
      if inv then { f with flags := f.flags ||| fNV } else f
    else tepiValue out act scl bias (c.elemVal e row x)
  if e.fmt.acc = 1#2 ∧ scl.isNone ∧ bias.isNone ∧ 9 ≤ out ∧ out ≤ 14 ∧ f.flags = fNV then
    { f with flags := 0#5, sat := true }
  else f

/-- Clr: the selected elements become zero; an S40 row keeps its exponent. -/
def Cluster.tepiClear (c : Cluster) (e : EngCmd) : Cluster :=
  if !(bit (rw e.recs 3) 26) then c
  else
    let t := tpTile e
    let cols := tpCols e.recs
    (tpRows e.recs).foldl (fun (c : Cluster) i =>
      if e.fmt.acc = 2#2 then
        let (qs, ex) := c.s40Row t i
        c.setS40Row t i ((qs.zipIdx).map fun q => if cols.contains q.2 then 0#40 else q.1) ex
      else cols.foldl (fun (c : Cluster) j => c.setEl32 t i j 0#32) c) c

/-- Whether the Tender may take the TEPI at the head of a core's queue: its writes before are acknowledged, and the Wain
commands before it on its tile have retired or been dropped (R144, R343). -/
def State.tepiReady (s : State) (cl l : Nat) (e : EngCmd) : Bool :=
  let c := s.core l
  let before (x : EngCmd) : Bool := x.counted && x.cl == cl && decide (x.op < e.op) && meets x.tiles e.tiles
  e.fn == fnTepi && e.cl == cl && e.ready c && decide (c.qes.length ≤ 16) && !(c.qm.any before) &&
    !((s.clu cl).wain.any fun w => w.core == l && (before w.cmd || (w.internal && meets w.cmd.tiles e.tiles)))

/-- The core whose TEPI is served next, round-robin. -/
def State.tepiNext (s : State) (cl : Nat) : Option (Nat × EngCmd) :=
  let dist (l : Nat) : Nat := (l + 0x1000 - (s.clu cl).tlast - 1) % 0x1000
  let ready := s.cores.filterMap fun x => match x.2.qe with
    | e :: _ => if s.tepiReady cl x.1 e then some (x.1, e) else none
    | [] => none
  ready.foldl (fun (b : Option (Nat × EngCmd)) x => match b with
    | none => some x
    | some y => if dist x.1 < dist y.1 then some x else some y) none

/-- TENDER_COMMAND_ACCEPT: the tile is read. -/
def State.tenderAccept (s : State) (cl : Nat) : State :=
  if !(s.cluLive cl) then s.wakeHome (.abuf cl)
  else if !(s.clu cl).tender.isEmpty then s
  else
    match s.tepiNext cl with
    | none => s
    | some (l, e) =>
      let c := s.clu cl
      let s := s.updCore l fun k => { k with qe := k.qe.drop 1 }
      if e.tiles.any (accParity s cl) then
        s.setClu cl { c with tlast := l, tender := [{ core := l, cmd := e, cause := some (flt causeData) }] }
      else
        let rs := (tpPlaces e.recs).flatMap fun p => p.2.map fun x => (p.1, x, c.tepiElem e p.1 x)
        s.setClu cl { c.tepiClear e with
          tlast := l
          tender := [{ core := l, cmd := e, out := rs.map fun x => (x.1, x.2.1, x.2.2.code)
                       flags := rs.map fun x => (x.2.2.flags, x.2.2.sat) }] }

/-- Writes the selected bits of one byte (R351). -/
def State.mergeByte (s : State) (h : Home) (k mask val : Nat) : State :=
  let old := (s.homeByte h k).toNat
  s.setHomeByte h k (BitVec.ofNat 8 (Nat.lor (Nat.land old (255 ^^^ mask)) val))

/-- Where the Tender last wrote: the page of addresses and of memory it had translated, NA, the line it had touched, and
whether that line's channel has failed, so that the write of it is dropped (R122). -/
structure TendAt where
  va : Nat
  pa : Nat
  na : Bool
  line : Option Nat := none
  gone : Bool := false

/-- The page of an address as the Tender writes it: translated when it is not the one before (R54, R64). -/
def State.tepiPage (s : State) (l : Nat) (e : EngCmd) (x : W64) (at_ : Option TendAt) : State × Except Flt TendAt :=
  let va := fld x 47 0
  match at_ with
  | some p =>
    if p.va = va / 4096 then (s, .ok p)
    else
      match s.translate l e.part e.ctx e.mode .tenderWrite va with
      | (s, .error f) => (s, .error (xlatFlt f .tenderWrite e.ctx x))
      | (s, .ok r) => (s, .ok { va := va / 4096, pa := r.pa / 4096, na := r.na })
  | none =>
    match s.translate l e.part e.ctx e.mode .tenderWrite va with
    | (s, .error f) => (s, .error (xlatFlt f .tenderWrite e.ctx x))
    | (s, .ok r) => (s, .ok { va := va / 4096, pa := r.pa / 4096, na := r.na })

/-- Writes bytes of an output row, by index, mask and value: class 0x0 page by page, each line touched once (R104). -/
def State.tepiBytes (s : State) (l : Nat) (e : EngCmd) (a : W64) :
    List (Nat × Nat × Nat) → Option TendAt → State × Option Flt
  | [], _ => (s, none)
  | (i, mask, val) :: t, at_ =>
    let x := a + BitVec.ofNat 64 i
    if clsOf x ≠ 0 then ((s.mergeByte (s.homeOf x).1 (s.homeOf x).2 mask val)).tepiBytes l e a t none
    else
      match s.tepiPage l e x at_ with
      | (s, .error f) => (s, some f)
      | (s, .ok p) =>
        let pa := 4096 * p.pa + x.toNat % 4096
        let step (s : State) (gone : Bool) : State := if gone then s else s.mergeByte .mem pa mask val
        if p.line = some (pa / 64) then (step s p.gone).tepiBytes l e a t (some p)
        else
          match s.hwTouchW e.part e.ctx p.na pa with
          | (s, true) => (s, some (fltAt causeData x))
          | (s, false) =>
            let gone := s.chanFailed pa && (s.wayOf pa).isNone
            (step (if gone then s.countUncorr pa else s) gone).tepiBytes l e a t (some { p with line := some (pa / 64), gone := gone })

/-- The bytes of an output row that hold selected bits: index, mask, value. -/
def rowBytes (w : Nat) (els : List (Nat × Nat)) : List (Nat × Nat × Nat) :=
  let mask := els.foldl (fun m x => Nat.lor m ((2 ^ w - 1) <<< (w * x.1))) 0
  let val := els.foldl (fun v x => Nat.lor v ((x.2 % 2 ^ w) <<< (w * x.1))) 0
  ((List.range (4 * w)).map fun i => (i, mask >>> (8 * i) % 256, val >>> (8 * i) % 256)).filter fun x => x.2.1 != 0

/-- Writes the output rows in order, to the first fault. -/
def State.tepiRows (s : State) (l : Nat) (t : TCmd) : List Nat → State × Option Flt
  | [] => (s, none)
  | i :: rest =>
    let els := (t.out.filter fun x => x.1 == i).map (·.2)
    match s.tepiBytes l t.cmd (tpRowAddr t.cmd.recs i) (rowBytes (wainWidth (tpOut t.cmd.recs)) els) none with
    | (s, some f) => (s, some f)
    | (s, none) => s.tepiRows l t rest

/-- TEPI_RETIRE: the writes, then counter, locks, status and events (R145, R148, R329 to R331). -/
def State.tepiRetire (s : State) (cl : Nat) : State :=
  match (s.clu cl).tender with
  | [] => s
  | t :: rest =>
    let l := t.core
    let e := t.cmd
    match (tpSpans e.recs).find? fun x => clsOf x.1 != 0 && !(s.homeReady e.part (s.homeOf x.1).1 (s.homeOf x.1).2 x.2) with
    | some x => s.wakeHome (s.homeOf x.1).1
    | none =>
      let done : State × Option Flt := match t.cause with
        | some f => (s, some f)
        | none => s.tepiRows l t ((tpPlaces e.recs).map (·.1))
      let s := done.1
      let f := done.2
      let s := (tpSpans e.recs).foldl (fun (s : State) (x : W64 × Nat) => if clsOf x.1 = 0 then s else s.afterWrite (s.homeOf x.1).1) s
      let s := s.updClu cl fun c => { c with tender := rest, tdone := kput c.tdone l (kget c.tdone l 0#16 + 1#16) }
      let s := (s.counterPost (e.add l 3)).countElems l evIntSat t.flags
      let s := s.updCore l fun c =>
        let c := if e.ctr.isNone then c.freeLocks e.op else c
        if e.rpt then { c with qes := c.qes ++ [statusWord (if f.isSome then 3 else 1) fnTepi 0] } else c
      match f with
      | some f => s.deferFlt l e.owner e.part (engFlt f 3 e)
      | none => s

/-! ### Accumulator storage (R81) -/

/-- A station-mode read of byte offset `off` of a cluster's accumulator storage. -/
def State.accumRead (s : State) (cl off : Nat) : State :=
  if cl < 0x84 ∧ off < 0x10000 then (s.ctlRead Writer.stn (0xE00 + cl) (0xC00000 + off) 4).1 else s

/-! ### Exit from retention (R411, R412) -/

/-- Whether a copy waits for a cluster: a unit that is not performed has a home there, or its counter lies there. -/
def State.copyWaits (s : State) (l : Nat) (c : Copy) (cl : Nat) : Bool :=
  let r := c.cmd.recs
  let there (h : Home) : Bool := h.cluster == some cl
  ((List.range c.total).any fun u => !(c.units.contains u) && (match c.cmd.unit u with
    | none => false
    | some (row, off, _) =>
      there (s.copyHome c row true (cpDst r row + BitVec.ofNat 64 off)).1 ||
        there (s.copyHome c row false (cpSrc r row + BitVec.ofNat 64 off)).1 ||
        (match cpSync r with | some x => there (s.homeOf x).1 | none => false))) ||
    (match c.cmd.add l 1 with | some x => there x.ctr.home | none => false)

/-- Whether the firing of a workspace comes to its end by itself, though a cluster takes nothing: it is not held, its core stalls
at no word, and nothing that the core has issued waits for the cluster. -/
def State.firingGoes (s : State) (cl : Nat) (w : Nat × Wk) : Bool :=
  let c := s.core w.1
  (w.2.st == .running || w.2.st == .interrupted) && c.wait == .none && c.intr.all (·.wait == .none) &&
    c.acc.all (fun a => !(a.st == .issued && a.home.cluster == some cl)) &&
    s.net.all fun p => !(p.src == w.1 && isGrove p.dst && clusterOf p.dst == cl)

/-- Whether the rest of a team comes to its end by itself, though a cluster takes nothing. -/
def State.teamGoes (s : State) (cl t : Nat) : Bool :=
  ((s.teamWks t).filter (·.2.firing)).all (s.firingGoes cl) &&
    s.cores.all fun c => (c.2.copies.filter (·.cmd.team == t)).all fun y => !(s.copyWaits c.1 y cl)

/-- Whether a team that a lost cluster ends is still to complete before the cluster is reinitialised (R412 step 3). What waits
for the cluster itself, or is stalled or held elsewhere, holds nothing up: its team completes after (DESIGN CHOICE, log entry
142). -/
def State.losing (s : State) (cl : Nat) : Bool :=
  (s.cluWks cl).any fun w => match kfind s.teams w.2.team with
    | some x => x.st == .ended && s.teamGoes cl w.2.team
    | none => false

/-- RETENTION_EXIT: parity decides; a lost cluster is reinitialised once the teams of its actors have completed (R412). -/
def State.exitCluster (s : State) (cl : Nat) (ok : Bool) : State :=
  let back (s : State) : State := if s.losing cl then s else (s.wipeCluster cl).backInService cl true
  match (s.clu cl).ret with
  | .active => s
  | .reinit => back s
  | .entering | .retained | .exiting => if ok then s.backInService cl false else back (s.loseCluster cl)

end Sys2Proof.Machine
end

