-- ==== Sys2Proof/WellFormed.lean ====
section
/-! DEFINITION. The checks on the values of an instruction's fields that R229 makes at orders 1 and 2: reserved
subfield values, scopes, sizes, register pairs, vector fields, ranges that pass the last register. A word that fails one
raises the illegal-instruction fault. -/

namespace Sys2Proof

/-- Scope codes 000 to 101 (R127). -/
def scopeOk (s : BitVec 3) : Bool := s.toNat ≤ 5

/-- Rounding-mode codes 000 to 011 (R223). -/
def modeOk (r : BitVec 3) : Bool := r.toNat ≤ 3

/-- A register pair field: even, 2 to 62 (R214). -/
def pairOk (n : BitVec 6) : Bool := n.toNat % 2 == 0 && 2 ≤ n.toNat

/-- A vector source field: v0 to v31 or c0 to c7 (R214). -/
def vsrcOk (n : BitVec 6) : Bool := n.toNat < 40

/-- A vector destination field: v0 to v31 (R214, R229). -/
def vregOk (n : BitVec 6) : Bool := n.toNat < 32

/-- A record block of k registers that starts at gA (R328). -/
def blockOk (a : BitVec 6) (k : Nat) : Bool := 1 ≤ a.toNat && a.toNat + k ≤ 64

/-- FCVT codes: unequal, and not both integers (R223). -/
def fcvtOk (s t : BitVec 3) : Bool := s != t && (s.toNat < 4 || t.toNat < 4)

/-- A field of `k + 1` bits from bit `n` stays within the register (R259, R261). -/
def runOk (n k : Nat) : Bool := n + k < 64

/-- The RPUT family's scope: a plain write has scope bits 000 (R225). -/
def rputOk (r : BitVec 1) (s : BitVec 3) : Bool := if r = 1#1 then scopeOk s else s = 0#3

/-- Whether a constructor is an instruction word; the others are events and have no word. -/
def Instr.isWord : Instr → Bool
  | .park .. => false
  | .accessPerform .. => false
  | .cacheFill .. => false
  | .acknowledgement .. => false
  | .heldReleasePerform .. => false
  | .translationWalk .. => false
  | .tlbinvComplete .. => false
  | .cmoComplete .. => false
  | .channelFailure .. => false
  | .hotModeEnter .. => false
  | .hotModeExit .. => false
  | .dramWindowEnd .. => false
  | .messageArrival .. => false
  | .credit .. => false
  | .remoteWriteArrival .. => false
  | .forwardEndMarker .. => false
  | .timerTick .. => false
  | .firingStart .. => false
  | .runQueueAging .. => false
  | .priority0Interrupt .. => false
  | .watchdogExpiry .. => false
  | .atomicHandler .. => false
  | .amsgHandlerRun .. => false
  | .sendRetry .. => false
  | .spawnAllocate .. => false
  | .drayTakeCopy .. => false
  | .drayUnitPerform .. => false
  | .drayCopyComplete .. => false
  | .leaseGrant .. => false
  | .leaseBoundExpiry .. => false
  | .wainCommandAccept .. => false
  | .wainStageStep .. => false
  | .wainCommandRetire .. => false
  | .autoRenormalise .. => false
  | .markerPost .. => false
  | .tepiRetire .. => false
  | .wainRampStep .. => false
  | .mreadvDeadline .. => false
  | .mirrorApply .. => false
  | .proxyAccess .. => false
  | .w2SramWrite .. => false
  | .w2SramRead .. => false
  | .w2UnmappedAccess .. => false
  | .w2PayloadWrite .. => false
  | .w2PayloadRead .. => false
  | .w2Mpub .. => false
  | .w2Mcommit .. => false
  | .w2Mread .. => false
  | .w2StampRead .. => false
  | .w2Munpin .. => false
  | .w1Notify .. => false
  | .w1QueueConfigWrite .. => false
  | .notifyBoundExpiry .. => false
  | .teamComplete .. => false
  | .slotGuardStart => false
  | .slotEdge => false
  | .debtTimeEnd => false
  | .donationIdle => false
  | .seizeLendWatchdog .. => false
  | .preemptEstimate .. => false
  | .preemptDrain .. => false
  | .preemptDiscard .. => false
  | .preemptSave .. => false
  | .preemptComplete => false
  | .teamResume .. => false
  | .vfReset .. => false
  | .vfResetTimeout .. => false
  | .deviceReset => false
  | .migrationPrecopy .. => false
  | .migrationStopping .. => false
  | .migrationAbandon .. => false
  | .migrationResuming .. => false
  | .migrationRestore .. => false
  | .migrationDataRead => false
  | .migrationDataWrite .. => false
  | .retentionEntry .. => false
  | .retentionExit .. => false
  | .powerEstimate .. => false
  | .allowanceCompute => false
  | .opPointChange .. => false
  | .sensorSample .. => false
  | .throttleRise .. => false
  | .heartbeatSend => false
  | .heartbeatArrival => false
  | .heartbeatTimeout => false
  | .demoteArrival .. => false
  | .mirroredW2Write .. => false
  | .spareLinkTrain => false
  | .spareLinkLoss => false
  | .promote => false
  | .followerEnter => false
  | .ptmExchange .. => false
  | .bootCommand .. => false
  | .attestationNonceWrite .. => false
  | .capabilityKeyInstall .. => false
  | .coreRetire .. => false
  | .errorLogClear => false
  | .memoryConfigWrite .. => false
  | .wayMaskWrite .. => false
  | .slotWayWrite .. => false
  | .contextEntryWrite .. => false
  | .lockedSramRangeWrite .. => false
  | .windowWrite .. => false
  | .limitWrite .. => false
  | .dramShareWrite .. => false
  | .objectEnable .. => false
  | .objectDisable .. => false
  | .clearPins .. => false
  | .cancelReservation .. => false
  | .objectMapWrite .. => false
  | .routeWordWrite .. => false
  | .intervalWrite .. => false
  | .slotTableEnable .. => false
  | .slotTableDisable .. => false
  | .deviceStateRun .. => false
  | .deviceStateRetain .. => false
  | .deviceStateGroveoff .. => false
  | .thermalLimitsWrite .. => false
  | .powerStatusClear .. => false
  | .accumulatorRead .. => false
  | .pfErrorLogClear => false
  | .apertureWrite .. => false
  | .controlWordWrite .. => false
  | .swaitDeadline .. => false
  | .powerLoss => false
  | .heldFiringRequest .. => false
  | .forkRecruitment .. => false
  | .tenderCommandAccept .. => false
  | _ => true

/-- The checks of R229 orders 1 and 2 on the fields of an instruction word. -/
def Instr.wf : Instr → Bool
  | .bfx _ p l _ _ => runOk p.toNat l.toNat
  | .bfxs _ p l _ _ => runOk p.toNat l.toNat
  | .bfi _ p l _ _ => runOk p.toNat l.toNat
  | .btst _ n k _ _ => runOk n.toNat k.toNat
  | .bset _ n k _ _ => runOk n.toNat k.toNat
  | .bclr _ n k _ _ => runOk n.toNat k.toNat
  | .binv _ n k _ _ => runOk n.toNat k.toNat
  | .lda _ z s c _ _ => scopeOk c && !(z = 3#2 && s = 1#1)
  | .stl _ _ c _ _ => scopeOk c
  | .dead _ n a => a.toNat + n.toNat ≤ 63
  | .frint _ _ r _ _ => modeOk r
  | .fcvt _ s t r _ _ => fcvtOk s t && modeOk r
  | .vadd _ b a d _ => vsrcOk b && vsrcOk a && vregOk d
  | .vsub _ b a d _ => vsrcOk b && vsrcOk a && vregOk d
  | .vmul _ b a d _ => vsrcOk b && vsrcOk a && vregOk d
  | .vmulh _ b a d _ => vsrcOk b && vsrcOk a && vregOk d
  | .vand _ b a d _ => vsrcOk b && vsrcOk a && vregOk d
  | .vor _ b a d _ => vsrcOk b && vsrcOk a && vregOk d
  | .vxor _ b a d _ => vsrcOk b && vsrcOk a && vregOk d
  | .vsll _ b a d _ => vsrcOk b && vsrcOk a && vregOk d
  | .vsrl _ b a d _ => vsrcOk b && vsrcOk a && vregOk d
  | .vsra _ b a d _ => vsrcOk b && vsrcOk a && vregOk d
  | .vmin _ b a d _ => vsrcOk b && vsrcOk a && vregOk d
  | .vmax _ b a d _ => vsrcOk b && vsrcOk a && vregOk d
  | .vminn _ b a d _ => vsrcOk b && vsrcOk a && vregOk d
  | .vmaxn _ b a d _ => vsrcOk b && vsrcOk a && vregOk d
  | .vadds _ b a d _ => vsrcOk b && vsrcOk a && vregOk d
  | .vsubs _ b a d _ => vsrcOk b && vsrcOk a && vregOk d
  | .vceq _ b a d _ => vsrcOk b && vsrcOk a && vregOk d
  | .vclt _ b a d _ => vsrcOk b && vsrcOk a && vregOk d
  | .vcltn _ b a d _ => vsrcOk b && vsrcOk a && vregOk d
  | .vsel _ b a d _ => vsrcOk b && vsrcOk a && vregOk d
  | .vfadd _ _ b a d _ => vsrcOk b && vsrcOk a && vregOk d
  | .vfsub _ _ b a d _ => vsrcOk b && vsrcOk a && vregOk d
  | .vfmul _ _ b a d _ => vsrcOk b && vsrcOk a && vregOk d
  | .vfdiv _ _ b a d _ => vsrcOk b && vsrcOk a && vregOk d
  | .vfsqrt _ _ a d _ => vsrcOk a && vregOk d
  | .vfmin _ _ b a d _ => vsrcOk b && vsrcOk a && vregOk d
  | .vfmax _ _ b a d _ => vsrcOk b && vsrcOk a && vregOk d
  | .vfmac _ _ b a d _ => vsrcOk b && vsrcOk a && vregOk d
  | .vfneg _ _ a d _ => vsrcOk a && vregOk d
  | .vfabs _ _ a d _ => vsrcOk a && vregOk d
  | .vfeq _ _ b a d _ => vsrcOk b && vsrcOk a && vregOk d
  | .vflt _ _ b a d _ => vsrcOk b && vsrcOk a && vregOk d
  | .vfle _ _ b a d _ => vsrcOk b && vsrcOk a && vregOk d
  | .vfrint _ _ a d _ => vsrcOk a && vregOk d
  | .vfexp2f _ _ a d _ => vsrcOk a && vregOk d
  | .vfscale _ _ b a d _ => vsrcOk b && vsrcOk a && vregOk d
  | .vcvt _ s t r a d => s != t && modeOk r && vsrcOk a && vregOk d
  | .vld _ _ a d => vsrcOk a && vregOk d
  | .vlds _ _ b a d => vsrcOk b && vsrcOk a && vregOk d
  | .vgath _ _ b a d => vsrcOk b && vsrcOk a && vregOk d
  | .vst _ _ a d => vsrcOk a && vregOk d
  | .vsts _ _ b a d => vsrcOk b && vsrcOk a && vregOk d
  | .vscat _ _ b a d => vsrcOk b && vsrcOk a && vregOk d
  | .vredAdd _ _ a d => vsrcOk a && vregOk d
  | .vredMin _ _ a d => vsrcOk a && vregOk d
  | .vredMax _ _ a d => vsrcOk a && vregOk d
  | .vredMinn _ _ a d => vsrcOk a && vregOk d
  | .vredMaxn _ _ a d => vsrcOk a && vregOk d
  | .vredFadd _ _ a d => vsrcOk a && vregOk d
  | .vperm _ _ b a d => vsrcOk b && vsrcOk a && vregOk d
  | .vrev _ _ a d => vsrcOk a && vregOk d
  | .vbcast _ _ a d => vsrcOk a && vregOk d
  | .vslide _ _ b a d => vsrcOk b && vsrcOk a && vregOk d
  | .vqpop _ _ d => vregOk d
  | .vqpush _ _ a => vregOk a
  | .vloop _ _ d => vregOk d
  | .atmSwap _ _ _ _ _ _ s => scopeOk s
  | .atmAdd _ _ _ _ _ _ s => scopeOk s
  | .atmAddz _ _ _ _ _ s => scopeOk s
  | .atmAnd _ _ _ _ _ _ s => scopeOk s
  | .atmOr _ _ _ _ _ _ s => scopeOk s
  | .atmXor _ _ _ _ _ _ s => scopeOk s
  | .atmMax _ _ _ _ _ _ s => scopeOk s
  | .atmCas _ _ _ _ _ _ s => scopeOk s
  | .arm _ k d => 1 ≤ d.toNat && d.toNat + k.toNat ≤ 63
  | .armK _ k d => 1 ≤ d.toNat && d.toNat + k.toNat ≤ 63
  | .mintc _ _ d => pairOk d
  | .amsg _ b _ k => pairOk b && k.toNat ≤ 14
  | .maskc _ k => k.toNat ≤ 14
  | .unmaskc _ k => k.toNat ≤ 14
  | .qpush _ q _ => q.toNat = 0 || q.toNat = 2 || q.toNat = 4
  | .qpop _ q _ => q.toNat = 1 || q.toNat = 3 || q.toNat = 5 || q.toNat = 6
  | .flgset _ n => n.toNat ≤ 15
  | .flgclr _ n => n.toNat ≤ 15
  | .flgtst _ n _ => n.toNat ≤ 15
  | .waitge _ s _ _ => scopeOk s
  | .rput _ r s _ a _ => rputOk r s && pairOk a
  | .rputt _ r s _ a _ => rputOk r s && pairOk a
  | .fence _ _ s => scopeOk s
  | .mpub _ _ d => pairOk d
  | .mread _ _ d => pairOk d
  | .mreadv _ b _ d => pairOk b && pairOk d
  | .copy _ a => blockOk a 4
  | .copyt _ a _ => blockOk a 4
  | .wlease _ a _ => blockOk a 1
  | .wleaset _ a _ => blockOk a 1
  | .wrel _ a => blockOk a 1
  | .wfmt _ _ a => blockOk a 1
  | .wmma _ a => blockOk a 5
  | .wzero _ a => blockOk a 2
  | .wstep _ a => blockOk a 3
  | .wnorm _ a => blockOk a 2
  | .tepi _ a => blockOk a 5
  | .tretHeld _ _ a _ => a != 0#6
  | .cwr _ n _ => n.toNat ≤ 47
  | .cww _ n _ => n.toNat ≤ 47
  | .seize _ a _ => pairOk a
  | .cede _ a => pairOk a
  | .nop _ _ _ h => h != 1#6 && h != 2#6
  | i => i.isWord

end Sys2Proof
end

