-- ==== Sys2Proof/Decode.lean ====
section
/-! DEFINITION. The decoder, total on any word and rejecting by name, and after it the encoder; both are written from the
encoding tables R212 to R226 and the rows of the opcode table. A word is cut once into the six fields at which every
format of R212 is cut. -/

namespace Sys2Proof

/-- Why a word is no instruction. All of these are the illegal-instruction fault of R229. -/
inductive DecodeError where
  /-- order 1: the major opcode is reserved (R221) -/
  | reservedMajor (major : BitVec 7)
  /-- order 1 or 2: the fn6 or fn3 is reserved, or a field that must be zero is not (R221 to R226) -/
  | reservedEncoding (major : BitVec 7)
  /-- order 1 or 2: a reserved subfield value, scope, size, pair or vector field (R229) -/
  | illFormed
  deriving DecidableEq, Repr

/-- The six fields and the switch marker of a word (R212). -/
structure Fields where
  m : Bool
  /-- bits 30:25 -/
  f : BitVec 6
  /-- bits 24:19 -/
  b : BitVec 6
  /-- bits 18:13 -/
  a : BitVec 6
  /-- bits 12:7 -/
  d : BitVec 6
  /-- bits 6:0, the major opcode -/
  op : BitVec 7
  deriving DecidableEq, Repr

/-- Cutting a word into its fields (R212). -/
def Fields.ofWord (w : BitVec 32) : Fields where
  m := w.getLsbD 31
  f := w.extractLsb' 25 6
  b := w.extractLsb' 19 6
  a := w.extractLsb' 13 6
  d := w.extractLsb' 7 6
  op := w.extractLsb' 0 7

/-- The word of six fields (R212). -/
def Fields.toWord (x : Fields) : BitVec 32 :=
  BitVec.ofBool x.m ++ x.f ++ x.b ++ x.a ++ x.d ++ x.op

/-- Major opcodes 0x01 (R221 to R226). -/
def decodeMajor01 (x : Fields) : Option Instr :=
  if x.f == 0x00#6 then some (.add x.m x.b x.a x.d)
  else if x.f == 0x01#6 then some (.sub x.m x.b x.a x.d)
  else if x.f == 0x02#6 then some (.and x.m x.b x.a x.d)
  else if x.f == 0x03#6 then some (.or x.m x.b x.a x.d)
  else if x.f == 0x04#6 then some (.xor x.m x.b x.a x.d)
  else if x.f == 0x05#6 then some (.andn x.m x.b x.a x.d)
  else if x.f == 0x06#6 then some (.sll x.m x.b x.a x.d)
  else if x.f == 0x07#6 then some (.srl x.m x.b x.a x.d)
  else if x.f == 0x08#6 then some (.sra x.m x.b x.a x.d)
  else if x.f == 0x09#6 then some (.ror x.m x.b x.a x.d)
  else if x.f == 0x0A#6 then some (.slt x.m x.b x.a x.d)
  else if x.f == 0x0B#6 then some (.sltn x.m x.b x.a x.d)
  else if x.f == 0x0C#6 then some (.seq x.m x.b x.a x.d)
  else if x.f == 0x0D#6 then some (.min x.m x.b x.a x.d)
  else if x.f == 0x0E#6 then some (.max x.m x.b x.a x.d)
  else if x.f == 0x0F#6 then some (.minn x.m x.b x.a x.d)
  else if x.f == 0x10#6 then some (.maxn x.m x.b x.a x.d)
  else if x.f == 0x11#6 then some (.mul x.m x.b x.a x.d)
  else if x.f == 0x12#6 then some (.mulh x.m x.b x.a x.d)
  else if x.f == 0x13#6 then some (.mulhn x.m x.b x.a x.d)
  else if x.f == 0x14#6 then some (.div x.m x.b x.a x.d)
  else if x.f == 0x15#6 then some (.divn x.m x.b x.a x.d)
  else if x.f == 0x16#6 then some (.rem x.m x.b x.a x.d)
  else if x.f == 0x17#6 then some (.remn x.m x.b x.a x.d)
  else if x.f == 0x18#6 && x.b == 0x00#6 then some (.clz x.m x.a x.d)
  else if x.f == 0x19#6 && x.b == 0x00#6 then some (.ctz x.m x.a x.d)
  else if x.f == 0x1A#6 && x.b == 0x00#6 then some (.popc x.m x.a x.d)
  else if x.f == 0x1B#6 then some (.adds x.m x.b x.a x.d)
  else if x.f == 0x1C#6 then some (.subs x.m x.b x.a x.d)
  else if x.f == 0x1D#6 then some (.selz x.m x.b x.a x.d)
  else if x.f == 0x1E#6 then some (.selnz x.m x.b x.a x.d)
  else if x.f == 0x1F#6 && x.b == 0x00#6 then some (.bswap x.m x.a x.d)
  else none

/-- Major opcodes 0x02 (R221 to R226). -/
def decodeMajor02 (x : Fields) : Option Instr :=
  some (.addi x.m (x.f ++ x.b) x.a x.d)

/-- Major opcodes 0x03 (R221 to R226). -/
def decodeMajor03 (x : Fields) : Option Instr :=
  some (.andi x.m (x.f ++ x.b) x.a x.d)

/-- Major opcodes 0x04 (R221 to R226). -/
def decodeMajor04 (x : Fields) : Option Instr :=
  some (.ori x.m (x.f ++ x.b) x.a x.d)

/-- Major opcodes 0x05 (R221 to R226). -/
def decodeMajor05 (x : Fields) : Option Instr :=
  some (.xori x.m (x.f ++ x.b) x.a x.d)

/-- Major opcodes 0x06 (R221 to R226). -/
def decodeMajor06 (x : Fields) : Option Instr :=
  some (.slti x.m (x.f ++ x.b) x.a x.d)

/-- Major opcodes 0x07 (R221 to R226). -/
def decodeMajor07 (x : Fields) : Option Instr :=
  some (.sltni x.m (x.f ++ x.b) x.a x.d)

/-- Major opcodes 0x08 (R221 to R226). -/
def decodeMajor08 (x : Fields) : Option Instr :=
  if x.f == 0x00#6 then some (.slli x.m x.b x.a x.d)
  else if x.f == 0x01#6 then some (.srli x.m x.b x.a x.d)
  else if x.f == 0x02#6 then some (.srai x.m x.b x.a x.d)
  else if x.f == 0x03#6 then some (.rori x.m x.b x.a x.d)
  else none

/-- Major opcodes 0x09 (R221 to R226). -/
def decodeMajor09 (x : Fields) : Option Instr :=
  some (.bfx x.m x.f x.b x.a x.d)

/-- Major opcodes 0x0A (R221 to R226). -/
def decodeMajor0A (x : Fields) : Option Instr :=
  some (.bfxs x.m x.f x.b x.a x.d)

/-- Major opcodes 0x0B (R221 to R226). -/
def decodeMajor0B (x : Fields) : Option Instr :=
  some (.bfi x.m x.f x.b x.a x.d)

/-- Major opcodes 0x0C (R221 to R226). -/
def decodeMajor0C (x : Fields) : Option Instr :=
  some (.lui x.m (x.f.extractLsb' 4 2) (x.f.extractLsb' 0 4 ++ x.b ++ x.a) x.d)

/-- Major opcodes 0x0D (R221 to R226). -/
def decodeMajor0D (x : Fields) : Option Instr :=
  some (.adpc x.m (x.f ++ x.b ++ x.a) x.d)

/-- Major opcodes 0x0E (R221 to R226). -/
def decodeMajor0E (x : Fields) : Option Instr :=
  if x.b.extractLsb' 0 3 == 0#3 && x.d == 0x00#6 then some (.grd x.m x.f (x.b.extractLsb' 3 3) x.a)
  else if x.b.extractLsb' 0 3 == 1#3 && x.d == 0x00#6 then some (.grdn x.m x.f (x.b.extractLsb' 3 3) x.a)
  else if x.b.extractLsb' 0 3 == 2#3 then some (.btst x.m x.f (x.b.extractLsb' 3 3) x.a x.d)
  else if x.b.extractLsb' 0 3 == 3#3 then some (.bset x.m x.f (x.b.extractLsb' 3 3) x.a x.d)
  else if x.b.extractLsb' 0 3 == 4#3 then some (.bclr x.m x.f (x.b.extractLsb' 3 3) x.a x.d)
  else if x.b.extractLsb' 0 3 == 5#3 then some (.binv x.m x.f (x.b.extractLsb' 3 3) x.a x.d)
  else none

/-- Major opcodes 0x10 (R221 to R226). -/
def decodeMajor10 (x : Fields) : Option Instr :=
  some (.beq x.m (x.f ++ x.d) x.b x.a)

/-- Major opcodes 0x11 (R221 to R226). -/
def decodeMajor11 (x : Fields) : Option Instr :=
  some (.bne x.m (x.f ++ x.d) x.b x.a)

/-- Major opcodes 0x12 (R221 to R226). -/
def decodeMajor12 (x : Fields) : Option Instr :=
  some (.blt x.m (x.f ++ x.d) x.b x.a)

/-- Major opcodes 0x13 (R221 to R226). -/
def decodeMajor13 (x : Fields) : Option Instr :=
  some (.bge x.m (x.f ++ x.d) x.b x.a)

/-- Major opcodes 0x14 (R221 to R226). -/
def decodeMajor14 (x : Fields) : Option Instr :=
  some (.bltn x.m (x.f ++ x.d) x.b x.a)

/-- Major opcodes 0x15 (R221 to R226). -/
def decodeMajor15 (x : Fields) : Option Instr :=
  some (.bgen x.m (x.f ++ x.d) x.b x.a)

/-- Major opcodes 0x16 (R221 to R226). -/
def decodeMajor16 (x : Fields) : Option Instr :=
  some (.bbs x.m (x.f ++ x.d) x.b x.a)

/-- Major opcodes 0x17 (R221 to R226). -/
def decodeMajor17 (x : Fields) : Option Instr :=
  some (.bbc x.m (x.f ++ x.d) x.b x.a)

/-- Major opcodes 0x18 (R221 to R226). -/
def decodeMajor18 (x : Fields) : Option Instr :=
  some (.j x.m (x.f ++ x.b ++ x.a ++ x.d))

/-- Major opcodes 0x19 (R221 to R226). -/
def decodeMajor19 (x : Fields) : Option Instr :=
  some (.jl x.m (x.f ++ x.b ++ x.a ++ x.d))

/-- Major opcodes 0x1A (R221 to R226). -/
def decodeMajor1A (x : Fields) : Option Instr :=
  some (.jlr x.m (x.f ++ x.b) x.a x.d)

/-- Major opcodes 0x1B (R221 to R226). -/
def decodeMajor1B (x : Fields) : Option Instr :=
  if x.f == 0x00#6 && x.b == 0x00#6 && x.a == 0x00#6 && x.d == 0x00#6 then some (.endF x.m)
  else if x.f == 0x01#6 && x.b == 0x00#6 && x.a == 0x00#6 && x.d == 0x00#6 then some (.yield x.m)
  else none

/-- Major opcodes 0x20 (R221 to R226). -/
def decodeMajor20 (x : Fields) : Option Instr :=
  some (.ldB x.m (x.f ++ x.b) x.a x.d)

/-- Major opcodes 0x21 (R221 to R226). -/
def decodeMajor21 (x : Fields) : Option Instr :=
  some (.ldBS x.m (x.f ++ x.b) x.a x.d)

/-- Major opcodes 0x22 (R221 to R226). -/
def decodeMajor22 (x : Fields) : Option Instr :=
  some (.ldH x.m (x.f ++ x.b) x.a x.d)

/-- Major opcodes 0x23 (R221 to R226). -/
def decodeMajor23 (x : Fields) : Option Instr :=
  some (.ldHS x.m (x.f ++ x.b) x.a x.d)

/-- Major opcodes 0x24 (R221 to R226). -/
def decodeMajor24 (x : Fields) : Option Instr :=
  some (.ldW x.m (x.f ++ x.b) x.a x.d)

/-- Major opcodes 0x25 (R221 to R226). -/
def decodeMajor25 (x : Fields) : Option Instr :=
  some (.ldWS x.m (x.f ++ x.b) x.a x.d)

/-- Major opcodes 0x26 (R221 to R226). -/
def decodeMajor26 (x : Fields) : Option Instr :=
  some (.ldD x.m (x.f ++ x.b) x.a x.d)

/-- Major opcodes 0x27 (R221 to R226). -/
def decodeMajor27 (x : Fields) : Option Instr :=
  if x.b == 0x00#6 then some (.lda x.m (x.f.extractLsb' 4 2) (x.f.extractLsb' 3 1) (x.f.extractLsb' 0 3) x.a x.d)
  else none

/-- Major opcodes 0x28 (R221 to R226). -/
def decodeMajor28 (x : Fields) : Option Instr :=
  some (.stB x.m (x.f ++ x.d) x.b x.a)

/-- Major opcodes 0x29 (R221 to R226). -/
def decodeMajor29 (x : Fields) : Option Instr :=
  some (.stH x.m (x.f ++ x.d) x.b x.a)

/-- Major opcodes 0x2A (R221 to R226). -/
def decodeMajor2A (x : Fields) : Option Instr :=
  some (.stW x.m (x.f ++ x.d) x.b x.a)

/-- Major opcodes 0x2B (R221 to R226). -/
def decodeMajor2B (x : Fields) : Option Instr :=
  some (.stD x.m (x.f ++ x.d) x.b x.a)

/-- Major opcodes 0x2C (R221 to R226). -/
def decodeMajor2C (x : Fields) : Option Instr :=
  if x.f.extractLsb' 3 1 == 0#1 && x.d == 0x00#6 then some (.stl x.m (x.f.extractLsb' 4 2) (x.f.extractLsb' 0 3) x.b x.a)
  else none

/-- Major opcodes 0x2E (R221 to R226). -/
def decodeMajor2E (x : Fields) : Option Instr :=
  if x.f == 0x00#6 && x.d == 0x00#6 then some (.dead x.m x.b x.a)
  else none

/-- Major opcodes 0x30 (R221 to R226). -/
def decodeMajor30 (x : Fields) : Option Instr :=
  if x.f.extractLsb' 0 5 == 0#5 then some (.fadd x.m (x.f.extractLsb' 5 1) x.b x.a x.d)
  else if x.f.extractLsb' 0 5 == 1#5 then some (.fsub x.m (x.f.extractLsb' 5 1) x.b x.a x.d)
  else if x.f.extractLsb' 0 5 == 2#5 then some (.fmul x.m (x.f.extractLsb' 5 1) x.b x.a x.d)
  else if x.f.extractLsb' 0 5 == 3#5 then some (.fdiv x.m (x.f.extractLsb' 5 1) x.b x.a x.d)
  else if x.f.extractLsb' 0 5 == 4#5 && x.b == 0x00#6 then some (.fsqrt x.m (x.f.extractLsb' 5 1) x.a x.d)
  else if x.f.extractLsb' 0 5 == 5#5 then some (.fmin x.m (x.f.extractLsb' 5 1) x.b x.a x.d)
  else if x.f.extractLsb' 0 5 == 6#5 then some (.fmax x.m (x.f.extractLsb' 5 1) x.b x.a x.d)
  else if x.f.extractLsb' 0 5 == 7#5 then some (.fmac x.m (x.f.extractLsb' 5 1) x.b x.a x.d)
  else if x.f.extractLsb' 0 5 == 8#5 then some (.fmsc x.m (x.f.extractLsb' 5 1) x.b x.a x.d)
  else if x.f.extractLsb' 0 5 == 9#5 && x.b == 0x00#6 then some (.fneg x.m (x.f.extractLsb' 5 1) x.a x.d)
  else if x.f.extractLsb' 0 5 == 10#5 && x.b == 0x00#6 then some (.fabs x.m (x.f.extractLsb' 5 1) x.a x.d)
  else if x.f.extractLsb' 0 5 == 11#5 then some (.fcps x.m (x.f.extractLsb' 5 1) x.b x.a x.d)
  else if x.f.extractLsb' 0 5 == 12#5 then some (.feq x.m (x.f.extractLsb' 5 1) x.b x.a x.d)
  else if x.f.extractLsb' 0 5 == 13#5 then some (.flt x.m (x.f.extractLsb' 5 1) x.b x.a x.d)
  else if x.f.extractLsb' 0 5 == 14#5 then some (.fle x.m (x.f.extractLsb' 5 1) x.b x.a x.d)
  else if x.f.extractLsb' 0 5 == 15#5 && x.b == 0x00#6 then some (.fclass x.m (x.f.extractLsb' 5 1) x.a x.d)
  else if x.f.extractLsb' 0 5 == 16#5 && x.b.extractLsb' 3 3 == 0#3 then some (.frint x.m (x.f.extractLsb' 5 1) (x.b.extractLsb' 0 3) x.a x.d)
  else if x.f.extractLsb' 0 5 == 17#5 && x.b == 0x00#6 then some (.fexp2f x.m (x.f.extractLsb' 5 1) x.a x.d)
  else if x.f.extractLsb' 0 5 == 18#5 then some (.fscale x.m (x.f.extractLsb' 5 1) x.b x.a x.d)
  else none

/-- Major opcodes 0x31 (R221 to R226). -/
def decodeMajor31 (x : Fields) : Option Instr :=
  if x.b.extractLsb' 3 3 == 0#3 then some (.fcvt x.m (x.f.extractLsb' 3 3) (x.f.extractLsb' 0 3) (x.b.extractLsb' 0 3) x.a x.d)
  else none

/-- Major opcodes 0x38, 0x39, 0x3A, 0x3B (R221 to R226). -/
def decodeMajor38 (x : Fields) : Option Instr :=
  if x.f == 0x00#6 then some (.vadd x.m x.b x.a x.d (x.op.extractLsb' 0 2))
  else if x.f == 0x01#6 then some (.vsub x.m x.b x.a x.d (x.op.extractLsb' 0 2))
  else if x.f == 0x02#6 then some (.vmul x.m x.b x.a x.d (x.op.extractLsb' 0 2))
  else if x.f == 0x03#6 then some (.vmulh x.m x.b x.a x.d (x.op.extractLsb' 0 2))
  else if x.f == 0x04#6 then some (.vand x.m x.b x.a x.d (x.op.extractLsb' 0 2))
  else if x.f == 0x05#6 then some (.vor x.m x.b x.a x.d (x.op.extractLsb' 0 2))
  else if x.f == 0x06#6 then some (.vxor x.m x.b x.a x.d (x.op.extractLsb' 0 2))
  else if x.f == 0x07#6 then some (.vsll x.m x.b x.a x.d (x.op.extractLsb' 0 2))
  else if x.f == 0x08#6 then some (.vsrl x.m x.b x.a x.d (x.op.extractLsb' 0 2))
  else if x.f == 0x09#6 then some (.vsra x.m x.b x.a x.d (x.op.extractLsb' 0 2))
  else if x.f == 0x0A#6 then some (.vmin x.m x.b x.a x.d (x.op.extractLsb' 0 2))
  else if x.f == 0x0B#6 then some (.vmax x.m x.b x.a x.d (x.op.extractLsb' 0 2))
  else if x.f == 0x0C#6 then some (.vminn x.m x.b x.a x.d (x.op.extractLsb' 0 2))
  else if x.f == 0x0D#6 then some (.vmaxn x.m x.b x.a x.d (x.op.extractLsb' 0 2))
  else if x.f == 0x0E#6 then some (.vadds x.m x.b x.a x.d (x.op.extractLsb' 0 2))
  else if x.f == 0x0F#6 then some (.vsubs x.m x.b x.a x.d (x.op.extractLsb' 0 2))
  else if x.f == 0x10#6 then some (.vceq x.m x.b x.a x.d (x.op.extractLsb' 0 2))
  else if x.f == 0x11#6 then some (.vclt x.m x.b x.a x.d (x.op.extractLsb' 0 2))
  else if x.f == 0x12#6 then some (.vcltn x.m x.b x.a x.d (x.op.extractLsb' 0 2))
  else if x.f == 0x13#6 then some (.vsel x.m x.b x.a x.d (x.op.extractLsb' 0 2))
  else none

/-- Major opcodes 0x3C, 0x3D (R221 to R226). -/
def decodeMajor3C (x : Fields) : Option Instr :=
  if x.f.extractLsb' 0 5 == 0#5 then some (.vfadd x.m (x.f.extractLsb' 5 1) x.b x.a x.d (x.op.extractLsb' 0 1))
  else if x.f.extractLsb' 0 5 == 1#5 then some (.vfsub x.m (x.f.extractLsb' 5 1) x.b x.a x.d (x.op.extractLsb' 0 1))
  else if x.f.extractLsb' 0 5 == 2#5 then some (.vfmul x.m (x.f.extractLsb' 5 1) x.b x.a x.d (x.op.extractLsb' 0 1))
  else if x.f.extractLsb' 0 5 == 3#5 then some (.vfdiv x.m (x.f.extractLsb' 5 1) x.b x.a x.d (x.op.extractLsb' 0 1))
  else if x.f.extractLsb' 0 5 == 4#5 && x.b == 0x00#6 then some (.vfsqrt x.m (x.f.extractLsb' 5 1) x.a x.d (x.op.extractLsb' 0 1))
  else if x.f.extractLsb' 0 5 == 5#5 then some (.vfmin x.m (x.f.extractLsb' 5 1) x.b x.a x.d (x.op.extractLsb' 0 1))
  else if x.f.extractLsb' 0 5 == 6#5 then some (.vfmax x.m (x.f.extractLsb' 5 1) x.b x.a x.d (x.op.extractLsb' 0 1))
  else if x.f.extractLsb' 0 5 == 7#5 then some (.vfmac x.m (x.f.extractLsb' 5 1) x.b x.a x.d (x.op.extractLsb' 0 1))
  else if x.f.extractLsb' 0 5 == 8#5 && x.b == 0x00#6 then some (.vfneg x.m (x.f.extractLsb' 5 1) x.a x.d (x.op.extractLsb' 0 1))
  else if x.f.extractLsb' 0 5 == 9#5 && x.b == 0x00#6 then some (.vfabs x.m (x.f.extractLsb' 5 1) x.a x.d (x.op.extractLsb' 0 1))
  else if x.f.extractLsb' 0 5 == 10#5 then some (.vfeq x.m (x.f.extractLsb' 5 1) x.b x.a x.d (x.op.extractLsb' 0 1))
  else if x.f.extractLsb' 0 5 == 11#5 then some (.vflt x.m (x.f.extractLsb' 5 1) x.b x.a x.d (x.op.extractLsb' 0 1))
  else if x.f.extractLsb' 0 5 == 12#5 then some (.vfle x.m (x.f.extractLsb' 5 1) x.b x.a x.d (x.op.extractLsb' 0 1))
  else if x.f.extractLsb' 0 5 == 13#5 && x.b == 0x00#6 then some (.vfrint x.m (x.f.extractLsb' 5 1) x.a x.d (x.op.extractLsb' 0 1))
  else if x.f.extractLsb' 0 5 == 14#5 && x.b == 0x00#6 then some (.vfexp2f x.m (x.f.extractLsb' 5 1) x.a x.d (x.op.extractLsb' 0 1))
  else if x.f.extractLsb' 0 5 == 15#5 then some (.vfscale x.m (x.f.extractLsb' 5 1) x.b x.a x.d (x.op.extractLsb' 0 1))
  else none

/-- Major opcodes 0x3E (R221 to R226). -/
def decodeMajor3E (x : Fields) : Option Instr :=
  if x.b.extractLsb' 3 3 == 0#3 then some (.vcvt x.m (x.f.extractLsb' 3 3) (x.f.extractLsb' 0 3) (x.b.extractLsb' 0 3) x.a x.d)
  else none

/-- Major opcodes 0x3F (R221 to R226). -/
def decodeMajor3F (x : Fields) : Option Instr :=
  if x.f.extractLsb' 2 4 == 0#4 && x.b == 0x00#6 then some (.vld x.m (x.f.extractLsb' 0 2) x.a x.d)
  else if x.f.extractLsb' 2 4 == 2#4 then some (.vlds x.m (x.f.extractLsb' 0 2) x.b x.a x.d)
  else if x.f.extractLsb' 2 4 == 4#4 then some (.vgath x.m (x.f.extractLsb' 0 2) x.b x.a x.d)
  else if x.f.extractLsb' 2 4 == 6#4 && x.b == 0x00#6 then some (.vst x.m (x.f.extractLsb' 0 2) x.a x.d)
  else if x.f.extractLsb' 2 4 == 8#4 then some (.vsts x.m (x.f.extractLsb' 0 2) x.b x.a x.d)
  else if x.f.extractLsb' 2 4 == 10#4 then some (.vscat x.m (x.f.extractLsb' 0 2) x.b x.a x.d)
  else none

/-- Major opcodes 0x40, 0x41, 0x42, 0x43, 0x44, 0x45, 0x46, 0x47 (R221 to R226). -/
def decodeMajor40 (x : Fields) : Option Instr :=
  if x.f.extractLsb' 3 3 == 0#3 then some (.atmSwap x.m (x.f.extractLsb' 1 2) (x.f.extractLsb' 0 1) x.b x.a x.d (x.op.extractLsb' 0 3))
  else if x.f.extractLsb' 3 3 == 1#3 then some (.atmAdd x.m (x.f.extractLsb' 1 2) (x.f.extractLsb' 0 1) x.b x.a x.d (x.op.extractLsb' 0 3))
  else if x.f.extractLsb' 0 1 == 0#1 && x.f.extractLsb' 3 3 == 2#3 then some (.atmAddz x.m (x.f.extractLsb' 1 2) x.b x.a x.d (x.op.extractLsb' 0 3))
  else if x.f.extractLsb' 3 3 == 3#3 then some (.atmAnd x.m (x.f.extractLsb' 1 2) (x.f.extractLsb' 0 1) x.b x.a x.d (x.op.extractLsb' 0 3))
  else if x.f.extractLsb' 3 3 == 4#3 then some (.atmOr x.m (x.f.extractLsb' 1 2) (x.f.extractLsb' 0 1) x.b x.a x.d (x.op.extractLsb' 0 3))
  else if x.f.extractLsb' 3 3 == 5#3 then some (.atmXor x.m (x.f.extractLsb' 1 2) (x.f.extractLsb' 0 1) x.b x.a x.d (x.op.extractLsb' 0 3))
  else if x.f.extractLsb' 3 3 == 6#3 then some (.atmMax x.m (x.f.extractLsb' 1 2) (x.f.extractLsb' 0 1) x.b x.a x.d (x.op.extractLsb' 0 3))
  else if x.f.extractLsb' 3 3 == 7#3 then some (.atmCas x.m (x.f.extractLsb' 1 2) (x.f.extractLsb' 0 1) x.b x.a x.d (x.op.extractLsb' 0 3))
  else none

/-- Major opcodes 0x48 (R221 to R226). -/
def decodeMajor48 (x : Fields) : Option Instr :=
  if x.f.extractLsb' 0 4 == 0#4 && x.b == 0x00#6 then some (.vredAdd x.m (x.f.extractLsb' 4 2) x.a x.d)
  else if x.f.extractLsb' 0 4 == 1#4 && x.b == 0x00#6 then some (.vredMin x.m (x.f.extractLsb' 4 2) x.a x.d)
  else if x.f.extractLsb' 0 4 == 2#4 && x.b == 0x00#6 then some (.vredMax x.m (x.f.extractLsb' 4 2) x.a x.d)
  else if x.f.extractLsb' 0 4 == 3#4 && x.b == 0x00#6 then some (.vredMinn x.m (x.f.extractLsb' 4 2) x.a x.d)
  else if x.f.extractLsb' 0 4 == 4#4 && x.b == 0x00#6 then some (.vredMaxn x.m (x.f.extractLsb' 4 2) x.a x.d)
  else if x.f.extractLsb' 0 4 == 5#4 && x.f.extractLsb' 5 1 == 1#1 && x.b == 0x00#6 then some (.vredFadd x.m (x.f.extractLsb' 4 1) x.a x.d)
  else if x.f.extractLsb' 0 4 == 6#4 then some (.vperm x.m (x.f.extractLsb' 4 2) x.b x.a x.d)
  else if x.f.extractLsb' 0 4 == 7#4 && x.b == 0x00#6 then some (.vrev x.m (x.f.extractLsb' 4 2) x.a x.d)
  else if x.f.extractLsb' 0 4 == 8#4 && x.b == 0x00#6 then some (.vbcast x.m (x.f.extractLsb' 4 2) x.a x.d)
  else if x.f.extractLsb' 0 4 == 9#4 then some (.vslide x.m (x.f.extractLsb' 4 2) x.b x.a x.d)
  else none

/-- Major opcodes 0x49 (R221 to R226). -/
def decodeMajor49 (x : Fields) : Option Instr :=
  if x.f == 0x00#6 && x.b == 0x00#6 && x.a == 0x00#6 && x.d == 0x00#6 then some (.vhalt x.m)
  else if x.f == 0x01#6 && x.b.extractLsb' 3 3 == 0#3 && x.a == 0x00#6 then some (.vqpop x.m (x.b.extractLsb' 0 3) x.d)
  else if x.f == 0x02#6 && x.b.extractLsb' 3 3 == 0#3 && x.d == 0x00#6 then some (.vqpush x.m (x.b.extractLsb' 0 3) x.a)
  else if x.f == 0x03#6 && x.b == 0x00#6 && x.a == 0x00#6 && x.d.extractLsb' 4 2 == 0#2 then some (.vflgset x.m (x.d.extractLsb' 0 4))
  else if x.f == 0x04#6 && x.b == 0x00#6 && x.a == 0x00#6 && x.d.extractLsb' 4 2 == 0#2 then some (.vflgclr x.m (x.d.extractLsb' 0 4))
  else if x.f == 0x05#6 && x.b.extractLsb' 1 5 == 0#5 && x.a == 0x00#6 && x.d.extractLsb' 4 2 == 0#2 then some (.vflgwait x.m (x.b.extractLsb' 0 1) (x.d.extractLsb' 0 4))
  else if x.f == 0x06#6 then some (.vloop x.m (x.b ++ x.a) x.d)
  else if x.f == 0x07#6 then some (.vj x.m (x.b ++ x.a ++ x.d))
  else none

/-- Major opcodes 0x4A (R221 to R226). -/
def decodeMajor4A (x : Fields) : Option Instr :=
  if x.f == 0x00#6 && x.b == 0x00#6 && x.a == 0x00#6 && x.d == 0x00#6 then some (.drain x.m)
  else if x.f == 0x01#6 && x.b.extractLsb' 2 4 == 0#4 && x.a == 0x00#6 && x.d.extractLsb' 1 5 == 0#5 then some (.bar x.m (x.b.extractLsb' 0 2) (x.d.extractLsb' 0 1))
  else if x.f == 0x02#6 && x.b.extractLsb' 2 4 == 0#4 && x.d.extractLsb' 1 5 == 0#5 then some (.barG x.m (x.b.extractLsb' 0 2) x.a (x.d.extractLsb' 0 1))
  else if x.f == 0x03#6 && x.d == 0x00#6 then some (.waitgen x.m x.b x.a)
  else if x.f == 0x04#6 && x.b.extractLsb' 3 3 == 0#3 && x.a == 0x00#6 then some (.arm x.m (x.b.extractLsb' 0 3) x.d)
  else if x.f == 0x05#6 && x.b.extractLsb' 3 3 == 0#3 && x.a == 0x00#6 then some (.armK x.m (x.b.extractLsb' 0 3) x.d)
  else if x.f == 0x06#6 && x.a == 0x00#6 then some (.mintc x.m x.b x.d)
  else if x.f == 0x07#6 && x.d == 0x00#6 then some (.send x.m x.b x.a)
  else if x.f == 0x08#6 then some (.sendt x.m x.b x.a x.d)
  else if x.f == 0x09#6 && x.d == 0x00#6 then some (.sendRel x.m x.b x.a)
  else if x.f == 0x0A#6 then some (.sendtRel x.m x.b x.a x.d)
  else if x.f == 0x0B#6 then some (.amsg x.m x.b x.a x.d)
  else if x.f == 0x0C#6 && x.d == 0x00#6 then some (.spawn x.m x.b x.a)
  else if x.f == 0x0D#6 && x.d == 0x00#6 then some (.fork x.m x.b x.a)
  else if x.f == 0x0E#6 && x.d == 0x00#6 then some (.join x.m x.b x.a)
  else if x.f == 0x0F#6 && x.a == 0x00#6 && x.d == 0x00#6 then some (.maskc x.m x.b)
  else if x.f == 0x10#6 && x.a == 0x00#6 && x.d == 0x00#6 then some (.unmaskc x.m x.b)
  else if x.f == 0x11#6 && x.d == 0x00#6 then some (.qpush x.m x.b x.a)
  else if x.f == 0x12#6 && x.a == 0x00#6 then some (.qpop x.m x.b x.d)
  else if x.f == 0x13#6 && x.b == 0x00#6 && x.d == 0x00#6 then some (.vstart x.m x.a)
  else if x.f == 0x14#6 && x.a == 0x00#6 && x.d == 0x00#6 then some (.flgset x.m x.b)
  else if x.f == 0x15#6 && x.a == 0x00#6 && x.d == 0x00#6 then some (.flgclr x.m x.b)
  else if x.f == 0x16#6 && x.a == 0x00#6 then some (.flgtst x.m x.b x.d)
  else if x.f.extractLsb' 3 3 == 3#3 && x.d == 0x00#6 then some (.waitge x.m (x.f.extractLsb' 0 3) x.b x.a)
  else if x.f.extractLsb' 4 2 == 2#2 then some (.rput x.m (x.f.extractLsb' 3 1) (x.f.extractLsb' 0 3) x.b x.a x.d)
  else if x.f.extractLsb' 4 2 == 3#2 then some (.rputt x.m (x.f.extractLsb' 3 1) (x.f.extractLsb' 0 3) x.b x.a x.d)
  else none

/-- Major opcodes 0x4B (R221 to R226). -/
def decodeMajor4B (x : Fields) : Option Instr :=
  if x.f.extractLsb' 1 5 == 0#5 && x.a == 0x00#6 && x.d == 0x00#6 then some (.fence x.m (x.f.extractLsb' 0 1 ++ x.b.extractLsb' 3 3) (x.b.extractLsb' 0 3))
  else none

/-- Major opcodes 0x4C (R221 to R226). -/
def decodeMajor4C (x : Fields) : Option Instr :=
  if x.f == 0x00#6 && x.b == 0x00#6 then some (.mpub x.m x.a x.d)
  else if x.f == 0x01#6 && x.b == 0x00#6 && x.d == 0x00#6 then some (.mcommit x.m x.a)
  else if x.f == 0x02#6 && x.b == 0x00#6 then some (.mread x.m x.a x.d)
  else if x.f == 0x03#6 then some (.mreadv x.m x.b x.a x.d)
  else if x.f == 0x04#6 && x.d == 0x00#6 then some (.munpin x.m x.b x.a)
  else if x.f == 0x05#6 && x.d == 0x00#6 then some (.mreclaim x.m x.b x.a)
  else none

/-- Major opcodes 0x50 (R221 to R226). -/
def decodeMajor50 (x : Fields) : Option Instr :=
  if x.f == 0x00#6 && x.b == 0x00#6 && x.d == 0x00#6 then some (.copy x.m x.a)
  else if x.f == 0x01#6 && x.b == 0x00#6 then some (.copyt x.m x.a x.d)
  else if x.f == 0x08#6 && x.b == 0x00#6 then some (.wlease x.m x.a x.d)
  else if x.f == 0x09#6 && x.b == 0x00#6 then some (.wleaset x.m x.a x.d)
  else if x.f == 0x0A#6 && x.b == 0x00#6 && x.d == 0x00#6 then some (.wrel x.m x.a)
  else if x.f == 0x0B#6 && x.d == 0x00#6 then some (.wfmt x.m x.b x.a)
  else if x.f == 0x0C#6 && x.b == 0x00#6 && x.d == 0x00#6 then some (.wmma x.m x.a)
  else if x.f == 0x0D#6 && x.b == 0x00#6 && x.d == 0x00#6 then some (.wzero x.m x.a)
  else if x.f == 0x0E#6 && x.b == 0x00#6 && x.d == 0x00#6 then some (.wstep x.m x.a)
  else if x.f == 0x0F#6 && x.b == 0x00#6 && x.d == 0x00#6 then some (.wnorm x.m x.a)
  else if x.f == 0x10#6 && x.b == 0x00#6 && x.a == 0x00#6 && x.d == 0x00#6 then some (.wretry x.m)
  else if x.f == 0x11#6 && x.b == 0x00#6 && x.a == 0x00#6 then some (.wstat x.m x.d)
  else if x.f == 0x18#6 && x.b == 0x00#6 && x.d == 0x00#6 then some (.tepi x.m x.a)
  else if x.f == 0x19#6 && x.b == 0x00#6 && x.a == 0x00#6 then some (.tstat x.m x.d)
  else none

/-- Major opcodes 0x73 (R221 to R226). -/
def decodeMajor73 (x : Fields) : Option Instr :=
  if x.f == 0x00#6 && x.b == 0x00#6 && x.d == 0x00#6 then some (.trap x.m x.a)
  else if x.f == 0x01#6 && x.b == 0x00#6 && x.a == 0x00#6 && x.d == 0x00#6 then some (.tret x.m)
  else if x.f == 0x01#6 then some (.tretHeld x.m x.b x.a x.d)
  else if x.f == 0x02#6 && x.a == 0x00#6 then some (.cwr x.m x.b x.d)
  else if x.f == 0x03#6 && x.d == 0x00#6 then some (.cww x.m x.b x.a)
  else if x.f == 0x04#6 then some (.cmoCl x.m x.b x.a x.d)
  else if x.f == 0x05#6 then some (.cmoCli x.m x.b x.a x.d)
  else if x.f == 0x06#6 then some (.cmoInv x.m x.b x.a x.d)
  else if x.f == 0x08#6 then some (.tlbinvVa x.m x.b x.a x.d)
  else if x.f == 0x09#6 && x.a == 0x00#6 then some (.tlbinvCtx x.m x.b x.d)
  else if x.f == 0x0A#6 then some (.tlbinvIpa x.m x.b x.a x.d)
  else if x.f == 0x0B#6 && x.a == 0x00#6 then some (.tlbinvPart x.m x.b x.d)
  else if x.f == 0x0C#6 && x.a == 0x00#6 then some (.cmoClOwn x.m x.b x.d)
  else if x.f == 0x0D#6 && x.a == 0x00#6 then some (.cmoCliOwn x.m x.b x.d)
  else if x.f == 0x0E#6 && x.a == 0x00#6 then some (.cmoInvOwn x.m x.b x.d)
  else if x.f == 0x10#6 && x.b == 0x00#6 then some (.seize x.m x.a x.d)
  else if x.f == 0x11#6 && x.b == 0x00#6 && x.d == 0x00#6 then some (.cede x.m x.a)
  else if x.f == 0x12#6 && x.b == 0x00#6 && x.a == 0x00#6 && x.d == 0x00#6 then some (.yieldslot x.m)
  else none

/-- Major opcodes 0x74 (R221 to R226). -/
def decodeMajor74 (x : Fields) : Option Instr :=
  if x.f == 0x00#6 then some (.rfetch x.m x.b x.a x.d)
  else if x.f == 0x01#6 then some (.swait x.m x.b x.a x.d)
  else if x.f == 0x02#6 then some (.dispatch x.m x.b x.a x.d)
  else if x.f == 0x03#6 then some (.spost x.m x.b x.a x.d)
  else none

/-- Major opcodes 0x7F (R221 to R226). -/
def decodeMajor7F (x : Fields) : Option Instr :=
  if x.d == 0x01#6 then some (.prefR x.m (x.f ++ x.b) x.a)
  else if x.d == 0x02#6 then some (.prefW x.m (x.f ++ x.b) x.a)
  else some (.nop x.m (x.f ++ x.b) x.a x.d)

/-- The instruction a word's fields name, before the checks on the values of its fields. -/
def decodeFields (x : Fields) : Option Instr :=
  match x.op.toNat with
  | 0x01 => decodeMajor01 x
  | 0x02 => decodeMajor02 x
  | 0x03 => decodeMajor03 x
  | 0x04 => decodeMajor04 x
  | 0x05 => decodeMajor05 x
  | 0x06 => decodeMajor06 x
  | 0x07 => decodeMajor07 x
  | 0x08 => decodeMajor08 x
  | 0x09 => decodeMajor09 x
  | 0x0A => decodeMajor0A x
  | 0x0B => decodeMajor0B x
  | 0x0C => decodeMajor0C x
  | 0x0D => decodeMajor0D x
  | 0x0E => decodeMajor0E x
  | 0x10 => decodeMajor10 x
  | 0x11 => decodeMajor11 x
  | 0x12 => decodeMajor12 x
  | 0x13 => decodeMajor13 x
  | 0x14 => decodeMajor14 x
  | 0x15 => decodeMajor15 x
  | 0x16 => decodeMajor16 x
  | 0x17 => decodeMajor17 x
  | 0x18 => decodeMajor18 x
  | 0x19 => decodeMajor19 x
  | 0x1A => decodeMajor1A x
  | 0x1B => decodeMajor1B x
  | 0x20 => decodeMajor20 x
  | 0x21 => decodeMajor21 x
  | 0x22 => decodeMajor22 x
  | 0x23 => decodeMajor23 x
  | 0x24 => decodeMajor24 x
  | 0x25 => decodeMajor25 x
  | 0x26 => decodeMajor26 x
  | 0x27 => decodeMajor27 x
  | 0x28 => decodeMajor28 x
  | 0x29 => decodeMajor29 x
  | 0x2A => decodeMajor2A x
  | 0x2B => decodeMajor2B x
  | 0x2C => decodeMajor2C x
  | 0x2E => decodeMajor2E x
  | 0x30 => decodeMajor30 x
  | 0x31 => decodeMajor31 x
  | 0x38 => decodeMajor38 x
  | 0x39 => decodeMajor38 x
  | 0x3A => decodeMajor38 x
  | 0x3B => decodeMajor38 x
  | 0x3C => decodeMajor3C x
  | 0x3D => decodeMajor3C x
  | 0x3E => decodeMajor3E x
  | 0x3F => decodeMajor3F x
  | 0x40 => decodeMajor40 x
  | 0x41 => decodeMajor40 x
  | 0x42 => decodeMajor40 x
  | 0x43 => decodeMajor40 x
  | 0x44 => decodeMajor40 x
  | 0x45 => decodeMajor40 x
  | 0x46 => decodeMajor40 x
  | 0x47 => decodeMajor40 x
  | 0x48 => decodeMajor48 x
  | 0x49 => decodeMajor49 x
  | 0x4A => decodeMajor4A x
  | 0x4B => decodeMajor4B x
  | 0x4C => decodeMajor4C x
  | 0x50 => decodeMajor50 x
  | 0x73 => decodeMajor73 x
  | 0x74 => decodeMajor74 x
  | 0x7F => decodeMajor7F x
  | _ => none

/-- The major opcodes that some instruction uses (R221). -/
def decodeMajors : List Nat :=
  [0x01, 0x02, 0x03, 0x04, 0x05, 0x06, 0x07, 0x08, 0x09, 0x0A, 0x0B, 0x0C, 0x0D, 0x0E, 0x10, 0x11, 0x12, 0x13, 0x14, 0x15, 0x16, 0x17, 0x18, 0x19, 0x1A, 0x1B, 0x20, 0x21, 0x22, 0x23, 0x24, 0x25, 0x26, 0x27, 0x28, 0x29, 0x2A, 0x2B, 0x2C, 0x2E, 0x30, 0x31, 0x38, 0x39, 0x3A, 0x3B, 0x3C, 0x3D, 0x3E, 0x3F, 0x40, 0x41, 0x42, 0x43, 0x44, 0x45, 0x46, 0x47, 0x48, 0x49, 0x4A, 0x4B, 0x4C, 0x50, 0x73, 0x74, 0x7F]

/-- The decoder: the instruction of a word, or the name of the reason why there is none (R229 orders 1 and 2). -/
def decode (w : BitVec 32) : Except DecodeError Instr :=
  match decodeFields (Fields.ofWord w) with
  | some i => if i.wf then .ok i else .error .illFormed
  | none =>
    if (decodeMajors.contains (w.extractLsb' 0 7).toNat) then .error (.reservedEncoding (w.extractLsb' 0 7))
    else .error (.reservedMajor (w.extractLsb' 0 7))

/-- The fields of an instruction word (R212 to R226), the inverse of `decodeFields`; an event has no word and gives the
all-zero word, which is reserved (R221). -/
def encodeFields : Instr → Fields
  | .add m b a d => .mk m (0#6) (b) (a) (d) (1#7)
  | .sub m b a d => .mk m (1#6) (b) (a) (d) (1#7)
  | .and m b a d => .mk m (2#6) (b) (a) (d) (1#7)
  | .or m b a d => .mk m (3#6) (b) (a) (d) (1#7)
  | .xor m b a d => .mk m (4#6) (b) (a) (d) (1#7)
  | .andn m b a d => .mk m (5#6) (b) (a) (d) (1#7)
  | .sll m b a d => .mk m (6#6) (b) (a) (d) (1#7)
  | .srl m b a d => .mk m (7#6) (b) (a) (d) (1#7)
  | .sra m b a d => .mk m (8#6) (b) (a) (d) (1#7)
  | .ror m b a d => .mk m (9#6) (b) (a) (d) (1#7)
  | .slt m b a d => .mk m (10#6) (b) (a) (d) (1#7)
  | .sltn m b a d => .mk m (11#6) (b) (a) (d) (1#7)
  | .seq m b a d => .mk m (12#6) (b) (a) (d) (1#7)
  | .min m b a d => .mk m (13#6) (b) (a) (d) (1#7)
  | .max m b a d => .mk m (14#6) (b) (a) (d) (1#7)
  | .minn m b a d => .mk m (15#6) (b) (a) (d) (1#7)
  | .maxn m b a d => .mk m (16#6) (b) (a) (d) (1#7)
  | .mul m b a d => .mk m (17#6) (b) (a) (d) (1#7)
  | .mulh m b a d => .mk m (18#6) (b) (a) (d) (1#7)
  | .mulhn m b a d => .mk m (19#6) (b) (a) (d) (1#7)
  | .div m b a d => .mk m (20#6) (b) (a) (d) (1#7)
  | .divn m b a d => .mk m (21#6) (b) (a) (d) (1#7)
  | .rem m b a d => .mk m (22#6) (b) (a) (d) (1#7)
  | .remn m b a d => .mk m (23#6) (b) (a) (d) (1#7)
  | .clz m a d => .mk m (24#6) (0#6) (a) (d) (1#7)
  | .ctz m a d => .mk m (25#6) (0#6) (a) (d) (1#7)
  | .popc m a d => .mk m (26#6) (0#6) (a) (d) (1#7)
  | .adds m b a d => .mk m (27#6) (b) (a) (d) (1#7)
  | .subs m b a d => .mk m (28#6) (b) (a) (d) (1#7)
  | .selz m b a d => .mk m (29#6) (b) (a) (d) (1#7)
  | .selnz m b a d => .mk m (30#6) (b) (a) (d) (1#7)
  | .bswap m a d => .mk m (31#6) (0#6) (a) (d) (1#7)
  | .addi m i a d => .mk m (i.extractLsb' 6 6) (i.extractLsb' 0 6) (a) (d) (2#7)
  | .andi m i a d => .mk m (i.extractLsb' 6 6) (i.extractLsb' 0 6) (a) (d) (3#7)
  | .ori m i a d => .mk m (i.extractLsb' 6 6) (i.extractLsb' 0 6) (a) (d) (4#7)
  | .xori m i a d => .mk m (i.extractLsb' 6 6) (i.extractLsb' 0 6) (a) (d) (5#7)
  | .slti m i a d => .mk m (i.extractLsb' 6 6) (i.extractLsb' 0 6) (a) (d) (6#7)
  | .sltni m i a d => .mk m (i.extractLsb' 6 6) (i.extractLsb' 0 6) (a) (d) (7#7)
  | .slli m n a d => .mk m (0#6) (n) (a) (d) (8#7)
  | .srli m n a d => .mk m (1#6) (n) (a) (d) (8#7)
  | .srai m n a d => .mk m (2#6) (n) (a) (d) (8#7)
  | .rori m n a d => .mk m (3#6) (n) (a) (d) (8#7)
  | .bfx m p l a d => .mk m (p) (l) (a) (d) (9#7)
  | .bfxs m p l a d => .mk m (p) (l) (a) (d) (10#7)
  | .bfi m p l a d => .mk m (p) (l) (a) (d) (11#7)
  | .lui m n v d => .mk m (n ++ v.extractLsb' 12 4) (v.extractLsb' 6 6) (v.extractLsb' 0 6) (d) (12#7)
  | .adpc m i d => .mk m (i.extractLsb' 12 6) (i.extractLsb' 6 6) (i.extractLsb' 0 6) (d) (13#7)
  | .grd m n k a => .mk m (n) (k ++ 0#3) (a) (0#6) (14#7)
  | .grdn m n k a => .mk m (n) (k ++ 1#3) (a) (0#6) (14#7)
  | .btst m n k a d => .mk m (n) (k ++ 2#3) (a) (d) (14#7)
  | .bset m n k a d => .mk m (n) (k ++ 3#3) (a) (d) (14#7)
  | .bclr m n k a d => .mk m (n) (k ++ 4#3) (a) (d) (14#7)
  | .binv m n k a d => .mk m (n) (k ++ 5#3) (a) (d) (14#7)
  | .beq m o b a => .mk m (o.extractLsb' 6 6) (b) (a) (o.extractLsb' 0 6) (16#7)
  | .bne m o b a => .mk m (o.extractLsb' 6 6) (b) (a) (o.extractLsb' 0 6) (17#7)
  | .blt m o b a => .mk m (o.extractLsb' 6 6) (b) (a) (o.extractLsb' 0 6) (18#7)
  | .bge m o b a => .mk m (o.extractLsb' 6 6) (b) (a) (o.extractLsb' 0 6) (19#7)
  | .bltn m o b a => .mk m (o.extractLsb' 6 6) (b) (a) (o.extractLsb' 0 6) (20#7)
  | .bgen m o b a => .mk m (o.extractLsb' 6 6) (b) (a) (o.extractLsb' 0 6) (21#7)
  | .bbs m o n a => .mk m (o.extractLsb' 6 6) (n) (a) (o.extractLsb' 0 6) (22#7)
  | .bbc m o n a => .mk m (o.extractLsb' 6 6) (n) (a) (o.extractLsb' 0 6) (23#7)
  | .j m o => .mk m (o.extractLsb' 18 6) (o.extractLsb' 12 6) (o.extractLsb' 6 6) (o.extractLsb' 0 6) (24#7)
  | .jl m o => .mk m (o.extractLsb' 18 6) (o.extractLsb' 12 6) (o.extractLsb' 6 6) (o.extractLsb' 0 6) (25#7)
  | .jlr m i a d => .mk m (i.extractLsb' 6 6) (i.extractLsb' 0 6) (a) (d) (26#7)
  | .endF m => .mk m (0#6) (0#6) (0#6) (0#6) (27#7)
  | .yield m => .mk m (1#6) (0#6) (0#6) (0#6) (27#7)
  | .ldB m i a d => .mk m (i.extractLsb' 6 6) (i.extractLsb' 0 6) (a) (d) (32#7)
  | .ldBS m i a d => .mk m (i.extractLsb' 6 6) (i.extractLsb' 0 6) (a) (d) (33#7)
  | .ldH m i a d => .mk m (i.extractLsb' 6 6) (i.extractLsb' 0 6) (a) (d) (34#7)
  | .ldHS m i a d => .mk m (i.extractLsb' 6 6) (i.extractLsb' 0 6) (a) (d) (35#7)
  | .ldW m i a d => .mk m (i.extractLsb' 6 6) (i.extractLsb' 0 6) (a) (d) (36#7)
  | .ldWS m i a d => .mk m (i.extractLsb' 6 6) (i.extractLsb' 0 6) (a) (d) (37#7)
  | .ldD m i a d => .mk m (i.extractLsb' 6 6) (i.extractLsb' 0 6) (a) (d) (38#7)
  | .lda m z s c a d => .mk m (z ++ s ++ c) (0#6) (a) (d) (39#7)
  | .stB m i b a => .mk m (i.extractLsb' 6 6) (b) (a) (i.extractLsb' 0 6) (40#7)
  | .stH m i b a => .mk m (i.extractLsb' 6 6) (b) (a) (i.extractLsb' 0 6) (41#7)
  | .stW m i b a => .mk m (i.extractLsb' 6 6) (b) (a) (i.extractLsb' 0 6) (42#7)
  | .stD m i b a => .mk m (i.extractLsb' 6 6) (b) (a) (i.extractLsb' 0 6) (43#7)
  | .stl m z c b a => .mk m (z ++ 0#1 ++ c) (b) (a) (0#6) (44#7)
  | .dead m n a => .mk m (0#6) (n) (a) (0#6) (46#7)
  | .fadd m p b a d => .mk m (p ++ 0#5) (b) (a) (d) (48#7)
  | .fsub m p b a d => .mk m (p ++ 1#5) (b) (a) (d) (48#7)
  | .fmul m p b a d => .mk m (p ++ 2#5) (b) (a) (d) (48#7)
  | .fdiv m p b a d => .mk m (p ++ 3#5) (b) (a) (d) (48#7)
  | .fsqrt m p a d => .mk m (p ++ 4#5) (0#6) (a) (d) (48#7)
  | .fmin m p b a d => .mk m (p ++ 5#5) (b) (a) (d) (48#7)
  | .fmax m p b a d => .mk m (p ++ 6#5) (b) (a) (d) (48#7)
  | .fmac m p b a d => .mk m (p ++ 7#5) (b) (a) (d) (48#7)
  | .fmsc m p b a d => .mk m (p ++ 8#5) (b) (a) (d) (48#7)
  | .fneg m p a d => .mk m (p ++ 9#5) (0#6) (a) (d) (48#7)
  | .fabs m p a d => .mk m (p ++ 10#5) (0#6) (a) (d) (48#7)
  | .fcps m p b a d => .mk m (p ++ 11#5) (b) (a) (d) (48#7)
  | .feq m p b a d => .mk m (p ++ 12#5) (b) (a) (d) (48#7)
  | .flt m p b a d => .mk m (p ++ 13#5) (b) (a) (d) (48#7)
  | .fle m p b a d => .mk m (p ++ 14#5) (b) (a) (d) (48#7)
  | .fclass m p a d => .mk m (p ++ 15#5) (0#6) (a) (d) (48#7)
  | .frint m p r a d => .mk m (p ++ 16#5) (0#3 ++ r) (a) (d) (48#7)
  | .fexp2f m p a d => .mk m (p ++ 17#5) (0#6) (a) (d) (48#7)
  | .fscale m p b a d => .mk m (p ++ 18#5) (b) (a) (d) (48#7)
  | .fcvt m s t r a d => .mk m (s ++ t) (0#3 ++ r) (a) (d) (49#7)
  | .vadd m b a d z => .mk m (0#6) (b) (a) (d) (14#5 ++ z)
  | .vsub m b a d z => .mk m (1#6) (b) (a) (d) (14#5 ++ z)
  | .vmul m b a d z => .mk m (2#6) (b) (a) (d) (14#5 ++ z)
  | .vmulh m b a d z => .mk m (3#6) (b) (a) (d) (14#5 ++ z)
  | .vand m b a d z => .mk m (4#6) (b) (a) (d) (14#5 ++ z)
  | .vor m b a d z => .mk m (5#6) (b) (a) (d) (14#5 ++ z)
  | .vxor m b a d z => .mk m (6#6) (b) (a) (d) (14#5 ++ z)
  | .vsll m b a d z => .mk m (7#6) (b) (a) (d) (14#5 ++ z)
  | .vsrl m b a d z => .mk m (8#6) (b) (a) (d) (14#5 ++ z)
  | .vsra m b a d z => .mk m (9#6) (b) (a) (d) (14#5 ++ z)
  | .vmin m b a d z => .mk m (10#6) (b) (a) (d) (14#5 ++ z)
  | .vmax m b a d z => .mk m (11#6) (b) (a) (d) (14#5 ++ z)
  | .vminn m b a d z => .mk m (12#6) (b) (a) (d) (14#5 ++ z)
  | .vmaxn m b a d z => .mk m (13#6) (b) (a) (d) (14#5 ++ z)
  | .vadds m b a d z => .mk m (14#6) (b) (a) (d) (14#5 ++ z)
  | .vsubs m b a d z => .mk m (15#6) (b) (a) (d) (14#5 ++ z)
  | .vceq m b a d z => .mk m (16#6) (b) (a) (d) (14#5 ++ z)
  | .vclt m b a d z => .mk m (17#6) (b) (a) (d) (14#5 ++ z)
  | .vcltn m b a d z => .mk m (18#6) (b) (a) (d) (14#5 ++ z)
  | .vsel m b a d z => .mk m (19#6) (b) (a) (d) (14#5 ++ z)
  | .vfadd m p b a d h => .mk m (p ++ 0#5) (b) (a) (d) (30#6 ++ h)
  | .vfsub m p b a d h => .mk m (p ++ 1#5) (b) (a) (d) (30#6 ++ h)
  | .vfmul m p b a d h => .mk m (p ++ 2#5) (b) (a) (d) (30#6 ++ h)
  | .vfdiv m p b a d h => .mk m (p ++ 3#5) (b) (a) (d) (30#6 ++ h)
  | .vfsqrt m p a d h => .mk m (p ++ 4#5) (0#6) (a) (d) (30#6 ++ h)
  | .vfmin m p b a d h => .mk m (p ++ 5#5) (b) (a) (d) (30#6 ++ h)
  | .vfmax m p b a d h => .mk m (p ++ 6#5) (b) (a) (d) (30#6 ++ h)
  | .vfmac m p b a d h => .mk m (p ++ 7#5) (b) (a) (d) (30#6 ++ h)
  | .vfneg m p a d h => .mk m (p ++ 8#5) (0#6) (a) (d) (30#6 ++ h)
  | .vfabs m p a d h => .mk m (p ++ 9#5) (0#6) (a) (d) (30#6 ++ h)
  | .vfeq m p b a d h => .mk m (p ++ 10#5) (b) (a) (d) (30#6 ++ h)
  | .vflt m p b a d h => .mk m (p ++ 11#5) (b) (a) (d) (30#6 ++ h)
  | .vfle m p b a d h => .mk m (p ++ 12#5) (b) (a) (d) (30#6 ++ h)
  | .vfrint m p a d h => .mk m (p ++ 13#5) (0#6) (a) (d) (30#6 ++ h)
  | .vfexp2f m p a d h => .mk m (p ++ 14#5) (0#6) (a) (d) (30#6 ++ h)
  | .vfscale m p b a d h => .mk m (p ++ 15#5) (b) (a) (d) (30#6 ++ h)
  | .vcvt m s t r a d => .mk m (s ++ t) (0#3 ++ r) (a) (d) (62#7)
  | .vld m z a d => .mk m (0#4 ++ z) (0#6) (a) (d) (63#7)
  | .vlds m z b a d => .mk m (2#4 ++ z) (b) (a) (d) (63#7)
  | .vgath m z b a d => .mk m (4#4 ++ z) (b) (a) (d) (63#7)
  | .vst m z a d => .mk m (6#4 ++ z) (0#6) (a) (d) (63#7)
  | .vsts m z b a d => .mk m (8#4 ++ z) (b) (a) (d) (63#7)
  | .vscat m z b a d => .mk m (10#4 ++ z) (b) (a) (d) (63#7)
  | .atmSwap m r w b a d s => .mk m (0#3 ++ r ++ w) (b) (a) (d) (8#4 ++ s)
  | .atmAdd m r w b a d s => .mk m (1#3 ++ r ++ w) (b) (a) (d) (8#4 ++ s)
  | .atmAddz m r b a d s => .mk m (2#3 ++ r ++ 0#1) (b) (a) (d) (8#4 ++ s)
  | .atmAnd m r w b a d s => .mk m (3#3 ++ r ++ w) (b) (a) (d) (8#4 ++ s)
  | .atmOr m r w b a d s => .mk m (4#3 ++ r ++ w) (b) (a) (d) (8#4 ++ s)
  | .atmXor m r w b a d s => .mk m (5#3 ++ r ++ w) (b) (a) (d) (8#4 ++ s)
  | .atmMax m r w b a d s => .mk m (6#3 ++ r ++ w) (b) (a) (d) (8#4 ++ s)
  | .atmCas m r w b a d s => .mk m (7#3 ++ r ++ w) (b) (a) (d) (8#4 ++ s)
  | .vredAdd m z a d => .mk m (z ++ 0#4) (0#6) (a) (d) (72#7)
  | .vredMin m z a d => .mk m (z ++ 1#4) (0#6) (a) (d) (72#7)
  | .vredMax m z a d => .mk m (z ++ 2#4) (0#6) (a) (d) (72#7)
  | .vredMinn m z a d => .mk m (z ++ 3#4) (0#6) (a) (d) (72#7)
  | .vredMaxn m z a d => .mk m (z ++ 4#4) (0#6) (a) (d) (72#7)
  | .vredFadd m z a d => .mk m (1#1 ++ z ++ 5#4) (0#6) (a) (d) (72#7)
  | .vperm m z b a d => .mk m (z ++ 6#4) (b) (a) (d) (72#7)
  | .vrev m z a d => .mk m (z ++ 7#4) (0#6) (a) (d) (72#7)
  | .vbcast m z a d => .mk m (z ++ 8#4) (0#6) (a) (d) (72#7)
  | .vslide m z b a d => .mk m (z ++ 9#4) (b) (a) (d) (72#7)
  | .vhalt m => .mk m (0#6) (0#6) (0#6) (0#6) (73#7)
  | .vqpop m j d => .mk m (1#6) (0#3 ++ j) (0#6) (d) (73#7)
  | .vqpush m j a => .mk m (2#6) (0#3 ++ j) (a) (0#6) (73#7)
  | .vflgset m n => .mk m (3#6) (0#6) (0#6) (0#2 ++ n) (73#7)
  | .vflgclr m n => .mk m (4#6) (0#6) (0#6) (0#2 ++ n) (73#7)
  | .vflgwait m s n => .mk m (5#6) (0#5 ++ s) (0#6) (0#2 ++ n) (73#7)
  | .vloop m o d => .mk m (6#6) (o.extractLsb' 6 6) (o.extractLsb' 0 6) (d) (73#7)
  | .vj m o => .mk m (7#6) (o.extractLsb' 12 6) (o.extractLsb' 6 6) (o.extractLsb' 0 6) (73#7)
  | .drain m => .mk m (0#6) (0#6) (0#6) (0#6) (74#7)
  | .bar m n x => .mk m (1#6) (0#4 ++ n) (0#6) (0#5 ++ x) (74#7)
  | .barG m n a x => .mk m (2#6) (0#4 ++ n) (a) (0#5 ++ x) (74#7)
  | .waitgen m b a => .mk m (3#6) (b) (a) (0#6) (74#7)
  | .arm m k d => .mk m (4#6) (0#3 ++ k) (0#6) (d) (74#7)
  | .armK m k d => .mk m (5#6) (0#3 ++ k) (0#6) (d) (74#7)
  | .mintc m b d => .mk m (6#6) (b) (0#6) (d) (74#7)
  | .send m b a => .mk m (7#6) (b) (a) (0#6) (74#7)
  | .sendt m b a d => .mk m (8#6) (b) (a) (d) (74#7)
  | .sendRel m b a => .mk m (9#6) (b) (a) (0#6) (74#7)
  | .sendtRel m b a d => .mk m (10#6) (b) (a) (d) (74#7)
  | .amsg m b a k => .mk m (11#6) (b) (a) (k) (74#7)
  | .spawn m b a => .mk m (12#6) (b) (a) (0#6) (74#7)
  | .fork m b a => .mk m (13#6) (b) (a) (0#6) (74#7)
  | .join m b a => .mk m (14#6) (b) (a) (0#6) (74#7)
  | .maskc m k => .mk m (15#6) (k) (0#6) (0#6) (74#7)
  | .unmaskc m k => .mk m (16#6) (k) (0#6) (0#6) (74#7)
  | .qpush m q a => .mk m (17#6) (q) (a) (0#6) (74#7)
  | .qpop m q d => .mk m (18#6) (q) (0#6) (d) (74#7)
  | .vstart m a => .mk m (19#6) (0#6) (a) (0#6) (74#7)
  | .flgset m n => .mk m (20#6) (n) (0#6) (0#6) (74#7)
  | .flgclr m n => .mk m (21#6) (n) (0#6) (0#6) (74#7)
  | .flgtst m n d => .mk m (22#6) (n) (0#6) (d) (74#7)
  | .waitge m s b a => .mk m (3#3 ++ s) (b) (a) (0#6) (74#7)
  | .rput m r s b a i => .mk m (2#2 ++ r ++ s) (b) (a) (i) (74#7)
  | .rputt m r s b a i => .mk m (3#2 ++ r ++ s) (b) (a) (i) (74#7)
  | .fence m k s => .mk m (0#5 ++ k.extractLsb' 3 1) (k.extractLsb' 0 3 ++ s) (0#6) (0#6) (75#7)
  | .mpub m a d => .mk m (0#6) (0#6) (a) (d) (76#7)
  | .mcommit m a => .mk m (1#6) (0#6) (a) (0#6) (76#7)
  | .mread m a d => .mk m (2#6) (0#6) (a) (d) (76#7)
  | .mreadv m b a d => .mk m (3#6) (b) (a) (d) (76#7)
  | .munpin m b a => .mk m (4#6) (b) (a) (0#6) (76#7)
  | .mreclaim m b a => .mk m (5#6) (b) (a) (0#6) (76#7)
  | .copy m a => .mk m (0#6) (0#6) (a) (0#6) (80#7)
  | .copyt m a d => .mk m (1#6) (0#6) (a) (d) (80#7)
  | .wlease m a d => .mk m (8#6) (0#6) (a) (d) (80#7)
  | .wleaset m a d => .mk m (9#6) (0#6) (a) (d) (80#7)
  | .wrel m a => .mk m (10#6) (0#6) (a) (0#6) (80#7)
  | .wfmt m b a => .mk m (11#6) (b) (a) (0#6) (80#7)
  | .wmma m a => .mk m (12#6) (0#6) (a) (0#6) (80#7)
  | .wzero m a => .mk m (13#6) (0#6) (a) (0#6) (80#7)
  | .wstep m a => .mk m (14#6) (0#6) (a) (0#6) (80#7)
  | .wnorm m a => .mk m (15#6) (0#6) (a) (0#6) (80#7)
  | .wretry m => .mk m (16#6) (0#6) (0#6) (0#6) (80#7)
  | .wstat m d => .mk m (17#6) (0#6) (0#6) (d) (80#7)
  | .tepi m a => .mk m (24#6) (0#6) (a) (0#6) (80#7)
  | .tstat m d => .mk m (25#6) (0#6) (0#6) (d) (80#7)
  | .trap m a => .mk m (0#6) (0#6) (a) (0#6) (115#7)
  | .tret m => .mk m (1#6) (0#6) (0#6) (0#6) (115#7)
  | .tretHeld m b a d => .mk m (1#6) (b) (a) (d) (115#7)
  | .cwr m n d => .mk m (2#6) (n) (0#6) (d) (115#7)
  | .cww m n a => .mk m (3#6) (n) (a) (0#6) (115#7)
  | .cmoCl m b a d => .mk m (4#6) (b) (a) (d) (115#7)
  | .cmoCli m b a d => .mk m (5#6) (b) (a) (d) (115#7)
  | .cmoInv m b a d => .mk m (6#6) (b) (a) (d) (115#7)
  | .tlbinvVa m b a d => .mk m (8#6) (b) (a) (d) (115#7)
  | .tlbinvCtx m b d => .mk m (9#6) (b) (0#6) (d) (115#7)
  | .tlbinvIpa m b a d => .mk m (10#6) (b) (a) (d) (115#7)
  | .tlbinvPart m b d => .mk m (11#6) (b) (0#6) (d) (115#7)
  | .cmoClOwn m b d => .mk m (12#6) (b) (0#6) (d) (115#7)
  | .cmoCliOwn m b d => .mk m (13#6) (b) (0#6) (d) (115#7)
  | .cmoInvOwn m b d => .mk m (14#6) (b) (0#6) (d) (115#7)
  | .seize m a d => .mk m (16#6) (0#6) (a) (d) (115#7)
  | .cede m a => .mk m (17#6) (0#6) (a) (0#6) (115#7)
  | .yieldslot m => .mk m (18#6) (0#6) (0#6) (0#6) (115#7)
  | .rfetch m b a d => .mk m (0#6) (b) (a) (d) (116#7)
  | .swait m b a d => .mk m (1#6) (b) (a) (d) (116#7)
  | .dispatch m b a d => .mk m (2#6) (b) (a) (d) (116#7)
  | .spost m b a d => .mk m (3#6) (b) (a) (d) (116#7)
  | .nop m i a h => .mk m (i.extractLsb' 6 6) (i.extractLsb' 0 6) (a) (h) (127#7)
  | .prefR m i a => .mk m (i.extractLsb' 6 6) (i.extractLsb' 0 6) (a) (1#6) (127#7)
  | .prefW m i a => .mk m (i.extractLsb' 6 6) (i.extractLsb' 0 6) (a) (2#6) (127#7)
  | .park _ _ => .mk false 0#6 0#6 0#6 0#6 0#7
  | .accessPerform _ _ _ => .mk false 0#6 0#6 0#6 0#6 0#7
  | .cacheFill _ => .mk false 0#6 0#6 0#6 0#6 0#7
  | .acknowledgement _ _ => .mk false 0#6 0#6 0#6 0#6 0#7
  | .heldReleasePerform _ _ => .mk false 0#6 0#6 0#6 0#6 0#7
  | .translationWalk _ _ _ => .mk false 0#6 0#6 0#6 0#6 0#7
  | .tlbinvComplete _ => .mk false 0#6 0#6 0#6 0#6 0#7
  | .cmoComplete _ => .mk false 0#6 0#6 0#6 0#6 0#7
  | .channelFailure _ => .mk false 0#6 0#6 0#6 0#6 0#7
  | .hotModeEnter _ _ => .mk false 0#6 0#6 0#6 0#6 0#7
  | .hotModeExit _ _ => .mk false 0#6 0#6 0#6 0#6 0#7
  | .dramWindowEnd _ => .mk false 0#6 0#6 0#6 0#6 0#7
  | .messageArrival _ => .mk false 0#6 0#6 0#6 0#6 0#7
  | .credit _ => .mk false 0#6 0#6 0#6 0#6 0#7
  | .remoteWriteArrival _ => .mk false 0#6 0#6 0#6 0#6 0#7
  | .forwardEndMarker _ => .mk false 0#6 0#6 0#6 0#6 0#7
  | .timerTick _ _ => .mk false 0#6 0#6 0#6 0#6 0#7
  | .firingStart _ => .mk false 0#6 0#6 0#6 0#6 0#7
  | .runQueueAging _ => .mk false 0#6 0#6 0#6 0#6 0#7
  | .priority0Interrupt _ => .mk false 0#6 0#6 0#6 0#6 0#7
  | .watchdogExpiry _ => .mk false 0#6 0#6 0#6 0#6 0#7
  | .atomicHandler _ => .mk false 0#6 0#6 0#6 0#6 0#7
  | .amsgHandlerRun _ => .mk false 0#6 0#6 0#6 0#6 0#7
  | .sendRetry _ => .mk false 0#6 0#6 0#6 0#6 0#7
  | .spawnAllocate _ => .mk false 0#6 0#6 0#6 0#6 0#7
  | .drayTakeCopy _ => .mk false 0#6 0#6 0#6 0#6 0#7
  | .drayUnitPerform _ _ _ => .mk false 0#6 0#6 0#6 0#6 0#7
  | .drayCopyComplete _ _ => .mk false 0#6 0#6 0#6 0#6 0#7
  | .leaseGrant _ => .mk false 0#6 0#6 0#6 0#6 0#7
  | .leaseBoundExpiry _ => .mk false 0#6 0#6 0#6 0#6 0#7
  | .wainCommandAccept _ => .mk false 0#6 0#6 0#6 0#6 0#7
  | .wainStageStep _ => .mk false 0#6 0#6 0#6 0#6 0#7
  | .wainCommandRetire _ => .mk false 0#6 0#6 0#6 0#6 0#7
  | .autoRenormalise _ => .mk false 0#6 0#6 0#6 0#6 0#7
  | .markerPost _ _ => .mk false 0#6 0#6 0#6 0#6 0#7
  | .tepiRetire _ => .mk false 0#6 0#6 0#6 0#6 0#7
  | .wainRampStep _ => .mk false 0#6 0#6 0#6 0#6 0#7
  | .mreadvDeadline _ => .mk false 0#6 0#6 0#6 0#6 0#7
  | .mirrorApply _ _ _ _ _ => .mk false 0#6 0#6 0#6 0#6 0#7
  | .proxyAccess _ _ => .mk false 0#6 0#6 0#6 0#6 0#7
  | .w2SramWrite _ _ _ => .mk false 0#6 0#6 0#6 0#6 0#7
  | .w2SramRead _ _ _ => .mk false 0#6 0#6 0#6 0#6 0#7
  | .w2UnmappedAccess _ _ _ => .mk false 0#6 0#6 0#6 0#6 0#7
  | .w2PayloadWrite _ _ _ _ => .mk false 0#6 0#6 0#6 0#6 0#7
  | .w2PayloadRead _ _ _ _ => .mk false 0#6 0#6 0#6 0#6 0#7
  | .w2Mpub _ _ => .mk false 0#6 0#6 0#6 0#6 0#7
  | .w2Mcommit _ _ => .mk false 0#6 0#6 0#6 0#6 0#7
  | .w2Mread _ _ => .mk false 0#6 0#6 0#6 0#6 0#7
  | .w2StampRead _ _ => .mk false 0#6 0#6 0#6 0#6 0#7
  | .w2Munpin _ _ => .mk false 0#6 0#6 0#6 0#6 0#7
  | .w1Notify _ _ _ => .mk false 0#6 0#6 0#6 0#6 0#7
  | .w1QueueConfigWrite _ _ _ _ => .mk false 0#6 0#6 0#6 0#6 0#7
  | .notifyBoundExpiry _ _ => .mk false 0#6 0#6 0#6 0#6 0#7
  | .teamComplete _ => .mk false 0#6 0#6 0#6 0#6 0#7
  | .slotGuardStart => .mk false 0#6 0#6 0#6 0#6 0#7
  | .slotEdge => .mk false 0#6 0#6 0#6 0#6 0#7
  | .debtTimeEnd => .mk false 0#6 0#6 0#6 0#6 0#7
  | .donationIdle => .mk false 0#6 0#6 0#6 0#6 0#7
  | .seizeLendWatchdog _ => .mk false 0#6 0#6 0#6 0#6 0#7
  | .preemptEstimate _ => .mk false 0#6 0#6 0#6 0#6 0#7
  | .preemptDrain _ => .mk false 0#6 0#6 0#6 0#6 0#7
  | .preemptDiscard _ => .mk false 0#6 0#6 0#6 0#6 0#7
  | .preemptSave _ => .mk false 0#6 0#6 0#6 0#6 0#7
  | .preemptComplete => .mk false 0#6 0#6 0#6 0#6 0#7
  | .teamResume _ => .mk false 0#6 0#6 0#6 0#6 0#7
  | .vfReset _ => .mk false 0#6 0#6 0#6 0#6 0#7
  | .vfResetTimeout _ => .mk false 0#6 0#6 0#6 0#6 0#7
  | .deviceReset => .mk false 0#6 0#6 0#6 0#6 0#7
  | .migrationPrecopy _ => .mk false 0#6 0#6 0#6 0#6 0#7
  | .migrationStopping _ => .mk false 0#6 0#6 0#6 0#6 0#7
  | .migrationAbandon _ => .mk false 0#6 0#6 0#6 0#6 0#7
  | .migrationResuming _ => .mk false 0#6 0#6 0#6 0#6 0#7
  | .migrationRestore _ => .mk false 0#6 0#6 0#6 0#6 0#7
  | .migrationDataRead => .mk false 0#6 0#6 0#6 0#6 0#7
  | .migrationDataWrite _ => .mk false 0#6 0#6 0#6 0#6 0#7
  | .retentionEntry _ => .mk false 0#6 0#6 0#6 0#6 0#7
  | .retentionExit _ _ => .mk false 0#6 0#6 0#6 0#6 0#7
  | .powerEstimate _ _ _ => .mk false 0#6 0#6 0#6 0#6 0#7
  | .allowanceCompute => .mk false 0#6 0#6 0#6 0#6 0#7
  | .opPointChange _ => .mk false 0#6 0#6 0#6 0#6 0#7
  | .sensorSample _ => .mk false 0#6 0#6 0#6 0#6 0#7
  | .throttleRise _ => .mk false 0#6 0#6 0#6 0#6 0#7
  | .heartbeatSend => .mk false 0#6 0#6 0#6 0#6 0#7
  | .heartbeatArrival => .mk false 0#6 0#6 0#6 0#6 0#7
  | .heartbeatTimeout => .mk false 0#6 0#6 0#6 0#6 0#7
  | .demoteArrival _ => .mk false 0#6 0#6 0#6 0#6 0#7
  | .mirroredW2Write _ _ => .mk false 0#6 0#6 0#6 0#6 0#7
  | .spareLinkTrain => .mk false 0#6 0#6 0#6 0#6 0#7
  | .spareLinkLoss => .mk false 0#6 0#6 0#6 0#6 0#7
  | .promote => .mk false 0#6 0#6 0#6 0#6 0#7
  | .followerEnter => .mk false 0#6 0#6 0#6 0#6 0#7
  | .ptmExchange _ => .mk false 0#6 0#6 0#6 0#6 0#7
  | .bootCommand _ => .mk false 0#6 0#6 0#6 0#6 0#7
  | .attestationNonceWrite _ _ => .mk false 0#6 0#6 0#6 0#6 0#7
  | .capabilityKeyInstall _ _ => .mk false 0#6 0#6 0#6 0#6 0#7
  | .coreRetire _ => .mk false 0#6 0#6 0#6 0#6 0#7
  | .errorLogClear => .mk false 0#6 0#6 0#6 0#6 0#7
  | .memoryConfigWrite _ => .mk false 0#6 0#6 0#6 0#6 0#7
  | .wayMaskWrite _ _ _ => .mk false 0#6 0#6 0#6 0#6 0#7
  | .slotWayWrite _ _ => .mk false 0#6 0#6 0#6 0#6 0#7
  | .contextEntryWrite _ _ => .mk false 0#6 0#6 0#6 0#6 0#7
  | .lockedSramRangeWrite _ _ _ => .mk false 0#6 0#6 0#6 0#6 0#7
  | .windowWrite _ _ _ => .mk false 0#6 0#6 0#6 0#6 0#7
  | .limitWrite _ _ => .mk false 0#6 0#6 0#6 0#6 0#7
  | .dramShareWrite _ _ => .mk false 0#6 0#6 0#6 0#6 0#7
  | .objectEnable _ _ => .mk false 0#6 0#6 0#6 0#6 0#7
  | .objectDisable _ _ => .mk false 0#6 0#6 0#6 0#6 0#7
  | .clearPins _ => .mk false 0#6 0#6 0#6 0#6 0#7
  | .cancelReservation _ => .mk false 0#6 0#6 0#6 0#6 0#7
  | .objectMapWrite _ _ _ => .mk false 0#6 0#6 0#6 0#6 0#7
  | .routeWordWrite _ _ => .mk false 0#6 0#6 0#6 0#6 0#7
  | .intervalWrite _ _ => .mk false 0#6 0#6 0#6 0#6 0#7
  | .slotTableEnable _ => .mk false 0#6 0#6 0#6 0#6 0#7
  | .slotTableDisable _ => .mk false 0#6 0#6 0#6 0#6 0#7
  | .deviceStateRun _ => .mk false 0#6 0#6 0#6 0#6 0#7
  | .deviceStateRetain _ => .mk false 0#6 0#6 0#6 0#6 0#7
  | .deviceStateGroveoff _ => .mk false 0#6 0#6 0#6 0#6 0#7
  | .thermalLimitsWrite _ => .mk false 0#6 0#6 0#6 0#6 0#7
  | .powerStatusClear _ => .mk false 0#6 0#6 0#6 0#6 0#7
  | .accumulatorRead _ _ => .mk false 0#6 0#6 0#6 0#6 0#7
  | .pfErrorLogClear => .mk false 0#6 0#6 0#6 0#6 0#7
  | .apertureWrite _ _ _ => .mk false 0#6 0#6 0#6 0#6 0#7
  | .controlWordWrite _ _ _ _ => .mk false 0#6 0#6 0#6 0#6 0#7
  | .swaitDeadline _ => .mk false 0#6 0#6 0#6 0#6 0#7
  | .powerLoss => .mk false 0#6 0#6 0#6 0#6 0#7
  | .heldFiringRequest _ => .mk false 0#6 0#6 0#6 0#6 0#7
  | .forkRecruitment _ => .mk false 0#6 0#6 0#6 0#6 0#7
  | .tenderCommandAccept _ => .mk false 0#6 0#6 0#6 0#6 0#7

/-- The word of an instruction (R212 to R226). -/
def encode (i : Instr) : BitVec 32 := (encodeFields i).toWord

/-- The instruction the decoder reads from an instruction whose bits are `w`, numbered as the opcode table numbers them: one
little-endian 32-bit word (R211), bits at and above `nbits` zero. -/
def decodeTableWord (nbits w : Nat) : Option Instr :=
  match decode (BitVec.ofNat 32 (w % 2 ^ nbits)) with
  | .ok i => some i
  | .error _ => none

end Sys2Proof
end

