-- ==== Sys2Proof/Machine/Handler.lean ====
section
/-! DEFINITION. User handlers in an atomic handler context (R312): at most 256 words over eight registers, run in one
step when their entry reaches the head of the handler queue. -/

namespace Sys2Proof.Machine

/-- Where a handler context keeps its registers and PC while it runs: a core number that names no core. -/
def handlerCtx : Nat := 0xEFF

/-- The state of a handler context: eight registers, a trap entry so that any fault shows in InT, and the event counters of
the core `k` it runs on (R253). -/
def handlerStart (k : Core) (e : HqEnt) : Core :=
  let w : Wk := { ent := 1, wsid := 0#16, gen := 0#12, part := e.part, idx := 0, place := some 0, allot := 8, trap := 4#64, st := .running }
  let c : Core := { run := true, pc := e.pc, dir := [w], evsel := k.evsel, ev := k.ev }
  ((c.setReg 1#6 e.ga).setReg 2#6 e.arg).setReg 3#6 (mkWord [(0, e.src), (12, e.part.toNat)])

/-- The register and branch words of majors 0x01 to 0x0E and 0x10 to 0x1A, run in the handler context. -/
def handlerArm (s : State) : Instr → Option (Host.Outcome State Fault Refusal)
  | .add m b a d => some (Machine.execAdd m b a d s)
  | .sub m b a d => some (Machine.execSub m b a d s)
  | .and m b a d => some (Machine.execAnd m b a d s)
  | .or m b a d => some (Machine.execOr m b a d s)
  | .xor m b a d => some (Machine.execXor m b a d s)
  | .andn m b a d => some (Machine.execAndn m b a d s)
  | .sll m b a d => some (Machine.execSll m b a d s)
  | .srl m b a d => some (Machine.execSrl m b a d s)
  | .sra m b a d => some (Machine.execSra m b a d s)
  | .ror m b a d => some (Machine.execRor m b a d s)
  | .slt m b a d => some (Machine.execSlt m b a d s)
  | .sltn m b a d => some (Machine.execSltn m b a d s)
  | .seq m b a d => some (Machine.execSeq m b a d s)
  | .min m b a d => some (Machine.execMin m b a d s)
  | .max m b a d => some (Machine.execMax m b a d s)
  | .minn m b a d => some (Machine.execMinn m b a d s)
  | .maxn m b a d => some (Machine.execMaxn m b a d s)
  | .mul m b a d => some (Machine.execMul m b a d s)
  | .mulh m b a d => some (Machine.execMulh m b a d s)
  | .mulhn m b a d => some (Machine.execMulhn m b a d s)
  | .div m b a d => some (Machine.execDiv m b a d s)
  | .divn m b a d => some (Machine.execDivn m b a d s)
  | .rem m b a d => some (Machine.execRem m b a d s)
  | .remn m b a d => some (Machine.execRemn m b a d s)
  | .clz m a d => some (Machine.execClz m a d s)
  | .ctz m a d => some (Machine.execCtz m a d s)
  | .popc m a d => some (Machine.execPopc m a d s)
  | .adds m b a d => some (Machine.execAdds m b a d s)
  | .subs m b a d => some (Machine.execSubs m b a d s)
  | .selz m b a d => some (Machine.execSelz m b a d s)
  | .selnz m b a d => some (Machine.execSelnz m b a d s)
  | .bswap m a d => some (Machine.execBswap m a d s)
  | .addi m i a d => some (Machine.execAddi m i a d s)
  | .andi m i a d => some (Machine.execAndi m i a d s)
  | .ori m i a d => some (Machine.execOri m i a d s)
  | .xori m i a d => some (Machine.execXori m i a d s)
  | .slti m i a d => some (Machine.execSlti m i a d s)
  | .sltni m i a d => some (Machine.execSltni m i a d s)
  | .slli m n a d => some (Machine.execSlli m n a d s)
  | .srli m n a d => some (Machine.execSrli m n a d s)
  | .srai m n a d => some (Machine.execSrai m n a d s)
  | .rori m n a d => some (Machine.execRori m n a d s)
  | .bfx m p l a d => some (Machine.execBfx m p l a d s)
  | .bfxs m p l a d => some (Machine.execBfxs m p l a d s)
  | .bfi m p l a d => some (Machine.execBfi m p l a d s)
  | .lui m n v d => some (Machine.execLui m n v d s)
  | .adpc m i d => some (Machine.execAdpc m i d s)
  | .btst m n k a d => some (Machine.execBtst m n k a d s)
  | .bset m n k a d => some (Machine.execBset m n k a d s)
  | .bclr m n k a d => some (Machine.execBclr m n k a d s)
  | .binv m n k a d => some (Machine.execBinv m n k a d s)
  | .beq m o b a => some (Machine.execBeq m o b a s)
  | .bne m o b a => some (Machine.execBne m o b a s)
  | .blt m o b a => some (Machine.execBlt m o b a s)
  | .bge m o b a => some (Machine.execBge m o b a s)
  | .bltn m o b a => some (Machine.execBltn m o b a s)
  | .bgen m o b a => some (Machine.execBgen m o b a s)
  | .bbs m o n a => some (Machine.execBbs m o n a s)
  | .bbc m o n a => some (Machine.execBbc m o n a s)
  | .j m o => some (Machine.execJ m o s)
  | .jl m o => some (Machine.execJl m o s)
  | .jlr m i a d => some (Machine.execJlr m i a d s)
  | .grd m n k a => some (Machine.execGrd m n k a s)
  | .grdn m n k a => some (Machine.execGrdn m n k a s)
  | _ => none

/-- What a handler's next word comes to: it goes on, it has ended, or it is abandoned at a word. -/
inductive HStep where
  | go (s : State) (c : Core)
  | fin (s : State) (c : Core)
  | bad (s : State) (c : Core) (word : W32)

/-- Whether a handler of a partition on a tile may access `n` bytes: aligned, in the LM of its own tile, held by the
sender's partition. -/
def State.handlerOk (s : State) (tile : Nat) (p : BitVec 6) (a : W64) (n : Nat) : Bool :=
  clsOf a == 1 && decide (tileOf (fld a 59 48) = tile) && a.toNat % n == 0 && s.wellFormed a n && s.holds p .firing a n

/-- The park of a handler's run, when it is due: no result of a handler is still to come (R215). -/
def handlerPark (s : State) (c : Core) : Core :=
  if c.parkDue then ((s.setCore handlerCtx c).parkCtl handlerCtx).core handlerCtx else c

/-- The word of the first held result that came back with a fault, which its run's park takes (R218). -/
def Core.badHeld (c : Core) : Option W32 := c.held.findSome? fun h => if (c.heldVals h).2.isSome then some h.word else none

/-- What a word comes to with the park of its run, when that is due: a fault that a result carries abandons the handler there
(R218, R312). -/
def handlerGo (s : State) (c : Core) : HStep :=
  match (if c.parkDue then c.badHeld else none) with
  | some w => .bad s c w
  | none => .go s (handlerPark s c)

/-- The end of a load or store of a handler (R212, R215, R219). -/
def handlerNext (s : State) (c : Core) (m : Bool) : HStep := handlerGo s (c.finish m false (c.pc + 4#64))

/-- Whether the guard window suppresses a handler's next word (R220). -/
def Core.suppressed (c : Core) : Bool := decide (0 < c.guard.rem) && c.guard.pred != c.guard.sense

/-- A load of a handler holds its value, or its data error, to the park of its run (R215, R218). -/
def Core.holdLoad (c : Core) (d : R6) (e : Ext) (w : W32) (v : W64) (f : Option Flt) : Core :=
  { c with
    accNext := c.accNext + 1, ret := kput c.ret c.accNext { vals := [v], flt := f }
    held := c.held ++ [{ dest := .reg d, waits := [c.accNext], ext := e, word := w }] }

/-- A handler's load, checked in the order of R220. One that would be the 33rd of its run parks first (R217). -/
def handlerLoad (tile : Nat) (p : BitVec 6) (s : State) (c : Core) (w : W32) (m : Bool) (n : Nat) (e : Ext) (i : BitVec 12)
    (a d : R6) : HStep :=
  if 7 < a.toNat ∨ 7 < d.toNat then .bad s c w
  else if c.suppressed then handlerNext s c m
  else
    match (if 32 ≤ c.held.length then c.badHeld else none) with
    | some w => .bad s c w
    | none =>
      let c := if 32 ≤ c.held.length then handlerPark s { c with parkDue := true } else c
      let va := effAddr (c.reg a) i
      let (h, k) := s.homeOf va
      if !(s.handlerOk tile p va n) then .bad s c w
      else
        match s.eccSpan k n with
        | (s, e1) =>
          handlerNext s (c.holdLoad d e w (BitVec.ofNat 64 (s.homeNat h k n)) (e1.map fun x => fltAt causeData (eccAddr va x))) m

/-- A handler's store. -/
def handlerStore (tile : Nat) (p : BitVec 6) (s : State) (c : Core) (w : W32) (m : Bool) (n : Nat) (i : BitVec 12) (b a : R6) :
    HStep :=
  let va := effAddr (c.reg a) i
  if 7 < a.toNat ∨ 7 < b.toNat then .bad s c w
  else if c.suppressed then handlerNext s c m
  else if !(s.handlerOk tile p va n) then .bad s c w
  else
    let (h, k) := s.homeOf va
    let s := s.setHome h k (toBytes n (c.reg b).toNat)
    handlerNext s c m

/-- A register word issued in the handler context: the context after it, parked where its run ends; none for a word that a
handler may not execute. -/
def handlerIssue (s : State) (c : Core) (i : Instr) : Option Core :=
  match handlerArm { s.setCore handlerCtx c with mover := { core := handlerCtx, strm := .ctl } } i with
  | some (.next t) => some (t.core handlerCtx)
  | _ => none

/-- A register word: a fault, or a register above g7, abandons. One that parks first issues again (R217). -/
def handlerRegWord (s : State) (c : Core) (w : W32) (i : Instr) : HStep :=
  match handlerIssue s c i with
  | none => .bad s c w
  | some c1 =>
    let again := c1.parkDue && c1.pc == c.pc
    match (if again then c1.badHeld else none) with
    | some w => .bad s c w
    | none =>
      match (if again then handlerIssue s (handlerPark s c1) i else some c1) with
      | none => .bad s c w
      | some c2 => if c2.inT || !c2.run then .bad s c w else handlerGo s c2

/-- One word of a handler. Its fetch obeys R39 and R40 (R211). -/
def handlerWord (tile : Nat) (p : BitVec 6) (s : State) (c : Core) : HStep :=
  if !(s.handlerOk tile p c.pc 4) then .bad s c 0#32
  else
    match s.eccSpan (lmKey tile (fld c.pc 47 0)) 4 with
    | (s, some _) => .bad s c 0#32
    | (s, none) =>
    let w : W32 := BitVec.ofNat 32 (s.lmNat tile (fld c.pc 47 0) 4)
    match decode w with
    | .error _ => .bad s c w
    | .ok i =>
      match i with
      | .endF m =>
        if c.suppressed then handlerNext s c m
        else
          match c.badHeld with
          | some w => .bad s c w
          | none => .fin s c
      | .ldB m i a d => handlerLoad tile p s c w m 1 (.zero 8) i a d
      | .ldBS m i a d => handlerLoad tile p s c w m 1 (.sign 8) i a d
      | .ldH m i a d => handlerLoad tile p s c w m 2 (.zero 16) i a d
      | .ldHS m i a d => handlerLoad tile p s c w m 2 (.sign 16) i a d
      | .ldW m i a d => handlerLoad tile p s c w m 4 (.zero 32) i a d
      | .ldWS m i a d => handlerLoad tile p s c w m 4 (.sign 32) i a d
      | .ldD m i a d => handlerLoad tile p s c w m 8 .raw i a d
      | .stB m i b a => handlerStore tile p s c w m 1 i b a
      | .stH m i b a => handlerStore tile p s c w m 2 i b a
      | .stW m i b a => handlerStore tile p s c w m 4 i b a
      | .stD m i b a => handlerStore tile p s c w m 8 i b a
      | i => handlerRegWord s c w i

/-- HANDLER_ABANDON: the record goes to the sender's partition. -/
def State.handlerAbandon (s : State) (l : Nat) (p : BitVec 6) (pc : W64) (word : W32) : State :=
  let f : Flt := { code := 0x17#8, faddr := some 0#64, xinfo := some 0#64, word := word }
  s.postRecord p (s.faultRecord l f {} false false {} pc)

/-- What a handler's words count, its core counts (R253). -/
def State.handlerEvents (s : State) (l : Nat) (c : Core) : State := s.updCore l fun x => { x with ev := c.ev }

/-- A handler that ends, or is abandoned, parks first, so that results it holds count what they count (R217, R253). -/
def State.handlerEnd (s : State) (l : Nat) (c : Core) : State :=
  s.handlerEvents l (handlerPark s { c with parkDue := true })

/-- Runs a handler that may execute `left` words more; a word that a guard suppresses is not executed (R219, R220, R312). The last
number bounds the words, at most eight suppressed ones to each that is executed. -/
def State.handlerRun (s : State) (l : Nat) (p : BitVec 6) (c : Core) (left : Nat) : Nat → State
  | 0 => (s.handlerEnd l c).handlerAbandon l p c.pc 0#32
  | k + 1 =>
    if left = 0 ∧ !c.suppressed then (s.handlerEnd l c).handlerAbandon l p c.pc 0#32
    else
      match handlerWord (tileOf l) p s c with
      | .go t d => (t.handlerEvents l d).handlerRun l p d (if c.suppressed then left else left - 1) k
      | .fin t d => t.handlerEnd l d
      | .bad t d w => (t.handlerEnd l d).handlerAbandon l p d.pc w

/-- AMSG_HANDLER_RUN: the user handler at the head of a core's handler queue runs (R312). -/
def State.amsgHandler (s : State) (l : Nat) : State :=
  match (s.core l).hq with
  | e :: t =>
    if !e.amsg then s
    else if !(s.homeLive (.lm (tileOf l))) then s.wakeHome (.lm (tileOf l))
    else
      let s := s.updCore l fun c => { c with hq := t }
      (s.handlerRun l e.part (handlerStart (s.core l) e) 256 2560).reevalTile (tileOf l)
  | [] => s

end Sys2Proof.Machine
end

