-- ==== Sys2Proof/Machine/System.lean ====
section
/-! DEFINITION. Traps and returns, control words, cache maintenance, TLBINV, seizure and slot yield (chapters 2 and 16). -/

namespace Sys2Proof.Machine

/-! ### TRAP and TRET (R359 to R361) -/

/-- TRAP: cw.xinfo := gA and cause 0x01; the firing resumes at the word after, and its guard window has used the word once
the trap is taken (log entry 82). -/
def execTrap (m : Bool) (a : R6) (s : State) :=
  issue { names := [a], reads := [a] } m s fun s l =>
    let c := s.core l
    .trapAt (s.setCore l { c with parkDue := c.parkDue || (m && !c.held.isEmpty) }) { code := causeTrap, xinfo := some (s.reg l a) } (c.pc + 4#64)

/-- TRET of the running firing's handler. -/
def execTret (m : Bool) (s : State) :=
  issue { park := true } m s fun s l =>
    let c := s.core l
    if c.inT then .gone (s.setCore l { c.trapReturn l with wait := .none }) else .trap s (flt causeIllegal)

/-- The checks of a request on a held firing. -/
def State.tretBad (s : State) (l : Nat) (h act : W64) : Option Flt :=
  let c := s.core l
  let k := fld h 59 48
  if fld act 1 0 = 3 ∨ fld act 5 2 ≠ 0 ∨ fld act 63 12 ≠ 0 then some (flt causeReserved)
  else if !(isArrayCore k) then some (flt causeAccess)
  else if !(modeGe c.mode .hypervisor) && !(s.holdsCore c.part.toNat k) then some (flt causeAccess)
  else none

/-- TRET on a held firing: a request to its core, whose reply is the status. -/
def execTretHeld (m : Bool) (b a d : R6) (s : State) :=
  issue { least := .partition, park := true, names := [a, b, d], reads := [a, b] } m s fun s l =>
    let h := s.reg l a
    let act := s.reg l b
    let c := s.core l
    match c.wait with
    | .got v _ => .done (s.setReg l d v)
    | .refused f => .trap s f
    | .sent _ => .stall s
    | .none =>
      match s.tretBad l h act with
      | some f => .trap s f
      | none =>
        let (s, tag) := s.newTag l
        awaitReply (s.sendPkt { n := 0, src := l, dst := fld h 59 48, part := c.part, acc := tag,
                                kind := .tret h act (modeGe c.mode .hypervisor) }) l tag

/-! ### Control words (R362) -/

def execCwr (m : Bool) (n d : R6) (s : State) :=
  issue { least := cwReadMode n.toNat, names := [d] } m s fun s l =>
    match s.cwRead l n.toNat with
    | some v => .done (s.setReg l d v)
    | none => .trap s (flt causeIllegal)

/-- CWW; to cw.wp it parks first (R217). -/
def execCww (m : Bool) (n a : R6) (s : State) :=
  issue { least := (cwWriteMode n.toNat).getD .firing, park := n == 0#6, names := [a], reads := [a] } m s fun s l =>
    let c := s.core l
    match s.cwWrite { src := l, mode := c.mode, part := c.part } l n.toNat (s.reg l a) with
    | (s, none) => .done s
    | (s, some f) => .trap s f

/-! ### Counters of maintenance operations (R61, R365) -/

/-- The counter address of a maintenance word: none with d = 0. -/
def State.maintCtr (s : State) (l : Nat) (d : R6) : State × Except Flt (Option Ctr) :=
  if d = 0#6 then (s, .ok none)
  else
    let a := s.reg l d
    if (clsOf a ≠ 0 ∧ clsOf a ≠ 1) ∨ a.toNat % 8 ≠ 0 then (s, .error (fltAt causeAddress a))
    else
      match s.check l { acc := .write, n := 8, align := 8 } a with
      | (s, .error f) => (s, .error f)
      | (s, .ok t) => (s, .ok (some { home := t.home, key := t.key, va := a }))

/-- A maintenance word whose own checks passed: its counter, room among 16 of its kind, and it is outstanding. -/
def maintWord (tlb : Bool) (form : Nat) (a b : W64) (d : R6) (s : State) (l : Nat) : Out :=
  match s.maintCtr l d with
  | (s, .error f) => .trap s f
  | (s, .ok ctr) =>
    let c := s.core l
    if 16 ≤ c.maint.countP (·.tlbinv == tlb) then .stall s
    else
      let x : Maint :=
        { tlbinv := tlb, form := form, a := a, b := b, counter := ctr, waits := c.writesOut, part := c.part, ctx := c.ctx
          mode := c.mode, word := c.curWord, owner := c.owner l }
      .done (s.setCore l { c with maint := c.maint ++ [x] })

/-! ### TLBINV (R60 to R64) -/

/-- Orders 4 and 5 of R61: the context exists and, in partition mode, is the issuer's. -/
def State.ctxBad (s : State) (l ctx : Nat) : Bool :=
  let c := s.core l
  decide (512 < ctx) || (c.mode == .partition && fld (s.dcw (0x020000 + 8 * ctx)) 53 48 != c.part.toNat)

def pagesPast (a b : W64) : Bool := decide (2 ^ 48 < fld a 47 12 * 4096 + (fld b 31 16 + 1) * 4096)

def execTlbinvVa (m : Bool) (b a d : R6) (s : State) :=
  issue { least := .partition, names := [a, b, d], reads := [a, b, d] } m s fun s l =>
    let x := s.reg l a
    let y := s.reg l b
    if fld y 63 32 ≠ 0 ∨ fld y 15 10 ≠ 0 ∨ fld x 63 48 ≠ 0 then .trap s (flt causeReserved)
    else if s.ctxBad l (fld y 9 0) then .trap s (flt causeAccess)
    else if pagesPast x y then .trap s (fltAt causeAddress x)
    else maintWord true 8 x y d s l

def execTlbinvCtx (m : Bool) (b d : R6) (s : State) :=
  issue { least := .partition, names := [b, d], reads := [b, d] } m s fun s l =>
    let y := s.reg l b
    if fld y 63 10 ≠ 0 then .trap s (flt causeReserved)
    else if s.ctxBad l (fld y 9 0) then .trap s (flt causeAccess)
    else maintWord true 9 0#64 y d s l

def execTlbinvIpa (m : Bool) (b a d : R6) (s : State) :=
  issue { least := .hypervisor, names := [a, b, d], reads := [a, b, d] } m s fun s l =>
    let x := s.reg l a
    let y := s.reg l b
    if fld y 63 32 ≠ 0 ∨ fld y 15 6 ≠ 0 ∨ fld x 63 48 ≠ 0 then .trap s (flt causeReserved)
    else if pagesPast x y then .trap s (fltAt causeAddress x)
    else maintWord true 10 x y d s l

def execTlbinvPart (m : Bool) (b d : R6) (s : State) :=
  issue { least := .hypervisor, names := [b, d], reads := [b, d] } m s fun s l =>
    let y := s.reg l b
    if fld y 63 6 ≠ 0 then .trap s (flt causeReserved) else maintWord true 11 0#64 y d s l

/-- Whether a TLBINV form names a translation (R62). -/
def Maint.names (x : Maint) (part : BitVec 6) (ctx : BitVec 10) (va size : Nat) : Bool :=
  let lo := fld x.a 47 12 * 4096
  let hi := lo + (fld x.b 31 16 + 1) * 4096
  let byCtx := ctx == BitVec.ofNat 10 (fld x.b 9 0)
  if x.form = 8 then byCtx && decide (va < hi) && decide (lo < va + 2 ^ size)
  else if x.form = 9 then byCtx
  else part == BitVec.ofNat 6 (fld x.b 5 0)

/-- The accesses of threads translated through a removed entry and not performed yet (R64). -/
def State.namedAccs (s : State) (x : Maint) : List (Nat × Nat) :=
  s.cores.flatMap fun c => (c.2.acc.filter fun a => a.st != .performed && (match a.tlb with
    | some (va, size) => x.names a.part a.ctx va size
    | none => false)).map fun a => (c.1, a.n)

/-- The units of a copy that lie on a page translated through a removed entry and are not performed yet: they complete under
the old mapping, those that translation has not come to as well (R64). -/
def Copy.namedUnits (c : Copy) (x : Maint) : List Nat :=
  (List.range c.total).filter fun u => !(c.units.contains u) && (match c.cmd.unit u with
    | some (row, off, len) =>
      let a := cpSrc c.cmd.recs row + BitVec.ofNat 64 off
      let b := cpDst c.cmd.recs row + BitVec.ofNat 64 off
      [c.page row false (fld a 47 0), c.page row false (fld (a + BitVec.ofNat 64 (len - 1)) 47 0), c.page row true (fld b 47 0)].any
        fun p => match p with
          | some p => x.names c.cmd.part c.cmd.ctx p.ent.va p.ent.size
          | none => false
    | none => false)

def State.namedCopies (s : State) (x : Maint) : List (Nat × Nat × Nat) :=
  s.cores.flatMap fun c => c.2.copies.flatMap fun y => (y.namedUnits x).map fun u => (c.1, y.sq, u)

/-- Whether everything a started TLBINV waits for is performed. -/
def State.maintSettled (s : State) (x : Maint) : Bool :=
  (x.removed.all fun y => match (s.core y.1).accNo y.2 with
    | some a => a.st == .performed
    | none => true) &&
  (x.copies.all fun y => match (s.core y.1).copies.find? (·.sq == y.2.1) with
    | some c => c.units.contains y.2.2 || decide (c.total ≤ y.2.2)
    | none => true)

/-- Replaces the first outstanding operation of a kind, or takes it away. -/
def setMaint (tlb : Bool) (r : Option Maint) : List Maint → List Maint
  | [] => []
  | x :: t => if x.tlbinv = tlb then r.toList ++ t else x :: setMaint tlb r t

def Maint.clear (x : Maint) (c : Core) : Bool := x.waits.all fun n => (c.accNo n).isNone

/-- The increment that completes a maintenance operation of core `l` (R62, R366). -/
def Maint.add (x : Maint) (l : Nat) : Option CtrAdd :=
  x.counter.map fun c =>
    { core := l, op := none, part := x.part, ctx := x.ctx, mode := x.mode, ctr := c, owner := x.owner, eng := 0#2, word := x.word }

/-- TLBINV_COMPLETE: the removal, and then the counter, of the core's oldest TLBINV, which stays outstanding until the counter's
home takes the increment (R62, R63). -/
def State.tlbStep (s : State) (l : Nat) : State :=
  match (s.core l).maint.find? (·.tlbinv) with
  | none => s
  | some x =>
    if !x.started then
      if x.clear (s.core l) then
        let x := { x with started := true, removed := s.namedAccs x, copies := s.namedCopies x }
        (s.tlbRemove x.form x.a x.b).updCore l fun c => { c with maint := setMaint true (some x) c.maint }
      else s
    else if s.maintSettled x then
      match s.ctrAsleep (x.add l) with
      | some h => s.wakeHome h
      | none => (s.counterPost (x.add l)).updCore l fun c => { c with maint := setMaint true none c.maint }
    else s

/-! ### Cache maintenance (R110, R365, R366) -/

/-- A range form: `form` 4 clean, 5 clean-invalidate, 6 invalidate. -/
def cmoRange (form : Nat) (m : Bool) (b a d : R6) (s : State) : Host.Outcome State Fault Refusal :=
  issue { least := .partition, names := [a, b, d], reads := [a, b, d] } m s fun s l =>
    let x := s.reg l a
    let y := s.reg l b
    if fld x 63 48 ≠ 0 ∨ y = 0#64 ∨ 2 ^ 40 < y.toNat then .trap s (flt causeReserved)
    else if isClearing l then .trap s (fltAt causeAccess x)
    else maintWord false form x y d s l

def execCmoCl (m : Bool) (b a d : R6) (s : State) := cmoRange 4 m b a d s
def execCmoCli (m : Bool) (b a d : R6) (s : State) := cmoRange 5 m b a d s
def execCmoInv (m : Bool) (b a d : R6) (s : State) := cmoRange 6 m b a d s

/-- An owner form. -/
def cmoOwn (form : Nat) (m : Bool) (b d : R6) (s : State) : Host.Outcome State Fault Refusal :=
  issue { least := .hypervisor, names := [b, d], reads := [b, d] } m s fun s l =>
    let y := s.reg l b
    if fld y 63 6 ≠ 0 then .trap s (flt causeReserved) else maintWord false (8 + form) 0#64 y d s l

def execCmoClOwn (m : Bool) (b d : R6) (s : State) := cmoOwn 4 m b d s
def execCmoCliOwn (m : Bool) (b d : R6) (s : State) := cmoOwn 5 m b d s
def execCmoInvOwn (m : Bool) (b d : R6) (s : State) := cmoOwn 6 m b d s

/-- The operation on one present line: 4 clean, 5 clean-invalidate, 6 invalidate. -/
def State.cmoLine (s : State) (op : Nat) (w : Way) : State :=
  let pa := w.line * 64
  if w.st = .pending then s
  else if op = 4 then
    if w.st = .dirty then
      (s.writeBack w).putSet pa ((s.setAt pa).map fun y => if y.line = w.line then { y with st := .clean } else y)
    else s
  else if op = 5 then s.evictLine w
  else s.putSet pa ((s.setAt pa).filter (·.line != w.line))

/-- The read of a dirty line that an operation writes back meets what the arrays of its way show (R111). -/
def State.cmoCheck (s : State) (op line : Nat) : State :=
  match s.wayOf (64 * line) with
  | some w => if w.st = .dirty ∧ op ≠ 6 then s.checkWay (64 * line) else s
  | none => s

/-- The operation on the lines of `n` bytes from a physical address. -/
def State.cmoLines (s : State) (op line : Nat) : Nat → State
  | 0 => s
  | k + 1 =>
    let s := s.cmoCheck op line
    let s := match s.wayOf (64 * line) with
      | some w => s.cmoLine op w
      | none => s
    s.cmoLines op (line + 1) k

/-- The pages of a range, in ascending order, to the first that faults (R366). -/
def State.cmoPages (s : State) (l op : Nat) (x : Maint) (va : Nat) : Nat → State × Option Flt
  | 0 => (s, none)
  | k + 1 =>
    let acc : XAcc := if op = 4 then .read else .write
    let at_ := BitVec.ofNat 64 va
    if 2 ^ 48 ≤ va then (s, some (fltAt causeAddress at_))
    else
      match s.translate l x.part x.ctx x.mode acc va with
      | (s, .error f) => (s, some (xlatFlt f acc x.ctx at_))
      | (s, .ok r) => (s.cmoLines op (r.pa / 4096 * 64) 64).cmoPages l op x (va / 4096 * 4096 + 4096) k

/-- Every line of every slice that a partition owns. -/
def State.cmoOwner (s : State) (op : Nat) (p : BitVec 6) : State :=
  (s.linesIn (fun _ => true) fun _ w => w.owner == p).foldl (fun s line => s.cmoLines op line 1) s

/-- CMO_COMPLETE: the core's oldest maintenance operation is done and counted, once the counter's home takes the increment;
invalidation from partition mode cleans (R366). -/
def State.cmoStep (s : State) (l : Nat) : State :=
  match (s.core l).maint.find? (!·.tlbinv) with
  | none => s
  | some x =>
    if !(x.clear (s.core l)) then s
    else match s.ctrAsleep (x.add l) with
    | some h => s.wakeHome h
    | none =>
      let own := decide (8 ≤ x.form)
      let op := x.form % 8
      let op := if op = 6 ∧ x.mode = .partition then 5 else op
      let va := fld x.a 47 0
      let r : State × Option Flt :=
        if own then (s.cmoOwner op (BitVec.ofNat 6 (fld x.b 5 0)), none)
        else s.cmoPages l op x va ((va + x.b.toNat - 1) / 4096 - va / 4096 + 1)
      let s := (r.1.counterPost (x.add l)).updCore l fun c => { c with maint := setMaint false none c.maint }
      match r.2 with
      | some f => s.deferFlt l x.owner x.part { f with word := x.word, late := true }
      | none => s

/-! ### Seizure and slot yield (R367 to R369) -/

/-- The Grove clusters that a pair of mask words names. -/
def maskClusters (lo hi : W64) : List Nat :=
  ((List.range 64).filter fun c => bit lo c) ++ ((List.range 64).filter fun c => bit hi c).map (64 + ·)

/-- SEIZE: all or nothing. -/
def execSeize (m : Bool) (a d : R6) (s : State) :=
  issue { names := [a, pairHi a, d], reads := [a, pairHi a] } m s fun s l =>
    if !(isClearing l) then .trap s (flt causeAccess)
    else
      let q := (s.core l).part.toNat
      let cs := maskClusters (s.reg l a) (s.reg l (pairHi a))
      if cs.isEmpty then .done (s.setReg l d 3#64)
      else if s.devState = 2 ∨ cs.any fun c => !(s.lendable q c) then .done (s.setReg l d 1#64)
      else if cs.any fun c => (s.clu c).seized.isSome && (s.clu c).seized != some q then .done (s.setReg l d 2#64)
      else .done ((cs.foldl (fun s c => (s.seizeCluster q c).wakeHome (.wbuf c)) s).setReg l d 0#64)

/-- CEDE: it stalls while admitted work of Clearing cores on the clusters is not done; then launches that wait for room are
tried again (R381). -/
def execCede (m : Bool) (a : R6) (s : State) :=
  issue { names := [a, pairHi a], reads := [a, pairHi a] } m s fun s l =>
    if !(isClearing l) then .trap s (flt causeAccess)
    else
      let q := (s.core l).part.toNat
      let cs := (maskClusters (s.reg l a) (s.reg l (pairHi a))).filter (s.seizedBy q)
      if cs.any s.clearingWork then .stall s else .done (cs.foldl State.cedeCluster s).graphStep

/-- YIELDSLOT: a common core of the slot's holder donates the rest of the slot; then launches that wait for room are tried
again (R381). -/
def execYieldslot (m : Bool) (s : State) :=
  issue { least := .partition } m s fun s l =>
    if s.isCommon l && s.slot.holder == some (s.core l).part.toNat then .done s.donate.graphStep else .done s

end Sys2Proof.Machine
end

