-- ==== Sys2Proof/Machine/Station.lean ====
section
/-! DEFINITION. The Station's own instructions: ring fetch, signal wait, dispatch and completion posts (R370 to R379,
R433). -/

namespace Sys2Proof.Machine

/-- A word of a Station core: station mode, its own stream; it stalls until its result is known (R370). -/
def stnWord (m : Bool) (names reads : List R6) (s : State) (body : State → Nat → Out) : Host.Outcome State Fault Refusal :=
  issue { least := .station, names := names, reads := reads } m s body

/-- The hardware queue slot that a register names: below 256, and mapped (R373). -/
def State.slotNamed (s : State) (v : W64) : Option Nat :=
  if v.toNat < 256 ∧ bit (kget s.qslots v.toNat 0#64) 63 then some v.toNat else none

def State.slotFn (s : State) (k : Nat) : Nat := fld (kget s.qslots k 0#64) 61 52
def State.slotQi (s : State) (k : Nat) : Nat := fld (kget s.qslots k 0#64) 51 49

/-- Whether an earlier access of the core's own thread to `n` bytes at a home is still to be performed. -/
def Core.stillOut (c : Core) (h : Home) (key n : Nat) : Bool :=
  c.acc.any fun a => a.st != .performed && a.home == h && decide (a.key < key + n) && decide (key < a.key + a.len)

/-- Queue fetch stops while the function is being reset, or migrates beyond PRECOPY (R409, R410). -/
def State.fetchStopped (s : State) (fn : Nat) : Bool :=
  (kfind s.resets fn).isSome || s.migState fn == 2#3 || s.migState fn == 3#3 || s.migState fn == 4#3

/-- Whether a slot's ring has an entry to fetch (R374, R433). -/
def State.ringEmpty (s : State) (k : Nat) : Bool :=
  let fn := s.slotFn k
  let qi := s.slotQi k
  s.ringHead fn qi % s.ringSize fn qi == s.ringTail fn qi % s.ringSize fn qi || s.fetchStopped fn

/-- The next ring entry of a slot is at the physical address: Head, the time of the fetch, which entry the record there
is, and that it is not finished (R374, R375, R377). -/
def State.fetched (s : State) (k key : Nat) : State :=
  let fn := s.slotFn k
  let qi := s.slotQi k
  let n := s.ringHead fn qi
  let s := s.setW1 fn qi 4 (BitVec.ofNat 64 ((n + 1) % 2 ^ 16))
  { s with
    qfetch := kput s.qfetch k s.time, qrec := kput s.qrec key (k, n), entries := s.entries ++ [{ slot := k, n := n }] }

/-- The ring entry that slot `k` fetches next, as the host's memory holds it. -/
def State.ringEntry (s : State) (k : Nat) : List Byte :=
  let fn := s.slotFn k
  let qi := s.slotQi k
  s.hostRead false (fld (s.w1Word fn qi 0) 63 6 * 64 + 64 * (s.ringHead fn qi % s.ringSize fn qi)) 64

/-- Station `l` takes the next entry of slot `k` to a physical address, with the graph it launches (R370, R382). -/
def State.fetchEntry (s : State) (l k key : Nat) (na : Bool) : State :=
  let c := s.core l
  let e := s.ringEntry k
  ((s.fetched k key).hwWrite c.part c.ctx na key e).copyEntry l (s.slotFn k) key e

/-- RFETCH. -/
def execRfetch (m : Bool) (b a d : R6) (s : State) :=
  stnWord m [b, a, d] [b, a] s fun s l =>
    match s.slotNamed (s.reg l a) with
    | none => .trap s (flt 0x20#8)
    | some k =>
      let va := s.reg l b
      if clsOf va ≠ 0 then .trap s (fltAt causeAccess va)
      else
        match s.check l { acc := .write, n := 64, align := 64 } va with
        | (s, .error f) => .trap s f
        | (s, .ok t) =>
          let c := s.core l
          if c.stillOut t.home t.key 64 then .stall s
          else if s.ringEmpty k then .done (s.setReg l d 1#64)
          else if s.hostBad then .trap s (flt 0x21#8)
          else .done ((s.fetchEntry l k t.key t.na).setReg l d 0#64)

/-- SWAIT: the pending signals of the mask, or 0 once the deadline has come. -/
def swaitBody (b a d : R6) (s : State) (l : Nat) : Out :=
  let mask := s.reg l a
  if fld mask 63 8 ≠ 0 then .trap s (flt causeReserved)
  else
    let p := s.signals &&& BitVec.ofNat 8 (fld mask 7 0)
    if p ≠ 0#8 then .done ({ s with signals := s.signals &&& ~~~p }.setReg l d (p.setWidth 64))
    else if (s.reg l b).toNat ≤ s.time.toNat then .done (s.setReg l d 0#64)
    else .stall s

def execSwait (m : Bool) (b a d : R6) (s : State) := stnWord m [b, a, d] [b, a] s (swaitBody b a d)

/-- `n` bytes as the Station reads them at one home; none on a data error. -/
def State.stationRead (s : State) (l : Nat) (t : Target) (n : Nat) : State × Option (List Byte) :=
  let c := s.core l
  if t.home = .mem then s.hwRead c.part c.ctx t.na t.key n
  else
    match s.eccSpan t.key n with
    | (s, some _) => (s, none)
    | (s, none) => (s, some ((List.range n).map fun i => s.homeByte t.home (t.key + i)))

/-- The bytes of the pieces of a record. -/
def State.stationReads (s : State) (l : Nat) : List (Target × Nat) → State × Option (List Byte)
  | [] => (s, some [])
  | (t, n) :: ps =>
    match s.stationRead l t n with
    | (s, none) => (s, none)
    | (s, some bs) =>
      match s.stationReads l ps with
      | (s, none) => (s, none)
      | (s, some r) => (s, some (bs ++ r))

/-- The 64-byte record at an address, as the Station reads it: none is the dispatch-record fault; `some none` waits for
the Station's own earlier writes of it. -/
def State.stationRecord (s : State) (l : Nat) (va : W64) : State × Option (Option (Nat × List W64)) :=
  match s.checkSpan l { acc := .read, n := 64, align := 8 } va with
  | (s, .error _) => (s, none)
  | (s, .ok ps) =>
    if ps.any fun p => (s.core l).stillOut p.1.home p.1.key p.2 then (s, some none)
    else if ps.any fun p => p.1.home == .ctl || p.1.home == .foreign then (s, none)
    else
      match s.stationReads l ps with
      | (s, some bs) => (s, some (some ((ps.map (·.1.key)).headD 0, wordsOf bs)))
      | (s, none) => (s, none)

/-- The status a completion entry gives for one of DISPATCH (R371, R378). -/
def doneStatus (st : Nat) : Nat := if st = 4 then 5 else st

/-- What follows from the status of a DISPATCH: 2 and more complete the entry at once, which may free its slot (R376,
R379). -/
def State.dispatched (s : State) (ring : Ring) (st : Nat) : State :=
  if 2 ≤ st ∧ st ≠ placeWaits then (s.ringDone ring (doneStatus st) 0).pendServe else s

/-- DISPATCH. A team whose cores are in retention, or whose slot has edge steps to make first, is not placed yet: the
Station stalls (R394, R411). -/
def execDispatch (m : Bool) (b a d : R6) (s : State) :=
  stnWord m [b, a, d] [b, a] s fun s l =>
    let opt := s.reg l b
    if fld opt 63 1 ≠ 0 then .trap s (flt causeReserved)
    else
      match s.stationRecord l (s.reg l a) with
      | (s, none) => .trap s (fltAt 0x22#8 (s.reg l a))
      | (s, some none) => .stall s
      | (s, some (some (key, e))) =>
        let (slot, n) := kget s.qrec key (256, 0)
        let fn := if slot < 256 then s.slotFn slot else 0
        let (s, st) := s.dispatch l fn slot n key e (bit opt 0)
        if st = placeWaits then .stall s
        else .done ((s.dispatched (ringOf fn slot n e) st).setReg l d (BitVec.ofNat 64 st))

/-- Whether a slot's completion queue is full (R433). -/
def State.cqFull (s : State) (fn qi : Nat) : Bool :=
  (s.w1Word fn qi 5 - s.w1Word fn qi 6).toNat == s.cqSize fn qi

/-- A completion entry of slot `k` is posted: its oldest entry that waits for one is finished (R375, R378). -/
def State.posted (s : State) (k : Nat) : State :=
  match s.entries.find? fun e => e.slot == k && e.owed.isSome with
  | some e => { s with entries := s.entries.erase e }.pendServe
  | none => s

/-- SPOST. -/
def execSpost (m : Bool) (b a d : R6) (s : State) :=
  stnWord m [b, a, d] [b, a] s fun s l =>
    match s.slotNamed (s.reg l a) with
    | none => .trap s (flt 0x20#8)
    | some k =>
      let va := s.reg l b
      match s.checkSpan l { acc := .read, n := 16, align := 8 } va with
      | (s, .error f) => .trap s f
      | (s, .ok ps) =>
        let c := s.core l
        let fn := s.slotFn k
        let qi := s.slotQi k
        if ps.any fun p => c.stillOut p.1.home p.1.key p.2 then .stall s
        else if s.cqFull fn qi then .done (s.setReg l d 1#64)
        else
          match s.stationReads l ps with
          | (s, none) => .trap s (fltAt causeData va)
          | (s, some bs) =>
            if s.hostBad then .trap s (flt 0x23#8)
            else
              let n := s.w1Word fn qi 5
              let at_ := fld (s.w1Word fn qi 2) 63 4 * 16 + 16 * (n.toNat % s.cqSize fn qi)
              .done ((((s.hostWrite false at_ bs).setW1 fn qi 5 (n + 1#64)).posted k).setReg l d 0#64)

/-! ### A turn of the firmware over a slot (R379) -/

/-- What a turn comes to: nothing to fetch, the entry waits, or it is launched or complete. -/
inductive TurnEnd where
  | empty | waits | ended
  deriving DecidableEq, Repr

/-- StationTurn once its entry is fetched and checked: it waits for its Ord, its dependence or room, and is tried again
after the next completion, slot edge, donation or CEDE. -/
def State.turnGo (s : State) (l : Nat) (ring : Ring) (key : Nat) (e : List W64) : State × TurnEnd :=
  match s.entryReady ring with
  | (s, false) => (s, .waits)
  | (s, true) =>
    if fld (dw e 0) 31 28 = 0 then
      match s.nops.find? fun x => x.2.slot == ring.slot && x.2.n == ring.n with
      | some x => ((s.teamComplete x.1).pendServe, .ended)
      | none => (s, .ended)
    else
      match s.dispatch l ring.fn ring.slot ring.n key e false with
      | (s, st) => (s.dispatched ring st, if st = 1 ∨ st = placeWaits then .waits else .ended)

/-- StationTurn: one turn of Station `l` over slot `k`, its record at a physical address. -/
def State.stationTurn (s : State) (l k key : Nat) (na : Bool) : State × TurnEnd :=
  if s.ringEmpty k then (s, .empty)
  else
    let e := wordsOf (s.ringEntry k)
    let ring := ringOf (s.slotFn k) k (s.ringHead (s.slotFn k) (s.slotQi k)) e
    match (s.fetchEntry l k key na).dispatch l ring.fn k ring.n key e true with
    | (s, 0) => s.turnGo l ring key e
    | (s, st) => (s.dispatched ring st, .ended)

end Sys2Proof.Machine
end

