-- ==== Sys2Proof/Machine/Events.lean ====
section
/-! DEFINITION. The events of the opcode table: what the device does beside the words of its streams, each as one step that
happens when it is due and leaves the state as it is when it is not. -/

namespace Sys2Proof.Machine

/-! ### Parks, accesses and translation -/

/-- PARK of a core's control thread or sequencer (R215, R296). -/
def execPark (L : Nat) (seq : Bool) (s : State) :=
  let c := s.core L
  event (if s.coreStopped L then s
    else if seq then (if c.seq.parkDue then ((s.seqEnter L).parkSeq L).seqLeave L c else s)
    else if c.parkDue || c.holdDue.isSome then s.parkCtl L else s)

/-- Whether an access is a store to control space. -/
def State.isCtlStore (s : State) (l n : Nat) : Bool :=
  match (s.core l).accNo n with
  | some a => a.home == .ctl && a.kind == .store
  | none => false

/-- ACCESS_PERFORM; a store that frees a hardware queue slot lets a pending queue have it (R376). -/
def execAccessPerform (L n : Nat) (fwd : Bool) (s : State) :=
  event (if s.isCtlStore L n then (s.accessPerform L n fwd).pendServe else s.accessPerform L n fwd)

def execCacheFill (line : Nat) (s : State) := event (s.cacheFill line)
def execAcknowledgement (L n : Nat) (s : State) := event (s.acknowledge L n)
def execHeldReleasePerform (L n : Nat) (s : State) := event (s.heldRelease L n)

/-- TRANSLATION_WALK for an address that the running firing of a core accesses: the walk installs its entry, or the firing
takes the fault (R53, R57). -/
def execTranslationWalk (L : Nat) (va : W64) (wr : Bool) (s : State) :=
  let c := s.core L
  let acc : XAcc := if wr then .write else .read
  event (if !c.run || c.holdDue.isSome || fld va 63 48 != 0 then s
    else
      match s.translate L c.part c.ctx c.mode acc (fld va 47 0) with
      | (s, .ok _) => s
      | (s, .error f) => s.raise L { xlatFlt f acc c.ctx va with word := c.curWord } c.pc)

def execTlbinvComplete (L : Nat) (s : State) := event (s.tlbStep L)
def execCmoComplete (L : Nat) (s : State) := event (s.cmoStep L)

/-! ### DRAM -/

def execChannelFailure (c : Nat) (s : State) := event (s.channelFail c)
def execHotModeEnter (c : Nat) (temp : BitVec 8) (s : State) := event (s.hotEnter c temp)
def execHotModeExit (c : Nat) (temp : BitVec 8) (s : State) := event (s.hotExit c temp)
def execDramWindowEnd (avail : List Nat) (s : State) := event (s.windowEnd avail)

/-! ### Messages and requests -/

def execMessageArrival (n : Nat) (s : State) := event (s.messageArrival n)
def execCredit (n : Nat) (s : State) := event (s.creditArrival n)
def execRemoteWriteArrival (n : Nat) (s : State) := event (s.remoteArrival n)
def execForwardEndMarker (L : Nat) (s : State) := event (s.forwardEnd L)
def execSendRetry (L : Nat) (s : State) := event (s.sendRetry L)
def execSpawnAllocate (L : Nat) (s : State) := event (s.spawnNext L)
def execForkRecruitment (L : Nat) (s : State) := event (s.forkNext L)
def execHeldFiringRequest (L : Nat) (s : State) := event (s.heldNext L)

/-! ### Firings -/

/-- TIMER_TICK: the units of a timer port follow device time, so the tick is the readiness evaluation (R185, R186); a ready
timer starts the exit of its retained cluster (R411). -/
def execTimerTick (L ws : Nat) (s : State) :=
  event (if (s.core L).dir.any (·.wsid.toNat == ws) then
      let s := s.reeval L
      if (s.core L).runq.isEmpty then s else s.wakeHome (.ws L)
    else s)

/-- Whether a firing waits on core `l` for nothing but its cluster's retention. -/
def State.startWakes (s : State) (l : Nat) : Bool :=
  (s.clu (clusterOf l)).ret == .retained &&
    ((s.updClu (clusterOf l) fun c => { c with ret := .active }).pickStart l (s.core l).queue).isSome

/-- FIRING_START: between firings the device may move the core first (R188, R425); one that waits on a retained cluster starts
the exit (R411). -/
def execFiringStart (L : Nat) (s : State) :=
  event (if (s.core L).run then s
    else if s.startWakes L then s.wakeHome (.ws L)
    else (s.thermalMove L).startNext L)

def execRunQueueAging (L : Nat) (s : State) := event (s.updCore L fun c => c.age s.time)
def execPriority0Interrupt (L : Nat) (s : State) := event (s.interrupt L)

/-- WATCHDOG_EXPIRY (R358). -/
def execWatchdogExpiry (L : Nat) (s : State) :=
  let c := s.core L
  event (if s.wdgDue L && c.holdDue.isNone then s.raise L { flt causeWatchdog with word := c.curWord } c.pc else s)

def execAtomicHandler (L : Nat) (s : State) := event (s.atomicHandler L)
def execAmsgHandlerRun (L : Nat) (s : State) := event (s.amsgHandler L)

/-! ### Engines -/

def execDrayTakeCopy (L : Nat) (s : State) := event (s.drayTake L)
def execDrayUnitPerform (L sq u : Nat) (s : State) := event (s.drayUnit L sq u)
def execDrayCopyComplete (L sq : Nat) (s : State) := event (s.drayComplete L sq)
def execLeaseGrant (cl : Nat) (s : State) := event (s.leaseGrant cl)
def execLeaseBoundExpiry (cl : Nat) (s : State) := event (s.leaseBound cl)
def execWainCommandAccept (cl : Nat) (s : State) := event (s.wainAccept cl)
def execWainStageStep (cl : Nat) (s : State) := event (s.wainStage cl)
def execWainCommandRetire (cl : Nat) (s : State) := event (s.wainRetire cl)
def execAutoRenormalise (cl : Nat) (s : State) := event (s.autoNorm cl)
def execMarkerPost (L : Nat) (tender : Bool) (s : State) := event (s.markerPost L tender)
def execTenderCommandAccept (cl : Nat) (s : State) := event (s.tenderAccept cl)
def execTepiRetire (cl : Nat) (s : State) := event (s.tepiRetire cl)
def execWainRampStep (cl : Nat) (s : State) := event (s.rampStep cl)
def execAccumulatorRead (cl off : Nat) (s : State) := event (s.accumRead cl off)

/-! ### Mailboxes and the host windows -/

/-- A waiting MREADV of a core whose deadline has come (R168). -/
def State.lateRead (s : State) (l : Nat) : Option Acc :=
  (s.core l).acc.find? fun a => a.kind == .mreadv && a.st == .issued && decide (a.cmp.toNat ≤ s.time.toNat)

def execMreadvDeadline (L : Nat) (s : State) :=
  event (match s.lateRead L with
    | some a => s.accessPerform L a.n false
    | none => s)

def execMirrorApply (n : Nat) (reclaim : Bool) (ver : Nat) (stamp : W64) (bytes : List Byte) (s : State) :=
  event (s.mirrorApply n reclaim ver stamp bytes)
def execProxyAccess (L n : Nat) (s : State) := event (s.proxyAccess L n)
def execW2SramWrite (fn off : Nat) (bytes : List Byte) (s : State) := event (s.hostSramWrite fn off bytes)
def execW2SramRead (fn off len : Nat) (s : State) := event (s.hostSramRead fn off len)
def execW2UnmappedAccess (fn : Nat) (span : Nat × Nat) (wr : Bool) (s : State) := event (s.hostUnmapped fn span.1 span.2 wr)
def execW2PayloadWrite (fn j off : Nat) (bytes : List Byte) (s : State) := event (s.hostPayWrite fn j off bytes)
def execW2PayloadRead (fn j off len : Nat) (s : State) := event (s.hostPayRead fn j off len)
def execW2Mpub (fn j : Nat) (s : State) := event (s.hostPub fn j)
def execW2Mcommit (fn j : Nat) (s : State) := event (s.hostCommit fn j)
def execW2Mread (fn j : Nat) (s : State) := event (s.hostRead8 fn j)
def execW2StampRead (fn j : Nat) (s : State) := event (s.hostStamp fn j)
def execW2Munpin (fn j : Nat) (s : State) := event (s.hostUnpin fn j)

/-! ### Launches and slots -/

def execW1Notify (fn qi : Nat) (tail : BitVec 16) (s : State) := event (s.notify fn qi tail)
def execW1QueueConfigWrite (fn qi reg : Nat) (v : W64) (s : State) := event (s.w1Config fn qi reg v)
def execNotifyBoundExpiry (fn qi : Nat) (s : State) := event (s.notifyBound fn qi)

/-- TEAM_COMPLETE; what it frees may serve a pending queue (R95, R376). -/
def execTeamComplete (t : Nat) (s : State) := event (s.teamComplete t).pendServe

/-- After `t`, when it has moved the slot on or ended a seizure, launches that wait for room are tried again (R379, R381). -/
def State.roomMade (s t : State) : State :=
  if t.slot = s.slot ∧ t.clusters.map (·.2.seized) = s.clusters.map (·.2.seized) then t else t.graphStep

def execSlotGuardStart (s : State) := event (s.roomMade s.slotGuardStart)
def execSlotEdge (s : State) := event (s.roomMade s.slotEdge)
def execDebtTimeEnd (s : State) := event (s.roomMade s.debtTimeEnd)
def execDonationIdle (s : State) := event (s.roomMade s.donationIdle)
def execSeizeLendWatchdog (cl : Nat) (s : State) := event (s.roomMade (s.lendWatchdog cl))

/-- SWAIT_DEADLINE: a Station that stalls in a SWAIT whose deadline has come gets its answer (R370). -/
def execSwaitDeadline (L : Nat) (s : State) :=
  let c := s.core L
  event (if !(isStation L) || !c.run || c.parkDue then s
    else
      match decode (BitVec.ofNat 32 (ofBytes (memReadN s.mem (stationKey (fld c.pc 47 0)) 4))) with
      | .ok (.swait m b a d) =>
        if (s.reg L b).toNat ≤ s.time.toNat then
          { issueWord { least := .station, names := [b, a, d], reads := [b, a] } m
              { s with mover := { core := L, strm := .ctl } } (swaitBody b a d) with mover := s.mover }
        else s
      | _ => s)

/-! ### Pre-emption, reset and migration -/

/-- A Go of the pre-emption request word with its Force field (R402, R403). -/
def State.preGo (s : State) (force : Nat) (v : W64) : State :=
  s.ctlEvent Writer.hyp 0xFFF 0x0C0000 (setFld (setFld v 63 63 1) 62 61 force)

def execPreemptEstimate (v : W64) (s : State) := event (s.preGo 0 v)
def execPreemptDrain (v : W64) (s : State) := event (s.preGo 1 v)
def execPreemptDiscard (v : W64) (s : State) := event (s.preGo 2 v)
def execPreemptSave (v : W64) (s : State) := event (s.preGo 3 v)
def execPreemptComplete (s : State) := event s.preComplete
def execTeamResume (v : W64) (s : State) := event (s.ctlEvent Writer.hyp 0xFFF 0x0C0018 (setFld v 63 63 1))
def execVfReset (fn : Nat) (s : State) := event (if 0 < fn ∧ fn ≤ 512 then s.vfReset fn else s)

/-- VF_RESET_TIMEOUT; each slot it frees may serve a pending queue (R376). -/
def execVfResetTimeout (fn : Nat) (s : State) := event ((s.vfResetEnd fn).pendServeN (s.slotsOf fn).length)

def execDeviceReset (s : State) := event s.deviceReset
def execPowerLoss (s : State) := event s.powerLoss

/-- A requested migration state, written by the PF (R410). -/
def State.migGo (s : State) (fn req : Nat) : State :=
  s.ctlEvent Writer.pf 0xFFF (0x0D0000 + 8 * fn) (mkWord [(29, req)])

/-- Whether a function exists and is in a migration state. -/
def State.migIs (s : State) (fn : Nat) (st : BitVec 3) : Bool := decide (fn ≤ 512) && s.migState fn == st

def execMigrationPrecopy (fn : Nat) (s : State) := event (if fn ≤ 512 then s.migGo fn 1 else s)
def execMigrationStopping (fn : Nat) (s : State) := event (if fn ≤ 512 then s.migGo fn 2 else s)
def execMigrationAbandon (fn : Nat) (s : State) := event (if s.migIs fn 3#3 then s.migGo fn 0 else s)
def execMigrationResuming (fn : Nat) (s : State) := event (if fn ≤ 512 then s.migGo fn 4 else s)
def execMigrationRestore (fn : Nat) (s : State) := event (if s.migIs fn 4#3 then s.migGo fn 0 else s)
def execMigrationDataRead (s : State) := event s.migRead
def execMigrationDataWrite (v : W64) (s : State) := event (s.migWrite v)

/-! ### Retention, power and temperature -/

def execRetentionEntry (cl : Nat) (s : State) := event (s.retainCluster cl)
def execRetentionExit (cl : Nat) (parityOk : Bool) (s : State) := event (s.exitCluster cl parityOk)
def execPowerEstimate (tiles units : List (Nat × Nat)) (rest : Nat) (s : State) :=
  event (s.powerEstimate (tiles ++ units ++ [(0xFFF, rest)]))
def execAllowanceCompute (s : State) := event s.allowances
def execOpPointChange (tile : Nat) (s : State) := event (s.opPoint tile)
def execSensorSample (temps : List (Nat × W64)) (s : State) := event (s.sensors temps)
def execThrottleRise (tile : Nat) (s : State) := event (s.throttleRise tile)

/-! ### The spare link, time, firmware -/

def execHeartbeatSend (s : State) := event s.heartbeatSend
def execHeartbeatArrival (s : State) := event s.heartbeatArrival
def execHeartbeatTimeout (s : State) := event s.heartbeatTimeout
def execDemoteArrival (at_ : W64) (s : State) := event (s.demoted at_)
def execMirroredW2Write (off : Nat) (bytes : List Byte) (s : State) := event (s.mirroredWrite off bytes)
def execSpareLinkTrain (s : State) := event s.linkTrain
def execSpareLinkLoss (s : State) := event s.linkLoss
def execPromote (s : State) := event s.promote
def execFollowerEnter (s : State) := event s.followerEnter
def execPtmExchange (host : W64) (s : State) := event (s.ptm host)
def execBootCommand (image : List Byte) (s : State) := event (s.bootCommand image)
def execAttestationNonceWrite (i : Nat) (v : W64) (s : State) := event (s.nonceWrite i v)

/-! ### Control-space writes (R9, R20, R463) -/

/-- A write of a device-wide word by a hypervisor-mode core. -/
def State.hypWrite (s : State) (off : Nat) (v : W64) : State := s.ctlEvent Writer.hyp 0xFFF off v

/-- One of an array of `n` device-wide words of `size` bytes. -/
def State.hypArr (s : State) (base size n i : Nat) (v : W64) : State := if i < n then s.hypWrite (base + size * i) v else s

def execCapabilityKeyInstall (p : Nat) (hi : W64) (s : State) := event (s.hypArr 0x048008 16 64 p hi)

/-- CORE_RETIRE, by Station firmware. -/
def execCoreRetire (L : Nat) (s : State) := event (s.retireCore L)

def execErrorLogClear (s : State) := event (s.hypWrite 0x052000 0#64)
def execMemoryConfigWrite (v : W64) (s : State) := event (s.ctlEvent Writer.stn 0xFFF 0x051008 v)
def execWayMaskWrite (sl p : Nat) (v : W64) (s : State) :=
  event (if sl < 64 ∧ p < 64 then s.ctlEvent Writer.hyp (0xC00 + sl) (8 * p) v else s)
def execSlotWayWrite (sl : Nat) (v : W64) (s : State) :=
  event (if sl < 64 then s.ctlEvent Writer.hyp (0xC00 + sl) 0x208 v else s)
def execContextEntryWrite (n : Nat) (v : W64) (s : State) := event (s.hypArr 0x020000 8 513 n v)
def execLockedSramRangeWrite (p i : Nat) (v : W64) (s : State) :=
  event (if p < 64 ∧ i < 4 then s.hypWrite (0x041000 + 32 * p + 8 * i) v else s)

/-- WINDOW_WRITE: an LM window of a tile or a buffer window of a cluster. -/
def execWindowWrite (target off : Nat) (v : W64) (s : State) :=
  event (if (target < 0x840 ∧ target % 4 = 0 ∧ inArr off 0x1000 8 4) ∨
      (0xE00 ≤ target ∧ target < 0xE84 ∧ (inArr off 0x2000 8 4 ∨ inArr off 0x2040 8 4)) then
    s.ctlEvent Writer.hyp target off v else s)

def execLimitWrite (p : Nat) (v : W64) (s : State) := event (s.hypArr 0x040000 8 64 p v)
def execDramShareWrite (p : Nat) (v : W64) (s : State) := event (s.hypArr 0x050000 8 64 p v)
def execObjectEnable (n : Nat) (v : W64) (s : State) := event (s.hypArr 0x060000 64 1024 n (setFld v 63 63 1))
def execObjectDisable (n : Nat) (v : W64) (s : State) := event (s.hypArr 0x060000 64 1024 n (setFld v 63 63 0))

/-- The action bits of an object: ClrPins and Cancel (R159, R160). -/
def execClearPins (n : Nat) (s : State) := event (s.hypArr 0x060020 64 1024 n 2#64)
def execCancelReservation (n : Nat) (s : State) := event (s.hypArr 0x060020 64 1024 n 1#64)

/-- OBJECT_MAP_WRITE: a 32-bit entry, through the proxy. -/
def execObjectMapWrite (fn j : Nat) (v : W32) (s : State) :=
  event (if fn ≤ 512 ∧ j < 64 then (s.ctlWrite Writer.pf 0xFFF (0x080000 + 256 * fn + 4 * j) 4 (v.setWidth 64)).1 else s)

def execRouteWordWrite (k : Nat) (v : W64) (s : State) := event (s.hypArr 0x070000 8 16 k v)

/-- INTERVAL_WRITE: a home or common interval word. -/
def execIntervalWrite (off : Nat) (v : W64) (s : State) :=
  event (if inArr off 0x046000 8 128 ∨ inArr off 0x078040 8 4 then s.hypWrite off v else s)

def execSlotTableEnable (v : W64) (s : State) := event (s.hypWrite 0x078000 (setFld v 63 63 1))
def execSlotTableDisable (v : W64) (s : State) := event (s.hypWrite 0x078000 (setFld v 63 63 0))

/-- A write of the device power word with its State field (R416). -/
def State.powerGo (s : State) (st : Nat) (v : W64) : State := s.ctlEvent Writer.stn 0xFFF 0x0E0000 (setFld v 63 62 st)

def execDeviceStateRun (v : W64) (s : State) := event (s.powerGo 0 v)
def execDeviceStateRetain (v : W64) (s : State) := event (s.powerGo 1 v)
def execDeviceStateGroveoff (v : W64) (s : State) := event (s.powerGo 2 v)
def execThermalLimitsWrite (v : W64) (s : State) := event (s.ctlEvent Writer.stn 0xFFF 0x0E0008 v)
def execPowerStatusClear (v : W64) (s : State) := event (s.ctlEvent Writer.pf 0xFFF 0x0E0010 v)
def execPfErrorLogClear (s : State) := event s.pfLogClear
def execApertureWrite (fn i : Nat) (v : W64) (s : State) :=
  event (if fn ≤ 512 ∧ i < 16 then s.ctlEvent Writer.pf 0xFFF (0x0E8000 + 128 * fn + 8 * i) v else s)
def execControlWordWrite (who target off : Nat) (v : W64) (s : State) := event (s.controlWrite who target off v).pendServe

end Sys2Proof.Machine
end

