-- ==== Sys2Proof/Machine/Float.lean ====
section
/-! DEFINITION. Scalar floating-point instructions (chapter 12). -/

namespace Sys2Proof.Machine

/-- The precision of a scalar word: 0 F64, 1 F32 (R272). -/
def prec (p : BitVec 1) : Fmt := if p = 0#1 then F64 else F32

/-- The codes an F64 or F32 operand has in a register (R273). -/
def opnd (p : BitVec 1) (x : W64) : Nat := x.toNat % 2 ^ (prec p).width

/-- Writes a float result at issue with its conditions (R273, R277). -/
def fpWrite (d : R6) (r : State → Nat → FRes) : State → Nat → Out := fun s l =>
  let x := r s l
  .done ((s.recordFlags l x.flags x.sat).setReg l d (BitVec.ofNat 64 x.code))

def fp2 (m : Bool) (p : BitVec 1) (b a d : R6) (f : Fmt → Nat → Nat → FRes) (s : State) :
    Host.Outcome State Fault Refusal :=
  issue { names := [d, a, b], reads := [a, b] } m s
    (fpWrite d fun s l => f (prec p) (opnd p (s.reg l a)) (opnd p (s.reg l b)))

def fp1 (m : Bool) (p : BitVec 1) (a d : R6) (f : Fmt → Nat → FRes) (s : State) : Host.Outcome State Fault Refusal :=
  issue { names := [d, a], reads := [a] } m s (fpWrite d fun s l => f (prec p) (opnd p (s.reg l a)))

def fp3 (m : Bool) (p : BitVec 1) (b a d : R6) (f : Fmt → Nat → Nat → Nat → FRes) (s : State) :
    Host.Outcome State Fault Refusal :=
  issue { names := [d, a, b], reads := [d, a, b] } m s
    (fpWrite d fun s l => f (prec p) (opnd p (s.reg l d)) (opnd p (s.reg l a)) (opnd p (s.reg l b)))

/-- Holds a long-latency float result, its flags and events for the park (R273, R277). -/
def fpHold (d : R6) (r : State → Nat → FRes) : State → Nat → Out := fun s l =>
  let x := r s l
  .done (s.holdResult l
    { dest := .reg d, vals := [BitVec.ofNat 64 x.code], fflags := x.flags, events := flagEvents x.flags })

def fpMode (r : BitVec 3) : RMode := rmode r

def plainRes (c : Nat) : FRes := { code := c }
def cmpRes (x : Bool × BitVec 5) : FRes := { code := b2n x.1, flags := x.2 }

def execFadd (m : Bool) (p : BitVec 1) (b a d : R6) (s : State) := fp2 m p b a d fAdd s
def execFsub (m : Bool) (p : BitVec 1) (b a d : R6) (s : State) := fp2 m p b a d fSub s
def execFmul (m : Bool) (p : BitVec 1) (b a d : R6) (s : State) := fp2 m p b a d fMul s
def execFdiv (m : Bool) (p : BitVec 1) (b a d : R6) (s : State) :=
  issue { long := true, names := [d, a, b], reads := [a, b] } m s
    (fpHold d fun s l => fDiv (prec p) (opnd p (s.reg l a)) (opnd p (s.reg l b)))
def execFsqrt (m : Bool) (p : BitVec 1) (a d : R6) (s : State) :=
  issue { long := true, names := [d, a], reads := [a] } m s (fpHold d fun s l => fSqrt (prec p) (opnd p (s.reg l a)))
def execFmin (m : Bool) (p : BitVec 1) (b a d : R6) (s : State) := fp2 m p b a d (fun f => fMinMax f false) s
def execFmax (m : Bool) (p : BitVec 1) (b a d : R6) (s : State) := fp2 m p b a d (fun f => fMinMax f true) s
def execFmac (m : Bool) (p : BitVec 1) (b a d : R6) (s : State) := fp3 m p b a d (fun f => fMac f false) s
def execFmsc (m : Bool) (p : BitVec 1) (b a d : R6) (s : State) := fp3 m p b a d (fun f => fMac f true) s
def execFneg (m : Bool) (p : BitVec 1) (a d : R6) (s : State) := fp1 m p a d (fun f x => plainRes (fNeg f x)) s
def execFabs (m : Bool) (p : BitVec 1) (a d : R6) (s : State) := fp1 m p a d (fun f x => plainRes (fAbs f x)) s
def execFcps (m : Bool) (p : BitVec 1) (b a d : R6) (s : State) :=
  fp2 m p b a d (fun f x y => plainRes (fCps f x y)) s
def execFeq (m : Bool) (p : BitVec 1) (b a d : R6) (s : State) := fp2 m p b a d (fun f x y => cmpRes (fCmp f 0 x y)) s
def execFlt (m : Bool) (p : BitVec 1) (b a d : R6) (s : State) := fp2 m p b a d (fun f x y => cmpRes (fCmp f 1 x y)) s
def execFle (m : Bool) (p : BitVec 1) (b a d : R6) (s : State) := fp2 m p b a d (fun f x y => cmpRes (fCmp f 2 x y)) s
def execFclass (m : Bool) (p : BitVec 1) (a d : R6) (s : State) := fp1 m p a d (fun f x => plainRes (fClass f x)) s
def execFrint (m : Bool) (p : BitVec 1) (r : BitVec 3) (a d : R6) (s : State) :=
  fp1 m p a d (fun f x => fRint f (fpMode r) x) s
def execFexp2f (m : Bool) (p : BitVec 1) (a d : R6) (s : State) := fp1 m p a d fExp2 s
def execFscale (m : Bool) (p : BitVec 1) (b a d : R6) (s : State) := fp2 m p b a d fScale s

/-- The value a scalar conversion source code reads (R287): 0 F64, 1 F32, 2 F16, 3 B16, 4 I64, 5 N64, 6 I32, 7 N32. -/
def cvtSrc (c : BitVec 3) (x : W64) : Val :=
  match c.toNat with
  | 0 => decodeF F64 x.toNat
  | 1 => decodeF F32 x.toNat
  | 2 => decodeF F16 x.toNat
  | 3 => decodeF B16 x.toNat
  | 4 => ofInt x.toInt
  | 5 => ofInt x.toNat
  | 6 => ofInt (sintOf 32 x.toNat)
  | _ => ofInt (x.toNat % 2 ^ 32 : Nat)

/-- A value into a scalar conversion destination (R252, R287). -/
def cvtDst (c : BitVec 3) (md : RMode) (v : Val) : FRes :=
  match c.toNat with
  | 0 => toFloat F64 md v
  | 1 => toFloat F32 md v
  | 2 => toFloat F16 md v
  | 3 => toFloat B16 md v
  | 4 => toInt (-2 ^ 63) (2 ^ 63 - 1) 64 md v
  | 5 => toInt 0 (2 ^ 64 - 1) 64 md v
  | 6 => toInt (-2 ^ 31) (2 ^ 31 - 1) 32 md v
  | _ => toInt 0 (2 ^ 32 - 1) 32 md v

def execFcvt (m : Bool) (sc t r : BitVec 3) (a d : R6) (s : State) :=
  issue { names := [d, a], reads := [a] } m s
    (fpWrite d fun s l => cvtDst t (fpMode r) (cvtSrc sc (s.reg l a)))

end Sys2Proof.Machine
end

