-- ==== Sys2Proof/Machine/Vector.lean ====
section
/-! DEFINITION. The vector sequencer's instructions (chapter 13). -/

namespace Sys2Proof.Machine

/-! ### Elements (R237) -/

/-- The elements of a vector, lowest first. -/
def elems (w : Nat) (v : V512) : List Nat := (List.range (512 / w)).map fun i => v.toNat >>> (w * i) % 2 ^ w

/-- A vector of elements; what is not given is zero. -/
def packVec (w : Nat) (xs : List Nat) : V512 :=
  BitVec.ofNat 512 ((xs.zipIdx).foldl (fun a x => a + (x.1 % 2 ^ w) * 2 ^ (w * x.2)) 0)

/-- Element width of a size field: B, H, W, D. -/
def szBits (z : BitVec 2) : Nat := 8 * 2 ^ z.toNat

def elem64 (v : V512) (j : Nat) : W64 := BitVec.ofNat 64 (v.toNat >>> (64 * j))

/-! ### Operands (R214, R297) -/

/-- The oldest entry of a channel that its class mask lets be seen, and what is left. -/
def takeVisible (mask : W64) : List (Nat × V512) → Option (V512 × List (Nat × V512))
  | [] => none
  | e :: t =>
    if bit mask e.1 then (takeVisible mask t).map fun r => (r.1, e :: r.2) else some (e.2, t)

/-- A vector operand: a register, or a channel's oldest visible entry, which is taken; none while there is none. -/
def Core.vsrc (c : Core) (f : R6) : Option (Core × V512) :=
  if f.toNat < 32 then some (c, c.seq.vreg f.toNat)
  else
    let n := f.toNat - 32
    match takeVisible c.cmask (kget c.seq.chans n []) with
    | some (v, q) => some ({ c with seq := { c.seq with chans := kput c.seq.chans n q } }, v)
    | none => none

/-- Two operands; one channel named twice gives one entry. -/
def Core.vsrc2 (c : Core) (a b : R6) : Option (Core × V512 × V512) :=
  match c.vsrc a with
  | none => none
  | some (c, x) =>
    if a = b then some (c, x, x)
    else match c.vsrc b with
      | some (c, y) => some (c, x, y)
      | none => none

def Core.setV (c : Core) (d : R6) (v : V512) : Core := { c with seq := { c.seq with v := kput c.seq.v d.toNat v } }

/-- A vector word with operands a and b: it stalls for a channel entry, else its effect takes the state without the entries
it took. -/
def vec2 (i : Issue) (m : Bool) (b a : R6) (s : State) (f : State → Nat → V512 → V512 → Out) :
    Host.Outcome State Fault Refusal :=
  issue { i with strm := .seq } m s fun s l =>
    match (s.core l).vsrc2 a b with
    | none => .stall s
    | some (c, x, y) => f (s.setCore l c) l x y

def vec1 (i : Issue) (m : Bool) (a : R6) (s : State) (f : State → Nat → V512 → Out) : Host.Outcome State Fault Refusal :=
  issue { i with strm := .seq } m s fun s l =>
    match (s.core l).vsrc a with
    | none => .stall s
    | some (c, x) => f (s.setCore l c) l x

/-- Writes a vector register at issue. -/
def vWrite (s : State) (l : Nat) (d : R6) (v : V512) : Out := .done (s.updCore l fun c => c.setV d v)

/-- Element-wise results with their conditions, each counted per element (R291). -/
def vResults (w : Nat) (s : State) (l : Nat) (d : R6) (rs : List FRes) : Out :=
  vWrite (s.recordElems l rs) l d (packVec w (rs.map (·.code)))

/-- Element results held to the park (R296). -/
def vHold (w : Nat) (s : State) (l : Nat) (d : R6) (rs : List FRes) : Out :=
  .done (s.holdVec l
    { dest := .vec d.toNat, vals := rs.map fun r => BitVec.ofNat 64 r.code, ext := .elems w
      fflags := rs.foldl (fun a r => a ||| r.flags) 0#5, events := rs.flatMap fun r => flagEvents r.flags })

/-- Three element lists mapped together. -/
def map3 (f : Nat → Nat → Nat → FRes) : List Nat → List Nat → List Nat → List FRes
  | x :: xs, y :: ys, z :: zs => f x y z :: map3 f xs ys zs
  | _, _, _ => []

/-! ### VINT (R298) -/

/-- `f` has the element width, vA[i] and vB[i]. -/
def vint (m : Bool) (b a d : R6) (z : BitVec 2) (f : Nat → Nat → Nat → FRes) (s : State) :
    Host.Outcome State Fault Refusal :=
  vec2 {} m b a s fun s l x y =>
    let w := szBits z
    vResults w s l d ((elems w x).zipWith (f w) (elems w y))

def vpure (f : Nat → Nat → Nat → Nat) : Nat → Nat → Nat → FRes := fun w x y => plainRes (f w x y)

/-- SatW: clamped to w signed bits, counting saturation. -/
def satW (w : Nat) (x : Int) : FRes :=
  let hi : Int := 2 ^ (w - 1) - 1
  let lo : Int := -2 ^ (w - 1)
  { code := intCode w (clampInt lo hi x), sat := decide (x < lo ∨ hi < x) }

def allOnes (w : Nat) (p : Bool) : Nat := if p then 2 ^ w - 1 else 0

def execVadd (m : Bool) (b a d : R6) (z : BitVec 2) (s : State) := vint m b a d z (vpure fun w x y => (x + y) % 2 ^ w) s
def execVsub (m : Bool) (b a d : R6) (z : BitVec 2) (s : State) := vint m b a d z (vpure fun w x y => (x + 2 ^ w - y) % 2 ^ w) s
def execVmul (m : Bool) (b a d : R6) (z : BitVec 2) (s : State) := vint m b a d z (vpure fun w x y => x * y % 2 ^ w) s
def execVmulh (m : Bool) (b a d : R6) (z : BitVec 2) (s : State) := vint m b a d z (vpure fun w x y => intCode w (sintOf w x * sintOf w y / 2 ^ w)) s
def execVand (m : Bool) (b a d : R6) (z : BitVec 2) (s : State) := vint m b a d z (vpure fun _ x y => Nat.land x y) s
def execVor (m : Bool) (b a d : R6) (z : BitVec 2) (s : State) := vint m b a d z (vpure fun _ x y => Nat.lor x y) s
def execVxor (m : Bool) (b a d : R6) (z : BitVec 2) (s : State) := vint m b a d z (vpure fun _ x y => Nat.xor x y) s
def execVsll (m : Bool) (b a d : R6) (z : BitVec 2) (s : State) := vint m b a d z (vpure fun w x y => x * 2 ^ (y % w) % 2 ^ w) s
def execVsrl (m : Bool) (b a d : R6) (z : BitVec 2) (s : State) := vint m b a d z (vpure fun w x y => x / 2 ^ (y % w)) s
def execVsra (m : Bool) (b a d : R6) (z : BitVec 2) (s : State) := vint m b a d z (vpure fun w x y => intCode w (sintOf w x / 2 ^ (y % w))) s
def execVmin (m : Bool) (b a d : R6) (z : BitVec 2) (s : State) := vint m b a d z (vpure fun w x y => if sintOf w x < sintOf w y then x else y) s
def execVmax (m : Bool) (b a d : R6) (z : BitVec 2) (s : State) := vint m b a d z (vpure fun w x y => if sintOf w x < sintOf w y then y else x) s
def execVminn (m : Bool) (b a d : R6) (z : BitVec 2) (s : State) := vint m b a d z (vpure fun _ x y => min x y) s
def execVmaxn (m : Bool) (b a d : R6) (z : BitVec 2) (s : State) := vint m b a d z (vpure fun _ x y => max x y) s
def execVadds (m : Bool) (b a d : R6) (z : BitVec 2) (s : State) := vint m b a d z (fun w x y => satW w (sintOf w x + sintOf w y)) s
def execVsubs (m : Bool) (b a d : R6) (z : BitVec 2) (s : State) := vint m b a d z (fun w x y => satW w (sintOf w x - sintOf w y)) s
def execVceq (m : Bool) (b a d : R6) (z : BitVec 2) (s : State) := vint m b a d z (vpure fun w x y => allOnes w (x == y)) s
def execVclt (m : Bool) (b a d : R6) (z : BitVec 2) (s : State) := vint m b a d z (vpure fun w x y => allOnes w (decide (sintOf w x < sintOf w y))) s
def execVcltn (m : Bool) (b a d : R6) (z : BitVec 2) (s : State) := vint m b a d z (vpure fun w x y => allOnes w (decide (x < y))) s

/-- VSEL reads vD as well. -/
def execVsel (m : Bool) (b a d : R6) (z : BitVec 2) (s : State) :=
  vec2 {} m b a s fun s l x y =>
    let w := szBits z
    let old := (s.core l).seq.vreg d.toNat
    vWrite s l d (packVec w (((elems w old).zip ((elems w x).zip (elems w y))).map fun e =>
      if e.1 ≠ 0 then e.2.1 else e.2.2))

/-! ### VFP and VFPH (R299) -/

/-- The format of a vector floating word. -/
def vprec (p h : BitVec 1) : Fmt :=
  if h = 0#1 then (if p = 0#1 then F64 else F32) else if p = 0#1 then F16 else B16

def vf2 (m : Bool) (p h : BitVec 1) (b a d : R6) (f : Fmt → Nat → Nat → FRes) (s : State) :
    Host.Outcome State Fault Refusal :=
  vec2 {} m b a s fun s l x y =>
    let k := vprec p h
    vResults k.width s l d ((elems k.width x).zipWith (f k) (elems k.width y))

def vf1 (m : Bool) (p h : BitVec 1) (a d : R6) (f : Fmt → Nat → FRes) (s : State) : Host.Outcome State Fault Refusal :=
  vec1 {} m a s fun s l x =>
    let k := vprec p h
    vResults k.width s l d ((elems k.width x).map (f k))

/-- A comparison's element: all ones or 0 (R299). -/
def vcmp (op : Nat) (k : Fmt) (x y : Nat) : FRes :=
  let r := fCmp k op x y
  { code := allOnes k.width r.1, flags := r.2 }

def execVfadd (m : Bool) (p : BitVec 1) (b a d : R6) (h : BitVec 1) (s : State) := vf2 m p h b a d fAdd s
def execVfsub (m : Bool) (p : BitVec 1) (b a d : R6) (h : BitVec 1) (s : State) := vf2 m p h b a d fSub s
def execVfmul (m : Bool) (p : BitVec 1) (b a d : R6) (h : BitVec 1) (s : State) := vf2 m p h b a d fMul s
def execVfdiv (m : Bool) (p : BitVec 1) (b a d : R6) (h : BitVec 1) (s : State) :=
  vec2 { long := true } m b a s fun s l x y =>
    let k := vprec p h
    vHold k.width s l d ((elems k.width x).zipWith (fDiv k) (elems k.width y))
def execVfsqrt (m : Bool) (p : BitVec 1) (a d : R6) (h : BitVec 1) (s : State) :=
  vec1 { long := true } m a s fun s l x =>
    let k := vprec p h
    vHold k.width s l d ((elems k.width x).map (fSqrt k))
def execVfmin (m : Bool) (p : BitVec 1) (b a d : R6) (h : BitVec 1) (s : State) := vf2 m p h b a d (fun k => fMinMax k false) s
def execVfmax (m : Bool) (p : BitVec 1) (b a d : R6) (h : BitVec 1) (s : State) := vf2 m p h b a d (fun k => fMinMax k true) s
def execVfmac (m : Bool) (p : BitVec 1) (b a d : R6) (h : BitVec 1) (s : State) :=
  vec2 {} m b a s fun s l x y =>
    let k := vprec p h
    let old := (s.core l).seq.vreg d.toNat
    vResults k.width s l d (map3 (fMac k false) (elems k.width old) (elems k.width x) (elems k.width y))
def execVfneg (m : Bool) (p : BitVec 1) (a d : R6) (h : BitVec 1) (s : State) := vf1 m p h a d (fun k x => plainRes (fNeg k x)) s
def execVfabs (m : Bool) (p : BitVec 1) (a d : R6) (h : BitVec 1) (s : State) := vf1 m p h a d (fun k x => plainRes (fAbs k x)) s
def execVfrint (m : Bool) (p : BitVec 1) (a d : R6) (h : BitVec 1) (s : State) := vf1 m p h a d (fun k x => fRint k .rne x) s
def execVfexp2f (m : Bool) (p : BitVec 1) (a d : R6) (h : BitVec 1) (s : State) := vf1 m p h a d fExp2 s
def execVfeq (m : Bool) (p : BitVec 1) (b a d : R6) (h : BitVec 1) (s : State) := vf2 m p h b a d (vcmp 0) s
def execVflt (m : Bool) (p : BitVec 1) (b a d : R6) (h : BitVec 1) (s : State) := vf2 m p h b a d (vcmp 1) s
def execVfle (m : Bool) (p : BitVec 1) (b a d : R6) (h : BitVec 1) (s : State) := vf2 m p h b a d (vcmp 2) s
def execVfscale (m : Bool) (p : BitVec 1) (b a d : R6) (h : BitVec 1) (s : State) := vf2 m p h b a d fScale s

/-! ### VCVT (R300) -/

/-- Element width of a conversion code: 0 F64, 1 F32, 2 F16, 3 B16, 4 I64, 5 I32, 6 I16, 7 I8. -/
def vcvtWidth (c : BitVec 3) : Nat :=
  match c.toNat with
  | 0 => 64
  | 1 => 32
  | 2 => 16
  | 3 => 16
  | 4 => 64
  | 5 => 32
  | 6 => 16
  | _ => 8

def vcvtFmt (c : BitVec 3) : Option Fmt :=
  match c.toNat with
  | 0 => some F64
  | 1 => some F32
  | 2 => some F16
  | 3 => some B16
  | _ => none

/-- One element converted (R252): two integers clamp and count saturation. -/
def vcvtElem (sc t : BitVec 3) (md : RMode) (x : Nat) : FRes :=
  let wd := vcvtWidth t
  match vcvtFmt sc, vcvtFmt t with
  | some f, some g => toFloat g md (decodeF f x)
  | some f, none => toInt (-2 ^ (wd - 1)) (2 ^ (wd - 1) - 1) wd md (decodeF f x)
  | none, some g => toFloat g md (ofInt (sintOf (vcvtWidth sc) x))
  | none, none => satW wd (sintOf (vcvtWidth sc) x)

def execVcvt (m : Bool) (sc t r : BitVec 3) (a d : R6) (s : State) :=
  vec1 {} m a s fun s l x =>
    let n := 512 / max (vcvtWidth sc) (vcvtWidth t)
    vResults (vcvtWidth t) s l d (((elems (vcvtWidth sc) x).take n).map (vcvtElem sc t (rmode r)))

/-! ### VPERM (R303) -/

/-- A reduction writes element 0 and clears the rest. -/
def vred (m : Bool) (z : BitVec 2) (a d : R6) (f : Nat → List Nat → FRes) (s : State) : Host.Outcome State Fault Refusal :=
  vec1 {} m a s fun s l x => let w := szBits z; vResults w s l d [f w (elems w x)]

/-- Folds a choice between two elements. -/
def pick (p : Nat → Nat → Bool) : List Nat → Nat
  | [] => 0
  | x :: t => t.foldl (fun a y => if p y a then y else a) x

def execVredAdd (m : Bool) (z : BitVec 2) (a d : R6) (s : State) :=
  vred m z a d (fun w xs => plainRes (xs.foldl (· + ·) 0 % 2 ^ w)) s
def execVredMin (m : Bool) (z : BitVec 2) (a d : R6) (s : State) :=
  vred m z a d (fun w xs => plainRes (pick (fun x y => decide (sintOf w x < sintOf w y)) xs)) s
def execVredMax (m : Bool) (z : BitVec 2) (a d : R6) (s : State) :=
  vred m z a d (fun w xs => plainRes (pick (fun x y => decide (sintOf w y < sintOf w x)) xs)) s
def execVredMinn (m : Bool) (z : BitVec 2) (a d : R6) (s : State) :=
  vred m z a d (fun _ xs => plainRes (pick (fun x y => decide (x < y)) xs)) s
def execVredMaxn (m : Bool) (z : BitVec 2) (a d : R6) (s : State) :=
  vred m z a d (fun _ xs => plainRes (pick (fun x y => decide (y < x)) xs)) s

/-- The exact sum, rounded once; a NaN element gives NaN, mixed infinities are invalid (R303). -/
def faddAll (f : Fmt) (xs : List Nat) : FRes :=
  let vs := xs.map (decodeF f)
  if vs.any vIsNan then plainRes (canonNan f)
  else if vs.contains (.inf false) && vs.contains (.inf true) then invalid f
  else
    match vs with
    | [] => plainRes 0
    | v :: t => toFloat f .rne (t.foldl (fun a x => (vAdd a x).1) v)

/-- VRED.FADD on W or D elements. -/
def execVredFadd (m : Bool) (z : BitVec 1) (a d : R6) (s : State) :=
  vred m (1#1 ++ z) a d (fun w xs => faddAll (if w = 64 then F64 else F32) xs) s

def execVperm (m : Bool) (z : BitVec 2) (b a d : R6) (s : State) :=
  vec2 {} m b a s fun s l x y =>
    let w := szBits z
    let xs := elems w x
    vWrite s l d (packVec w ((elems w y).map fun k => xs.getD (k % (512 / w)) 0))

def execVrev (m : Bool) (z : BitVec 2) (a d : R6) (s : State) :=
  vec1 {} m a s fun s l x => let w := szBits z; vWrite s l d (packVec w (elems w x).reverse)

def execVbcast (m : Bool) (z : BitVec 2) (a d : R6) (s : State) :=
  vec1 {} m a s fun s l x =>
    let w := szBits z
    vWrite s l d (packVec w ((elems w x).map fun _ => x.toNat % 2 ^ w))

def execVslide (m : Bool) (z : BitVec 2) (b a d : R6) (s : State) :=
  vec2 {} m b a s fun s l x y =>
    let w := szBits z
    let k := (elem64 y 0).toInt
    let xs := elems w x
    vWrite s l d (packVec w ((List.range (512 / w)).map fun (i : Nat) =>
      let j : Int := (i : Int) + k
      if 0 ≤ j ∧ j < (512 / w : Nat) then xs.getD j.toNat 0 else 0))

/-! ### VMEM (R301, R302) -/

/-- CheckAccess of one element, with the classes that vectors never reach. -/
def State.checkElem (s : State) (l : Nat) (acc : XAcc) (n align : Nat) (a : W64) : State × Except Flt Target :=
  s.check l { acc := acc, n := n, align := align, only := fun k => k != 7 && k != 8 } a

/-- Checks elements in order: what passed, with its address and place, and the fault of the lowest failing address. A
contiguous access to a typed buffer needs a 64-byte aligned base (R78). -/
def State.checkElems (s : State) (l : Nat) (acc : XAcc) (n : Nat) (contig : Bool) :
    List (Nat × W64) → State × List (Nat × W64 × Target) × Option (W64 × Flt)
  | [] => (s, [], none)
  | (i, a) :: t =>
    let al := if contig && i == 0 && (clsOf a == 3 || clsOf a == 4) then 64 else n
    match s.checkElem l acc n al a with
    | (s, .error f) =>
      let (s, ok, bad) := s.checkElems l acc n contig t
      (s, ok, match bad with
        | some (x, g) => if x.toNat < a.toNat then some (x, g) else some (a, f)
        | none => some (a, f))
    | (s, .ok tg) =>
      let (s, ok, bad) := s.checkElems l acc n contig t
      (s, (i, a, tg) :: ok, bad)

/-- The addresses of a VMEM word. -/
def contigAddrs (w : Nat) (base : W64) : List (Nat × W64) :=
  (List.range (512 / w)).map fun i => (i, base + BitVec.ofNat 64 (i * (w / 8)))
def strideAddrs (w : Nat) (base st : W64) : List (Nat × W64) :=
  (List.range (512 / w)).map fun i => (i, base + BitVec.ofNat 64 i * st)
def offsetAddrs (w : Nat) (base : W64) (v : V512) : List (Nat × W64) :=
  ((elems w v).zipIdx).map fun e => (e.2, base + BitVec.ofNat 64 (e.1 * (w / 8)))

/-- A vector load: every element is an access of its own, all of one group (R157); none is made when one fails. `s0` is the
state before the word took a channel entry. -/
def vload (s0 s : State) (l : Nat) (w : Nat) (d : R6) (contig : Bool) (as : List (Nat × W64)) : Out :=
  match s.checkElems l .read (w / 8) contig as with
  | (_, _, some (_, f)) => .trap s0 f
  | (s, ok, none) =>
    let first := (s.core l).accNext
    let md := (s.core l).mode
    let s := ok.foldl (fun s e => s.issueAcc l { mkAcc .seq .load e.2.1 e.2.2 (w / 8) md with grp := first + 1 }) s
    .done (s.holdVec l
      { dest := .vec d.toNat, waits := (List.range ok.length).map (first + ·), ext := .elems w })

/-- The stores of the elements of V[d] that have passed their checks, as one group (R157, R302). -/
def State.storeElems (s : State) (l w : Nat) (d : R6) (ok : List (Nat × W64 × Target)) : State :=
  let md := (s.core l).mode
  let first := (s.core l).accNext
  let xs := elems w ((s.core l).seq.vreg d.toNat)
  ok.foldl (fun s e =>
    s.issueAcc l { mkAcc .seq .store e.2.1 e.2.2 (w / 8) md with data := BitVec.ofNat 64 (xs.getD e.1 0), grp := first + 1 }) s

/-- A vector store: elements that pass are stored, in ascending order; the fault of the lowest failing one is raised, and the
word keeps its channel entry, as it issues again (R302, log entry 55). `s0` is the state before the word took it. -/
def vstore (s0 s : State) (l : Nat) (w : Nat) (d : R6) (contig : Bool) (as : List (Nat × W64)) : Out :=
  if (s.core l).outFull (512 / w) then .stall s0
  else
    match s.checkElems l .write (w / 8) contig as, s0.checkElems l .write (w / 8) contig as with
    | (s, ok, none), _ => .done (s.storeElems l w d ok)
    | (_, _, some (_, f)), (t, ok, _) => .trap (t.storeElems l w d ok) f

/-- The VMEM forms with operand a only, and with operands a and b. -/
def vmem1 (long : Bool) (m : Bool) (a : R6) (s : State) (f : State → State → Nat → V512 → Out) :
    Host.Outcome State Fault Refusal :=
  issue { strm := .seq, long := long } m s fun s l =>
    match (s.core l).vsrc a with
    | none => .stall s
    | some (c, x) => f s (s.setCore l c) l x

def vmem2 (long : Bool) (m : Bool) (b a : R6) (s : State) (f : State → State → Nat → V512 → V512 → Out) :
    Host.Outcome State Fault Refusal :=
  issue { strm := .seq, long := long } m s fun s l =>
    match (s.core l).vsrc2 a b with
    | none => .stall s
    | some (c, x, y) => f s (s.setCore l c) l x y

def execVld (m : Bool) (z : BitVec 2) (a d : R6) (s : State) :=
  vmem1 true m a s fun s0 s l x => vload s0 s l (szBits z) d true (contigAddrs (szBits z) (elem64 x 0))
def execVlds (m : Bool) (z : BitVec 2) (b a d : R6) (s : State) :=
  vmem2 true m b a s fun s0 s l x y => vload s0 s l (szBits z) d false (strideAddrs (szBits z) (elem64 x 0) (elem64 y 0))
def execVgath (m : Bool) (z : BitVec 2) (b a d : R6) (s : State) :=
  vmem2 true m b a s fun s0 s l x y => vload s0 s l (szBits z) d false (offsetAddrs (szBits z) (elem64 x 0) y)
def execVst (m : Bool) (z : BitVec 2) (a d : R6) (s : State) :=
  vmem1 false m a s fun s0 s l x => vstore s0 s l (szBits z) d true (contigAddrs (szBits z) (elem64 x 0))
def execVsts (m : Bool) (z : BitVec 2) (b a d : R6) (s : State) :=
  vmem2 false m b a s fun s0 s l x y => vstore s0 s l (szBits z) d false (strideAddrs (szBits z) (elem64 x 0) (elem64 y 0))
def execVscat (m : Bool) (z : BitVec 2) (b a d : R6) (s : State) :=
  vmem2 false m b a s fun s0 s l x y => vstore s0 s l (szBits z) d false (offsetAddrs (szBits z) (elem64 x 0) y)

/-! ### VCTL (R295) -/

/-- VHALT stops at its own word (R291). -/
def execVhalt (m : Bool) (s : State) :=
  issue { strm := .seq, park := true } m s fun s l =>
    .gone (s.updCore l fun c => { c with seq := { c.seq with vstat := setFld (setFld c.seq.vstat 63 63 0) 62 62 0 } })

def execVqpop (m : Bool) (j : BitVec 3) (d : R6) (s : State) :=
  issue { strm := .seq, long := true } m s fun s l =>
    let n := (s.core l).accNext
    .done ((s.issueAcc l (localAcc .seq (.qpop 0) 0 0#64 false true)).holdVec l
      { dest := .vecWord d.toNat j.toNat, waits := [n] })

def execVqpush (m : Bool) (j : BitVec 3) (a : R6) (s : State) :=
  issue { strm := .seq } m s fun s l =>
    let c := s.core l
    if 16 ≤ c.seq.qg.length || c.outFull 1 || c.relFull then .stall s
    else .done (s.issueAcc l (localAcc .seq (.qpush 1) 1 (elem64 (c.seq.vreg a.toNat) j.toNat) true false))

/-- A flag written by a stream: a release at tile scope, held in the core (R293, R468). -/
def flagWrite (p : Stream) (n : Nat) (v : Bool) (s : State) (l : Nat) : Out :=
  let c := s.core l
  if c.outFull 1 || c.relFull then .stall s
  else .done (s.issueAcc l (localAcc p (.flgset n v) (64 + n) 0#64 true false))

def execVflgset (m : Bool) (n : BitVec 4) (s : State) :=
  issue { strm := .seq } m s fun s l => flagWrite .seq n.toNat true s l
def execVflgclr (m : Bool) (n : BitVec 4) (s : State) :=
  issue { strm := .seq } m s fun s l => flagWrite .seq n.toNat false s l

/-- VFLGWAIT stalls until the flag has the value: a read in the core, in its thread's order, so after the stream's own
earlier writes of the flag, acquires and fences (R130, R134, R468). -/
def execVflgwait (m : Bool) (w : BitVec 1) (n : BitVec 4) (s : State) :=
  issue { strm := .seq } m s fun s l =>
    let c := s.core l
    let a := localAcc .seq (.flgtst n.toNat) (64 + n.toNat) 0#64 false true
    if c.mayPerform l { a with n := c.accNext } && bit c.seq.flags n.toNat == (w == 1#1) then .done s else .stall s

/-- VLOOP counts element 0 of vD down and branches while it is not zero. -/
def execVloop (m : Bool) (o : BitVec 12) (d : R6) (s : State) :=
  issue { strm := .seq, park := true } m s fun s l =>
    let c := s.core l
    let v := c.seq.vreg d.toNat
    let n := elem64 v 0 - 1#64
    let s := s.setCore l (c.setV d (setElem64 v 0 n))
    if n = 0#64 then .done s else .jump s (target c.seq.vpc o)

def execVj (m : Bool) (o : BitVec 18) (s : State) :=
  issue { strm := .seq, park := true } m s fun s l => .jump s (target (s.core l).seq.vpc o)

end Sys2Proof.Machine
end

