-- ==== Sys2Proof/Machine/Dispatch.lean ====
section
/-! DEFINITION. One arm for each row of the opcode table: the meaning of every instruction word and of every event. -/

namespace Sys2Proof.Machine

/-- One instruction or event: the meaning of its constructor. -/
def exec (i : Instr) (s : State) : Host.Outcome State Fault Refusal :=
  match i with
  | .add m b a d => Sys2Proof.Machine.execAdd m b a d s
  | .sub m b a d => Sys2Proof.Machine.execSub m b a d s
  | .and m b a d => Sys2Proof.Machine.execAnd m b a d s
  | .or m b a d => Sys2Proof.Machine.execOr m b a d s
  | .xor m b a d => Sys2Proof.Machine.execXor m b a d s
  | .andn m b a d => Sys2Proof.Machine.execAndn m b a d s
  | .sll m b a d => Sys2Proof.Machine.execSll m b a d s
  | .srl m b a d => Sys2Proof.Machine.execSrl m b a d s
  | .sra m b a d => Sys2Proof.Machine.execSra m b a d s
  | .ror m b a d => Sys2Proof.Machine.execRor m b a d s
  | .slt m b a d => Sys2Proof.Machine.execSlt m b a d s
  | .sltn m b a d => Sys2Proof.Machine.execSltn m b a d s
  | .seq m b a d => Sys2Proof.Machine.execSeq m b a d s
  | .min m b a d => Sys2Proof.Machine.execMin m b a d s
  | .max m b a d => Sys2Proof.Machine.execMax m b a d s
  | .minn m b a d => Sys2Proof.Machine.execMinn m b a d s
  | .maxn m b a d => Sys2Proof.Machine.execMaxn m b a d s
  | .mul m b a d => Sys2Proof.Machine.execMul m b a d s
  | .mulh m b a d => Sys2Proof.Machine.execMulh m b a d s
  | .mulhn m b a d => Sys2Proof.Machine.execMulhn m b a d s
  | .div m b a d => Sys2Proof.Machine.execDiv m b a d s
  | .divn m b a d => Sys2Proof.Machine.execDivn m b a d s
  | .rem m b a d => Sys2Proof.Machine.execRem m b a d s
  | .remn m b a d => Sys2Proof.Machine.execRemn m b a d s
  | .clz m a d => Sys2Proof.Machine.execClz m a d s
  | .ctz m a d => Sys2Proof.Machine.execCtz m a d s
  | .popc m a d => Sys2Proof.Machine.execPopc m a d s
  | .adds m b a d => Sys2Proof.Machine.execAdds m b a d s
  | .subs m b a d => Sys2Proof.Machine.execSubs m b a d s
  | .selz m b a d => Sys2Proof.Machine.execSelz m b a d s
  | .selnz m b a d => Sys2Proof.Machine.execSelnz m b a d s
  | .bswap m a d => Sys2Proof.Machine.execBswap m a d s
  | .addi m im a d => Sys2Proof.Machine.execAddi m im a d s
  | .andi m im a d => Sys2Proof.Machine.execAndi m im a d s
  | .ori m im a d => Sys2Proof.Machine.execOri m im a d s
  | .xori m im a d => Sys2Proof.Machine.execXori m im a d s
  | .slti m im a d => Sys2Proof.Machine.execSlti m im a d s
  | .sltni m im a d => Sys2Proof.Machine.execSltni m im a d s
  | .slli m n a d => Sys2Proof.Machine.execSlli m n a d s
  | .srli m n a d => Sys2Proof.Machine.execSrli m n a d s
  | .srai m n a d => Sys2Proof.Machine.execSrai m n a d s
  | .rori m n a d => Sys2Proof.Machine.execRori m n a d s
  | .bfx m p l a d => Sys2Proof.Machine.execBfx m p l a d s
  | .bfxs m p l a d => Sys2Proof.Machine.execBfxs m p l a d s
  | .bfi m p l a d => Sys2Proof.Machine.execBfi m p l a d s
  | .lui m n v d => Sys2Proof.Machine.execLui m n v d s
  | .adpc m im d => Sys2Proof.Machine.execAdpc m im d s
  | .grd m n k a => Sys2Proof.Machine.execGrd m n k a s
  | .grdn m n k a => Sys2Proof.Machine.execGrdn m n k a s
  | .btst m n k a d => Sys2Proof.Machine.execBtst m n k a d s
  | .bset m n k a d => Sys2Proof.Machine.execBset m n k a d s
  | .bclr m n k a d => Sys2Proof.Machine.execBclr m n k a d s
  | .binv m n k a d => Sys2Proof.Machine.execBinv m n k a d s
  | .beq m o b a => Sys2Proof.Machine.execBeq m o b a s
  | .bne m o b a => Sys2Proof.Machine.execBne m o b a s
  | .blt m o b a => Sys2Proof.Machine.execBlt m o b a s
  | .bge m o b a => Sys2Proof.Machine.execBge m o b a s
  | .bltn m o b a => Sys2Proof.Machine.execBltn m o b a s
  | .bgen m o b a => Sys2Proof.Machine.execBgen m o b a s
  | .bbs m o n a => Sys2Proof.Machine.execBbs m o n a s
  | .bbc m o n a => Sys2Proof.Machine.execBbc m o n a s
  | .j m o => Sys2Proof.Machine.execJ m o s
  | .jl m o => Sys2Proof.Machine.execJl m o s
  | .jlr m im a d => Sys2Proof.Machine.execJlr m im a d s
  | .endF m => Sys2Proof.Machine.execEndF m s
  | .yield m => Sys2Proof.Machine.execYield m s
  | .ldB m im a d => Sys2Proof.Machine.execLdB m im a d s
  | .ldBS m im a d => Sys2Proof.Machine.execLdBS m im a d s
  | .ldH m im a d => Sys2Proof.Machine.execLdH m im a d s
  | .ldHS m im a d => Sys2Proof.Machine.execLdHS m im a d s
  | .ldW m im a d => Sys2Proof.Machine.execLdW m im a d s
  | .ldWS m im a d => Sys2Proof.Machine.execLdWS m im a d s
  | .ldD m im a d => Sys2Proof.Machine.execLdD m im a d s
  | .lda m z sf c a d => Sys2Proof.Machine.execLda m z sf c a d s
  | .stB m im b a => Sys2Proof.Machine.execStB m im b a s
  | .stH m im b a => Sys2Proof.Machine.execStH m im b a s
  | .stW m im b a => Sys2Proof.Machine.execStW m im b a s
  | .stD m im b a => Sys2Proof.Machine.execStD m im b a s
  | .stl m z c b a => Sys2Proof.Machine.execStl m z c b a s
  | .dead m n a => Sys2Proof.Machine.execDead m n a s
  | .fadd m p b a d => Sys2Proof.Machine.execFadd m p b a d s
  | .fsub m p b a d => Sys2Proof.Machine.execFsub m p b a d s
  | .fmul m p b a d => Sys2Proof.Machine.execFmul m p b a d s
  | .fdiv m p b a d => Sys2Proof.Machine.execFdiv m p b a d s
  | .fsqrt m p a d => Sys2Proof.Machine.execFsqrt m p a d s
  | .fmin m p b a d => Sys2Proof.Machine.execFmin m p b a d s
  | .fmax m p b a d => Sys2Proof.Machine.execFmax m p b a d s
  | .fmac m p b a d => Sys2Proof.Machine.execFmac m p b a d s
  | .fmsc m p b a d => Sys2Proof.Machine.execFmsc m p b a d s
  | .fneg m p a d => Sys2Proof.Machine.execFneg m p a d s
  | .fabs m p a d => Sys2Proof.Machine.execFabs m p a d s
  | .fcps m p b a d => Sys2Proof.Machine.execFcps m p b a d s
  | .feq m p b a d => Sys2Proof.Machine.execFeq m p b a d s
  | .flt m p b a d => Sys2Proof.Machine.execFlt m p b a d s
  | .fle m p b a d => Sys2Proof.Machine.execFle m p b a d s
  | .fclass m p a d => Sys2Proof.Machine.execFclass m p a d s
  | .frint m p r a d => Sys2Proof.Machine.execFrint m p r a d s
  | .fexp2f m p a d => Sys2Proof.Machine.execFexp2f m p a d s
  | .fscale m p b a d => Sys2Proof.Machine.execFscale m p b a d s
  | .fcvt m sf t r a d => Sys2Proof.Machine.execFcvt m sf t r a d s
  | .vadd m b a d z => Sys2Proof.Machine.execVadd m b a d z s
  | .vsub m b a d z => Sys2Proof.Machine.execVsub m b a d z s
  | .vmul m b a d z => Sys2Proof.Machine.execVmul m b a d z s
  | .vmulh m b a d z => Sys2Proof.Machine.execVmulh m b a d z s
  | .vand m b a d z => Sys2Proof.Machine.execVand m b a d z s
  | .vor m b a d z => Sys2Proof.Machine.execVor m b a d z s
  | .vxor m b a d z => Sys2Proof.Machine.execVxor m b a d z s
  | .vsll m b a d z => Sys2Proof.Machine.execVsll m b a d z s
  | .vsrl m b a d z => Sys2Proof.Machine.execVsrl m b a d z s
  | .vsra m b a d z => Sys2Proof.Machine.execVsra m b a d z s
  | .vmin m b a d z => Sys2Proof.Machine.execVmin m b a d z s
  | .vmax m b a d z => Sys2Proof.Machine.execVmax m b a d z s
  | .vminn m b a d z => Sys2Proof.Machine.execVminn m b a d z s
  | .vmaxn m b a d z => Sys2Proof.Machine.execVmaxn m b a d z s
  | .vadds m b a d z => Sys2Proof.Machine.execVadds m b a d z s
  | .vsubs m b a d z => Sys2Proof.Machine.execVsubs m b a d z s
  | .vceq m b a d z => Sys2Proof.Machine.execVceq m b a d z s
  | .vclt m b a d z => Sys2Proof.Machine.execVclt m b a d z s
  | .vcltn m b a d z => Sys2Proof.Machine.execVcltn m b a d z s
  | .vsel m b a d z => Sys2Proof.Machine.execVsel m b a d z s
  | .vfadd m p b a d h => Sys2Proof.Machine.execVfadd m p b a d h s
  | .vfsub m p b a d h => Sys2Proof.Machine.execVfsub m p b a d h s
  | .vfmul m p b a d h => Sys2Proof.Machine.execVfmul m p b a d h s
  | .vfdiv m p b a d h => Sys2Proof.Machine.execVfdiv m p b a d h s
  | .vfsqrt m p a d h => Sys2Proof.Machine.execVfsqrt m p a d h s
  | .vfmin m p b a d h => Sys2Proof.Machine.execVfmin m p b a d h s
  | .vfmax m p b a d h => Sys2Proof.Machine.execVfmax m p b a d h s
  | .vfmac m p b a d h => Sys2Proof.Machine.execVfmac m p b a d h s
  | .vfneg m p a d h => Sys2Proof.Machine.execVfneg m p a d h s
  | .vfabs m p a d h => Sys2Proof.Machine.execVfabs m p a d h s
  | .vfeq m p b a d h => Sys2Proof.Machine.execVfeq m p b a d h s
  | .vflt m p b a d h => Sys2Proof.Machine.execVflt m p b a d h s
  | .vfle m p b a d h => Sys2Proof.Machine.execVfle m p b a d h s
  | .vfrint m p a d h => Sys2Proof.Machine.execVfrint m p a d h s
  | .vfexp2f m p a d h => Sys2Proof.Machine.execVfexp2f m p a d h s
  | .vfscale m p b a d h => Sys2Proof.Machine.execVfscale m p b a d h s
  | .vcvt m sf t r a d => Sys2Proof.Machine.execVcvt m sf t r a d s
  | .vld m z a d => Sys2Proof.Machine.execVld m z a d s
  | .vlds m z b a d => Sys2Proof.Machine.execVlds m z b a d s
  | .vgath m z b a d => Sys2Proof.Machine.execVgath m z b a d s
  | .vst m z a d => Sys2Proof.Machine.execVst m z a d s
  | .vsts m z b a d => Sys2Proof.Machine.execVsts m z b a d s
  | .vscat m z b a d => Sys2Proof.Machine.execVscat m z b a d s
  | .atmSwap m r w b a d sf => Sys2Proof.Machine.execAtmSwap m r w b a d sf s
  | .atmAdd m r w b a d sf => Sys2Proof.Machine.execAtmAdd m r w b a d sf s
  | .atmAddz m r b a d sf => Sys2Proof.Machine.execAtmAddz m r b a d sf s
  | .atmAnd m r w b a d sf => Sys2Proof.Machine.execAtmAnd m r w b a d sf s
  | .atmOr m r w b a d sf => Sys2Proof.Machine.execAtmOr m r w b a d sf s
  | .atmXor m r w b a d sf => Sys2Proof.Machine.execAtmXor m r w b a d sf s
  | .atmMax m r w b a d sf => Sys2Proof.Machine.execAtmMax m r w b a d sf s
  | .atmCas m r w b a d sf => Sys2Proof.Machine.execAtmCas m r w b a d sf s
  | .vredAdd m z a d => Sys2Proof.Machine.execVredAdd m z a d s
  | .vredMin m z a d => Sys2Proof.Machine.execVredMin m z a d s
  | .vredMax m z a d => Sys2Proof.Machine.execVredMax m z a d s
  | .vredMinn m z a d => Sys2Proof.Machine.execVredMinn m z a d s
  | .vredMaxn m z a d => Sys2Proof.Machine.execVredMaxn m z a d s
  | .vredFadd m z a d => Sys2Proof.Machine.execVredFadd m z a d s
  | .vperm m z b a d => Sys2Proof.Machine.execVperm m z b a d s
  | .vrev m z a d => Sys2Proof.Machine.execVrev m z a d s
  | .vbcast m z a d => Sys2Proof.Machine.execVbcast m z a d s
  | .vslide m z b a d => Sys2Proof.Machine.execVslide m z b a d s
  | .vhalt m => Sys2Proof.Machine.execVhalt m s
  | .vqpop m j d => Sys2Proof.Machine.execVqpop m j d s
  | .vqpush m j a => Sys2Proof.Machine.execVqpush m j a s
  | .vflgset m n => Sys2Proof.Machine.execVflgset m n s
  | .vflgclr m n => Sys2Proof.Machine.execVflgclr m n s
  | .vflgwait m sf n => Sys2Proof.Machine.execVflgwait m sf n s
  | .vloop m o d => Sys2Proof.Machine.execVloop m o d s
  | .vj m o => Sys2Proof.Machine.execVj m o s
  | .drain m => Sys2Proof.Machine.execDrain m s
  | .bar m n x => Sys2Proof.Machine.execBar m n x s
  | .barG m n a x => Sys2Proof.Machine.execBarG m n a x s
  | .waitgen m b a => Sys2Proof.Machine.execWaitgen m b a s
  | .arm m k d => Sys2Proof.Machine.execArm m k d s
  | .armK m k d => Sys2Proof.Machine.execArmK m k d s
  | .mintc m b d => Sys2Proof.Machine.execMintc m b d s
  | .send m b a => Sys2Proof.Machine.execSend m b a s
  | .sendt m b a d => Sys2Proof.Machine.execSendt m b a d s
  | .sendRel m b a => Sys2Proof.Machine.execSendRel m b a s
  | .sendtRel m b a d => Sys2Proof.Machine.execSendtRel m b a d s
  | .amsg m b a k => Sys2Proof.Machine.execAmsg m b a k s
  | .spawn m b a => Sys2Proof.Machine.execSpawn m b a s
  | .fork m b a => Sys2Proof.Machine.execFork m b a s
  | .join m b a => Sys2Proof.Machine.execJoin m b a s
  | .maskc m k => Sys2Proof.Machine.execMaskc m k s
  | .unmaskc m k => Sys2Proof.Machine.execUnmaskc m k s
  | .qpush m q a => Sys2Proof.Machine.execQpush m q a s
  | .qpop m q d => Sys2Proof.Machine.execQpop m q d s
  | .vstart m a => Sys2Proof.Machine.execVstart m a s
  | .flgset m n => Sys2Proof.Machine.execFlgset m n s
  | .flgclr m n => Sys2Proof.Machine.execFlgclr m n s
  | .flgtst m n d => Sys2Proof.Machine.execFlgtst m n d s
  | .waitge m sf b a => Sys2Proof.Machine.execWaitge m sf b a s
  | .rput m r sf b a im => Sys2Proof.Machine.execRput m r sf b a im s
  | .rputt m r sf b a im => Sys2Proof.Machine.execRputt m r sf b a im s
  | .fence m k sf => Sys2Proof.Machine.execFence m k sf s
  | .mpub m a d => Sys2Proof.Machine.execMpub m a d s
  | .mcommit m a => Sys2Proof.Machine.execMcommit m a s
  | .mread m a d => Sys2Proof.Machine.execMread m a d s
  | .mreadv m b a d => Sys2Proof.Machine.execMreadv m b a d s
  | .munpin m b a => Sys2Proof.Machine.execMunpin m b a s
  | .mreclaim m b a => Sys2Proof.Machine.execMreclaim m b a s
  | .copy m a => Sys2Proof.Machine.execCopy m a s
  | .copyt m a d => Sys2Proof.Machine.execCopyt m a d s
  | .wlease m a d => Sys2Proof.Machine.execWlease m a d s
  | .wleaset m a d => Sys2Proof.Machine.execWleaset m a d s
  | .wrel m a => Sys2Proof.Machine.execWrel m a s
  | .wfmt m b a => Sys2Proof.Machine.execWfmt m b a s
  | .wmma m a => Sys2Proof.Machine.execWmma m a s
  | .wzero m a => Sys2Proof.Machine.execWzero m a s
  | .wstep m a => Sys2Proof.Machine.execWstep m a s
  | .wnorm m a => Sys2Proof.Machine.execWnorm m a s
  | .wretry m => Sys2Proof.Machine.execWretry m s
  | .wstat m d => Sys2Proof.Machine.execWstat m d s
  | .tepi m a => Sys2Proof.Machine.execTepi m a s
  | .tstat m d => Sys2Proof.Machine.execTstat m d s
  | .trap m a => Sys2Proof.Machine.execTrap m a s
  | .tret m => Sys2Proof.Machine.execTret m s
  | .tretHeld m b a d => Sys2Proof.Machine.execTretHeld m b a d s
  | .cwr m n d => Sys2Proof.Machine.execCwr m n d s
  | .cww m n a => Sys2Proof.Machine.execCww m n a s
  | .cmoCl m b a d => Sys2Proof.Machine.execCmoCl m b a d s
  | .cmoCli m b a d => Sys2Proof.Machine.execCmoCli m b a d s
  | .cmoInv m b a d => Sys2Proof.Machine.execCmoInv m b a d s
  | .tlbinvVa m b a d => Sys2Proof.Machine.execTlbinvVa m b a d s
  | .tlbinvCtx m b d => Sys2Proof.Machine.execTlbinvCtx m b d s
  | .tlbinvIpa m b a d => Sys2Proof.Machine.execTlbinvIpa m b a d s
  | .tlbinvPart m b d => Sys2Proof.Machine.execTlbinvPart m b d s
  | .cmoClOwn m b d => Sys2Proof.Machine.execCmoClOwn m b d s
  | .cmoCliOwn m b d => Sys2Proof.Machine.execCmoCliOwn m b d s
  | .cmoInvOwn m b d => Sys2Proof.Machine.execCmoInvOwn m b d s
  | .seize m a d => Sys2Proof.Machine.execSeize m a d s
  | .cede m a => Sys2Proof.Machine.execCede m a s
  | .yieldslot m => Sys2Proof.Machine.execYieldslot m s
  | .rfetch m b a d => Sys2Proof.Machine.execRfetch m b a d s
  | .swait m b a d => Sys2Proof.Machine.execSwait m b a d s
  | .dispatch m b a d => Sys2Proof.Machine.execDispatch m b a d s
  | .spost m b a d => Sys2Proof.Machine.execSpost m b a d s
  | .nop m im a h => Sys2Proof.Machine.execNop m im a h s
  | .prefR m im a => Sys2Proof.Machine.execPrefR m im a s
  | .prefW m im a => Sys2Proof.Machine.execPrefW m im a s
  | .park L seq => Sys2Proof.Machine.execPark L seq s
  | .accessPerform L n fwd => Sys2Proof.Machine.execAccessPerform L n fwd s
  | .cacheFill line => Sys2Proof.Machine.execCacheFill line s
  | .acknowledgement L n => Sys2Proof.Machine.execAcknowledgement L n s
  | .heldReleasePerform L n => Sys2Proof.Machine.execHeldReleasePerform L n s
  | .translationWalk L va wr => Sys2Proof.Machine.execTranslationWalk L va wr s
  | .tlbinvComplete L => Sys2Proof.Machine.execTlbinvComplete L s
  | .cmoComplete L => Sys2Proof.Machine.execCmoComplete L s
  | .channelFailure c => Sys2Proof.Machine.execChannelFailure c s
  | .hotModeEnter c temp => Sys2Proof.Machine.execHotModeEnter c temp s
  | .hotModeExit c temp => Sys2Proof.Machine.execHotModeExit c temp s
  | .dramWindowEnd avail => Sys2Proof.Machine.execDramWindowEnd avail s
  | .messageArrival n => Sys2Proof.Machine.execMessageArrival n s
  | .credit n => Sys2Proof.Machine.execCredit n s
  | .remoteWriteArrival n => Sys2Proof.Machine.execRemoteWriteArrival n s
  | .forwardEndMarker L => Sys2Proof.Machine.execForwardEndMarker L s
  | .timerTick L ws => Sys2Proof.Machine.execTimerTick L ws s
  | .firingStart L => Sys2Proof.Machine.execFiringStart L s
  | .runQueueAging L => Sys2Proof.Machine.execRunQueueAging L s
  | .priority0Interrupt L => Sys2Proof.Machine.execPriority0Interrupt L s
  | .watchdogExpiry L => Sys2Proof.Machine.execWatchdogExpiry L s
  | .atomicHandler L => Sys2Proof.Machine.execAtomicHandler L s
  | .amsgHandlerRun L => Sys2Proof.Machine.execAmsgHandlerRun L s
  | .sendRetry L => Sys2Proof.Machine.execSendRetry L s
  | .spawnAllocate L => Sys2Proof.Machine.execSpawnAllocate L s
  | .drayTakeCopy L => Sys2Proof.Machine.execDrayTakeCopy L s
  | .drayUnitPerform L sq u => Sys2Proof.Machine.execDrayUnitPerform L sq u s
  | .drayCopyComplete L sq => Sys2Proof.Machine.execDrayCopyComplete L sq s
  | .leaseGrant cl => Sys2Proof.Machine.execLeaseGrant cl s
  | .leaseBoundExpiry cl => Sys2Proof.Machine.execLeaseBoundExpiry cl s
  | .wainCommandAccept cl => Sys2Proof.Machine.execWainCommandAccept cl s
  | .wainStageStep cl => Sys2Proof.Machine.execWainStageStep cl s
  | .wainCommandRetire cl => Sys2Proof.Machine.execWainCommandRetire cl s
  | .autoRenormalise cl => Sys2Proof.Machine.execAutoRenormalise cl s
  | .markerPost L tender => Sys2Proof.Machine.execMarkerPost L tender s
  | .tepiRetire cl => Sys2Proof.Machine.execTepiRetire cl s
  | .wainRampStep cl => Sys2Proof.Machine.execWainRampStep cl s
  | .mreadvDeadline L => Sys2Proof.Machine.execMreadvDeadline L s
  | .mirrorApply n reclaim ver stamp bytes => Sys2Proof.Machine.execMirrorApply n reclaim ver stamp bytes s
  | .proxyAccess L n => Sys2Proof.Machine.execProxyAccess L n s
  | .w2SramWrite fn off bytes => Sys2Proof.Machine.execW2SramWrite fn off bytes s
  | .w2SramRead fn off len => Sys2Proof.Machine.execW2SramRead fn off len s
  | .w2UnmappedAccess fn span wr => Sys2Proof.Machine.execW2UnmappedAccess fn span wr s
  | .w2PayloadWrite fn j off bytes => Sys2Proof.Machine.execW2PayloadWrite fn j off bytes s
  | .w2PayloadRead fn j off len => Sys2Proof.Machine.execW2PayloadRead fn j off len s
  | .w2Mpub fn j => Sys2Proof.Machine.execW2Mpub fn j s
  | .w2Mcommit fn j => Sys2Proof.Machine.execW2Mcommit fn j s
  | .w2Mread fn j => Sys2Proof.Machine.execW2Mread fn j s
  | .w2StampRead fn j => Sys2Proof.Machine.execW2StampRead fn j s
  | .w2Munpin fn j => Sys2Proof.Machine.execW2Munpin fn j s
  | .w1Notify fn qi tail => Sys2Proof.Machine.execW1Notify fn qi tail s
  | .w1QueueConfigWrite fn qi reg v => Sys2Proof.Machine.execW1QueueConfigWrite fn qi reg v s
  | .notifyBoundExpiry fn qi => Sys2Proof.Machine.execNotifyBoundExpiry fn qi s
  | .teamComplete t => Sys2Proof.Machine.execTeamComplete t s
  | .slotGuardStart => Sys2Proof.Machine.execSlotGuardStart s
  | .slotEdge => Sys2Proof.Machine.execSlotEdge s
  | .debtTimeEnd => Sys2Proof.Machine.execDebtTimeEnd s
  | .donationIdle => Sys2Proof.Machine.execDonationIdle s
  | .seizeLendWatchdog cl => Sys2Proof.Machine.execSeizeLendWatchdog cl s
  | .preemptEstimate v => Sys2Proof.Machine.execPreemptEstimate v s
  | .preemptDrain v => Sys2Proof.Machine.execPreemptDrain v s
  | .preemptDiscard v => Sys2Proof.Machine.execPreemptDiscard v s
  | .preemptSave v => Sys2Proof.Machine.execPreemptSave v s
  | .preemptComplete => Sys2Proof.Machine.execPreemptComplete s
  | .teamResume v => Sys2Proof.Machine.execTeamResume v s
  | .vfReset fn => Sys2Proof.Machine.execVfReset fn s
  | .vfResetTimeout fn => Sys2Proof.Machine.execVfResetTimeout fn s
  | .deviceReset => Sys2Proof.Machine.execDeviceReset s
  | .migrationPrecopy fn => Sys2Proof.Machine.execMigrationPrecopy fn s
  | .migrationStopping fn => Sys2Proof.Machine.execMigrationStopping fn s
  | .migrationAbandon fn => Sys2Proof.Machine.execMigrationAbandon fn s
  | .migrationResuming fn => Sys2Proof.Machine.execMigrationResuming fn s
  | .migrationRestore fn => Sys2Proof.Machine.execMigrationRestore fn s
  | .migrationDataRead => Sys2Proof.Machine.execMigrationDataRead s
  | .migrationDataWrite v => Sys2Proof.Machine.execMigrationDataWrite v s
  | .retentionEntry cl => Sys2Proof.Machine.execRetentionEntry cl s
  | .retentionExit cl parityOk => Sys2Proof.Machine.execRetentionExit cl parityOk s
  | .powerEstimate tiles units rest => Sys2Proof.Machine.execPowerEstimate tiles units rest s
  | .allowanceCompute => Sys2Proof.Machine.execAllowanceCompute s
  | .opPointChange tile => Sys2Proof.Machine.execOpPointChange tile s
  | .sensorSample temps => Sys2Proof.Machine.execSensorSample temps s
  | .throttleRise tile => Sys2Proof.Machine.execThrottleRise tile s
  | .heartbeatSend => Sys2Proof.Machine.execHeartbeatSend s
  | .heartbeatArrival => Sys2Proof.Machine.execHeartbeatArrival s
  | .heartbeatTimeout => Sys2Proof.Machine.execHeartbeatTimeout s
  | .demoteArrival at_ => Sys2Proof.Machine.execDemoteArrival at_ s
  | .mirroredW2Write off bytes => Sys2Proof.Machine.execMirroredW2Write off bytes s
  | .spareLinkTrain => Sys2Proof.Machine.execSpareLinkTrain s
  | .spareLinkLoss => Sys2Proof.Machine.execSpareLinkLoss s
  | .promote => Sys2Proof.Machine.execPromote s
  | .followerEnter => Sys2Proof.Machine.execFollowerEnter s
  | .ptmExchange host => Sys2Proof.Machine.execPtmExchange host s
  | .bootCommand image => Sys2Proof.Machine.execBootCommand image s
  | .attestationNonceWrite im v => Sys2Proof.Machine.execAttestationNonceWrite im v s
  | .capabilityKeyInstall p hi => Sys2Proof.Machine.execCapabilityKeyInstall p hi s
  | .coreRetire L => Sys2Proof.Machine.execCoreRetire L s
  | .errorLogClear => Sys2Proof.Machine.execErrorLogClear s
  | .memoryConfigWrite v => Sys2Proof.Machine.execMemoryConfigWrite v s
  | .wayMaskWrite sl p v => Sys2Proof.Machine.execWayMaskWrite sl p v s
  | .slotWayWrite sl v => Sys2Proof.Machine.execSlotWayWrite sl v s
  | .contextEntryWrite n v => Sys2Proof.Machine.execContextEntryWrite n v s
  | .lockedSramRangeWrite p im v => Sys2Proof.Machine.execLockedSramRangeWrite p im v s
  | .windowWrite target off v => Sys2Proof.Machine.execWindowWrite target off v s
  | .limitWrite p v => Sys2Proof.Machine.execLimitWrite p v s
  | .dramShareWrite p v => Sys2Proof.Machine.execDramShareWrite p v s
  | .objectEnable n v => Sys2Proof.Machine.execObjectEnable n v s
  | .objectDisable n v => Sys2Proof.Machine.execObjectDisable n v s
  | .clearPins n => Sys2Proof.Machine.execClearPins n s
  | .cancelReservation n => Sys2Proof.Machine.execCancelReservation n s
  | .objectMapWrite fn j v => Sys2Proof.Machine.execObjectMapWrite fn j v s
  | .routeWordWrite k v => Sys2Proof.Machine.execRouteWordWrite k v s
  | .intervalWrite off v => Sys2Proof.Machine.execIntervalWrite off v s
  | .slotTableEnable v => Sys2Proof.Machine.execSlotTableEnable v s
  | .slotTableDisable v => Sys2Proof.Machine.execSlotTableDisable v s
  | .deviceStateRun v => Sys2Proof.Machine.execDeviceStateRun v s
  | .deviceStateRetain v => Sys2Proof.Machine.execDeviceStateRetain v s
  | .deviceStateGroveoff v => Sys2Proof.Machine.execDeviceStateGroveoff v s
  | .thermalLimitsWrite v => Sys2Proof.Machine.execThermalLimitsWrite v s
  | .powerStatusClear v => Sys2Proof.Machine.execPowerStatusClear v s
  | .accumulatorRead cl off => Sys2Proof.Machine.execAccumulatorRead cl off s
  | .pfErrorLogClear => Sys2Proof.Machine.execPfErrorLogClear s
  | .apertureWrite fn im v => Sys2Proof.Machine.execApertureWrite fn im v s
  | .controlWordWrite who target off v => Sys2Proof.Machine.execControlWordWrite who target off v s
  | .swaitDeadline L => Sys2Proof.Machine.execSwaitDeadline L s
  | .powerLoss => Sys2Proof.Machine.execPowerLoss s
  | .heldFiringRequest L => Sys2Proof.Machine.execHeldFiringRequest L s
  | .forkRecruitment L => Sys2Proof.Machine.execForkRecruitment L s
  | .tenderCommandAccept cl => Sys2Proof.Machine.execTenderCommandAccept cl s

end Sys2Proof.Machine
end

