-- ==== Sys2Proof/Machine/Run.lean ====
section
/-! DEFINITION. A turn of one stream: what comes before a word, the word's fetch, its decoding, and its meaning (R211, R215,
R217, R229, R304, R307). -/

namespace Sys2Proof.Machine

/-! ### Fetch -/

/-- The instruction word at a PC of core `l`; its fault where it cannot be fetched (R72, R83, R106, R115, R211). -/
def State.fetchWord (s : State) (l : Nat) (pc : W64) : State × Except Flt W32 :=
  match s.checkFetch l pc with
  | (s, .error f) => (s, .error f)
  | (s, .ok (k, na)) =>
    if isStation l then (s, .ok (BitVec.ofNat 32 (ofBytes (memReadN s.mem k 4))))
    else if clsOf pc = 0 then
      let c := s.core l
      match s.hwRead c.part c.ctx na k 4 with
      | (s, some bs) => (s, .ok (BitVec.ofNat 32 (ofBytes bs)))
      | (s, none) => (s, .error (fltAt causeData pc))
    else
      match s.eccSpan k 4 with
      | (s, some d) => (s, .error (fltAt causeData (eccAddr pc d)))
      | (s, none) => (s, .ok (BitVec.ofNat 32 (ofBytes (memReadN s.mem k 4))))

/-- Latches the word that a stream is about to issue. -/
def State.latch (s : State) (m : Mover) (w : W32) : State :=
  { s.updCore m.core fun c =>
      if m.strm = .ctl then { c with curWord := w } else { c with seq := { c.seq with curWord := w } } with mover := m }

/-- The PC of a stream. -/
def State.pcOf (s : State) (m : Mover) : W64 :=
  let c := s.core m.core
  if m.strm = .ctl then c.pc else c.seq.vpc

/-- A fault of a stream at its next word. -/
def State.streamTrap (s : State) (m : Mover) (f : Flt) : State :=
  if m.strm = .ctl then s.raise m.core f (s.core m.core).pc else s.seqTrap m.core f

/-- Fetches, decodes and runs the next word of a stream. A word that does not decode is the illegal-instruction fault
(R229). -/
def State.issueNext (s : State) (m : Mover) : Host.Outcome State Fault Refusal :=
  match s.fetchWord m.core (s.pcOf m) with
  | (s, .error f) => .next ({ s with mover := m }.streamTrap m f)
  | (s, .ok w) =>
    match decode w with
    | .ok i => exec i (s.latch m w)
    | .error _ => .next ((s.latch m w).streamTrap m { flt causeIllegal with word := w })

/-! ### What comes before a word -/

/-- Whether a request that core `l` has sent for tag `t` is still on its way. -/
def State.inFlight (s : State) (l t : Nat) : Bool :=
  ((s.core l).accNo t).isSome ||
    s.net.any fun p => p.src == l && p.acc == t && (match p.kind with | .tret _ _ _ => true | _ => false)

/-- Whether the control thread can take a deferred fault now: its word has issued nothing whose reply is to come (R307,
R304). -/
def State.mayDefer (s : State) (l : Nat) : Bool :=
  match (s.core l).wait with
  | .none => true
  | .sent t => !(s.inFlight l t)
  | .got _ _ => false
  | .refused _ => false

/-- The deferred fault that the running firing of a core takes next: not one that waits for the firing's resumption
(R307). -/
def State.deferredOf (s : State) (l : Nat) : Option Flt :=
  let c := s.core l
  if c.deferred.isEmpty || c.holdDue.isSome || !(s.mayDefer l) then none
  else c.deferred.find? fun f => !f.later && (f.owner.id == (c.owner l).id || isStation l)

/-- Takes it. -/
def State.takeDeferred (s : State) (l : Nat) (f : Flt) : State :=
  let s := s.updCore l fun c => { c with deferred := c.deferred.erase f }
  s.raise l f (s.core l).pc

/-- Station 0 runs the ROM while it does not run firmware (R440). -/
def State.inRom (s : State) (l : Nat) : Bool :=
  l == 0xF00 && !(s.core l).run && (s.firm.boot == 0#3 || s.firm.boot == 2#3)

/-- A turn of a core's control thread; a stopped tile's firings stall in place (R423). -/
def State.turnCtl (s : State) (l : Nat) : Host.Outcome State Fault Refusal :=
  let c := s.core l
  if s.inRom l then .next s.romStep
  else if !c.run || s.coreStopped l then .next s
  else
    match s.deferredOf l with
    | some f => .next (s.takeDeferred l f)
    | none =>
      if c.parkDue || c.holdDue.isSome then .next (s.parkCtl l) else s.issueNext { core := l, strm := .ctl }

/-- A turn of a core's sequencer under its own firing. -/
def State.turnSeqOwn (s : State) (l : Nat) : Host.Outcome State Fault Refusal :=
  let c := s.core l
  if s.coreStopped l then .next s
  else if c.seq.parkDue then .next (s.parkSeq l)
  else if !(bit c.seq.vstat 63) || c.seq.startPend then .next s
  else s.issueNext { core := l, strm := .seq }

/-- A turn of a core's sequencer. -/
def State.turnSeq (s : State) (l : Nat) : Host.Outcome State Fault Refusal :=
  match (s.seqEnter l).turnSeqOwn l with
  | .next t => .next (t.seqLeave l (s.core l))
  | .fault r => .fault r
  | .refused r => .refused r

/-! ### Which stream is next -/

/-- Streams that have a word to issue or a park to make, in core order, none on a tile whose clock is stopped; Station 0 in ROM
last (R305, R423). -/
def State.streams (s : State) : List Mover :=
  (s.cores.flatMap fun x =>
    if s.coreStopped x.1 then []
    else (if x.2.run then [{ core := x.1, strm := .ctl }] else []) ++
      if bit x.2.seq.vstat 63 || x.2.seq.parkDue then [{ core := x.1, strm := .seq }] else []) ++
    if s.inRom 0xF00 then [{ core := 0xF00, strm := .ctl }] else []

def Mover.rank (m : Mover) : Nat := 2 * m.core + (if m.strm = .ctl then 0 else 1)

/-- The stream whose turn follows that of the mover: the next in core order, round and round; the same one where no other
runs. -/
def State.nextMover (s : State) : Mover :=
  let ms := s.streams
  match ms.find? fun m => s.mover.rank < m.rank with
  | some m => m
  | none => ms.headD s.mover

/-- The stream that moves now: the mover, or the next one where the mover has no word to issue. -/
def State.moverNow (s : State) : Mover := if s.streams.contains s.mover then s.mover else s.nextMover

/-- After a stream's turn the next one has its turn. -/
def rotate : Host.Outcome State Fault Refusal → Host.Outcome State Fault Refusal
  | .next s => .next { s with mover := s.nextMover }
  | .fault r => .fault r
  | .refused r => .refused r

/-- A turn of a stream. -/
def State.turn (s : State) (m : Mover) : Host.Outcome State Fault Refusal :=
  rotate (if m.strm = .ctl then { s with mover := m }.turnCtl m.core else { s with mover := m }.turnSeq m.core)

end Sys2Proof.Machine
end

