-- ==== Sys2Proof/Machine/Due.lean ====
section
/-! DEFINITION. What the device does on its own when no turn is named: the events that its state makes possible, of which
the first that changes something is due; and what passes with every step (log entries 4 and 6). -/

namespace Sys2Proof.Machine

/-! ### Candidates -/

/-- Something the device may do: the meaning of an event with its operands. -/
abbrev Act := State → Host.Outcome State Fault Refusal

/-- What an issued access may come to. -/
def accEvents (l : Nat) (a : Acc) : List Act :=
  match a.st with
  | .issued => if a.home = .foreign then [execProxyAccess l a.n] else [execAccessPerform l a.n false]
  | .marker => [execHeldReleasePerform l a.n]
  | .performed => [execAcknowledgement l a.n]

def whenI (b : Bool) (i : Act) : List Act := if b then [i] else []

/-- The first unit of a copy that is not performed. -/
def Copy.nextUnit (c : Copy) : Option Nat := (List.range c.total).find? fun u => !(c.units.contains u)

def copyEvents (l : Nat) (c : Copy) : List Act :=
  (match c.nextUnit with
    | some u => [execDrayUnitPerform l c.sq u]
    | none => []) ++ [execDrayCopyComplete l c.sq]

def headIs (q : List EngCmd) (p : EngCmd → Bool) : Bool := match q with
  | e :: _ => p e
  | [] => false

/-- What the engine queues of a core may let happen. -/
def queueEvents (l : Nat) (c : Core) : List Act :=
  whenI (c.qm.any fun e => e.fn == fnMarker) (execMarkerPost l false) ++
    whenI (headIs c.qe fun e => e.fn == fnMarker) (execMarkerPost l true) ++
    (match c.qm with | e :: _ => [execWainCommandAccept e.cl] | [] => []) ++
    (match c.qe with | e :: _ => [execTenderCommandAccept e.cl] | [] => []) ++
    whenI (!c.fifo.isEmpty) (execDrayTakeCopy l) ++ c.copies.flatMap (copyEvents l)

/-- What the firings of a core may let happen. -/
def firingEvents (l : Nat) (c : Core) : List Act :=
  whenI (!c.runq.isEmpty) (execRunQueueAging l) ++
    whenI (!c.run && (!c.runq.isEmpty || !c.intr.isEmpty)) (execFiringStart l) ++
    whenI (c.run && isClearing l && !c.runq.isEmpty) (execPriority0Interrupt l) ++
    whenI c.run (execWatchdogExpiry l) ++
    (match c.dir.find? fun w => w.st == .idle && w.decl.isSome with
      | some w => [execTimerTick l w.wsid.toNat]
      | none => [])

/-- What a core's own state makes possible. -/
def coreEvents (x : Nat × Core) : List Act :=
  let l := x.1
  let c := x.2
  c.acc.flatMap (accEvents l) ++
    (match c.hq with
      | e :: _ => if e.amsg then [execAmsgHandlerRun l] else [execAtomicHandler l]
      | [] => []) ++
    whenI (!c.sendq.isEmpty) (execSendRetry l) ++ queueEvents l c ++
    whenI (c.maint.any (·.tlbinv)) (execTlbinvComplete l) ++ whenI (c.maint.any (!·.tlbinv)) (execCmoComplete l) ++
    firingEvents l c

def pktEvents (p : Pkt) : List Act :=
  match p.kind with
  | .message _ _ _ _ => [execMessageArrival p.n]
  | .amsg _ _ _ _ => [execMessageArrival p.n]
  | .rput _ _ _ _ _ => [execRemoteWriteArrival p.n]
  | .tret _ _ _ => [execHeldFiringRequest p.dst]
  | .spawn _ _ => [execSpawnAllocate p.dst]
  | .fork _ _ _ => [execForkRecruitment p.src]
  | .credit _ _ _ => [execCredit p.n]
  | .forwardEnd => [execForwardEndMarker p.dst]

/-- What a cluster's engines may let happen; it leaves retention once an arrival has started its exit (R411). -/
def State.clusterEvents (s : State) (x : Nat × Cluster) : List Act :=
  let cl := x.1
  let c := x.2
  whenI (c.ret == .exiting || c.ret == .reinit) (execRetentionExit cl (!(s.eccBad (clsBase 0xB + cl)))) ++
    whenI c.lease.isSome (execLeaseBoundExpiry cl) ++ whenI (!c.waiters.isEmpty || c.seized.isSome) (execLeaseGrant cl) ++
    (if c.wain.isEmpty then [] else
      [execWainRampStep cl, execWainStageStep cl, execWainCommandRetire cl, execAutoRenormalise cl]) ++
    whenI (!c.tender.isEmpty) (execTepiRetire cl) ++ whenI c.seized.isSome (execSeizeLendWatchdog cl) ++
    whenI (s.devState == 1) (execRetentionEntry cl)

/-- The fills that have been accepted. -/
def State.fillEvents (s : State) : List Act :=
  s.sets.flatMap fun x => (x.2.filter fun w => w.st == .pending).map fun w => execCacheFill w.line

/-- Hot channels that have been cool for 1 ms, with the temperature they report (R120). -/
def State.coolEvents (s : State) : List Act :=
  (s.cool.filter fun x => s.hot.getLsbD x.1 && decide (1000000 ≤ (s.time - x.2).toNat)).map fun x =>
    execHotModeExit x.1 (BitVec.ofNat 8 (fld (s.cw (0xD00 + x.1) 0) 55 48))

/-- The slot table, requests of the PF and the links. -/
def State.deviceEvents (s : State) : List Act :=
  (if s.slotEn || s.slot.pend.isSome || !s.slot.due.isEmpty || !s.slot.zero.isEmpty || s.clusters.any (fun c => c.2.ceding) then
      [execSlotEdge, execSlotGuardStart, execDebtTimeEnd, execDonationIdle] else []) ++ whenI s.ptmDue (execPtmExchange s.ptmHost) ++
    whenI (bit s.pre.status 63 || !s.migr.isEmpty || s.teams.any (·.2.back)) execPreemptComplete ++ s.coolEvents ++
    (s.resets.map fun r => execVfResetTimeout r.1) ++
    (s.pendAt.map fun k => execNotifyBoundExpiry (k.1 / 8) (k.1 % 8)) ++
    whenI (s.up && !s.flw) execHeartbeatSend ++ whenI s.flw execHeartbeatTimeout ++
    (s.teams.map fun t => execTeamComplete t.1) ++ (s.nops.map fun t => execTeamComplete t.1) ++
    (match s.pubWaiter with | some x => [execW2Mpub x.1 x.2] | none => [])

/-- Every event that the state may make possible. -/
def State.candidates (s : State) : List Act :=
  s.cores.flatMap coreEvents ++ s.net.flatMap pktEvents ++ s.fillEvents ++ s.clusters.flatMap s.clusterEvents ++
    s.deviceEvents

/-- Whether an event would change something now. -/
def State.isDue (s : State) (i : Act) : Bool :=
  match i s with
  | .next t => decide (t ≠ s)
  | .fault _ => false
  | .refused _ => false

/-- The event that is due, if one is. -/
def State.nextDue (s : State) : Option Act := s.candidates.find? s.isDue

/-! ### What passes with a step -/

/-- The Grove clusters with a core the device has used. -/
def State.usedClusters (s : State) : List Nat :=
  ((s.cores.map (·.1)).filter isGrove |>.map clusterOf).eraseDups

/-- Clusters that are not idle have their idle time start again (R411). -/
def State.markIdle (s : State) : State :=
  let s := if s.commonActive then { s with slot := { s.slot with idleSince := s.time } } else s
  s.usedClusters.foldl (fun s cl =>
    if s.clusterIdle cl then s else s.updClu cl fun c => { c with idleSince := s.time }) s

/-- What follows from a step at once: increments whose homes now take them are made, and each queue slot that the step has
freed serves a pending bit (R331, R376, R411). -/
def State.settleStep (s : State) : State :=
  let s := if s.addq.isEmpty then s else s.flushAdds
  let s := if s.countq.isEmpty then s else s.flushCounts
  if s.pendAt.isEmpty then s else s.pendServeN s.pendAt.length

/-- Device time passes (log entry 6), the step is counted, and whether the next step may meet errors is drawn (log
entry 78). -/
def State.pass (s : State) : State :=
  ({ s.settleStep.slew (Config.elapsed s.tick) with tick := s.tick + 1, upset := Config.upset s.tick }).markIdle

/-- What passes after a turn, whatever it came to. -/
def passAfter : Host.Outcome State Fault Refusal → Host.Outcome State Fault Refusal
  | .next s => .next s.pass
  | .fault r => .fault r
  | .refused r => .refused r

/-- A turn named by the agenda: an event, or a stream. An instruction word is no event and does nothing there. -/
def State.take (s : State) : Turn → Host.Outcome State Fault Refusal
  | .event i => if i.isWord then .next s else exec i s
  | .run m => s.turn m

/-- The device's own turn: what is due, else the next stream. -/
def State.ownTurn (s : State) : Host.Outcome State Fault Refusal :=
  match s.nextDue with
  | some act => act s
  | none => s.turn s.moverNow

/-! ### Placing an instruction where the next step fetches it -/

/-- Majors of the vector sequencer (R227). -/
def seqMajors : List Nat := [0x38, 0x39, 0x3A, 0x3B, 0x3C, 0x3D, 0x3E, 0x3F, 0x48, 0x49]

/-- The workspace of the firing that runs on core 0 (log entry 1). -/
def placedWk : Wk :=
  { ent := 1, wsid := 1#16, gen := 1#12, part := 0#6, idx := 0, place := some 0, allot := 64, ctx := 0#10
    mode := .hypervisor, entry := BitVec.ofNat 64 (lmKey 0 0), st := .running }

/-- Core 0 runs a firing from offset 0 of the LM of tile 0, in hypervisor mode. -/
def State.placeCtl (s : State) (w : Nat) : State :=
  { s with
    mem := memWriteN s.mem (lmKey 0 0) (toBytes 4 w)
    cores := [(0, { mode := .hypervisor, run := true, pc := BitVec.ofNat 64 (lmKey 0 0), dir := [placedWk] })]
    mover := { core := 0, strm := .ctl } }

/-- The sequencer of core 0 runs from there. -/
def State.placeSeq (s : State) (w : Nat) : State :=
  { s with
    mem := memWriteN s.mem (lmKey 0 0) (toBytes 4 w)
    cores := [(0, { mode := .hypervisor, dir := [placedWk]
                    seq := { vpc := BitVec.ofNat 64 (lmKey 0 0), vstat := 1#64 <<< 63, owner := 1 } })]
    mover := { core := 0, strm := .seq } }

/-- Station 0 runs from offset 0 of the Station store. -/
def State.placeStation (s : State) (w : Nat) : State :=
  { s with
    mem := memWriteN s.mem (stationKey 0) (toBytes 4 w)
    cores := [(0xF00, { mode := .station, run := true })]
    firm := { s.firm with boot := 3#3, rdy := true }
    mover := { core := 0xF00, strm := .ctl } }

/-- The word stored where the next step fetches: a vector word for the sequencer of core 0, a Station word for Station 0,
any other for the control thread of core 0. -/
def State.placeWord (s : State) (w : Nat) : State :=
  if seqMajors.contains (w % 128) then s.placeSeq w
  else if w % 128 = 0x74 then s.placeStation w
  else s.placeCtl w

end Sys2Proof.Machine
end

