-- ==== Sys2Proof/Safety.lean ====
section
/-! DEFINITION. What the claims speak of: an answer that is a next state, when a word issues, what a word's end leaves,
and the form of the memory that every step keeps. -/

namespace Sys2Proof.Machine

/-- The memory is in its canonical form. -/
def State.memOk (s : State) : Bool := Memory.wf s.mem

/-- An answer that is a next state with a property. -/
def nextWith (o : Host.Outcome State Fault Refusal) (p : State → Prop) : Prop :=
  match o with
  | .next s => p s
  | .fault _ => False
  | .refused _ => False

/-- The word of format A with these fields, cut as R212 cuts it; the other formats put their immediates in the same places. -/
def wordOf (m : Bool) (f b a d : BitVec 6) (op : BitVec 7) : W32 := BitVec.ofBool m ++ f ++ b ++ a ++ d ++ op

/-- A word that is the illegal-instruction fault of R229 orders 1 and 2. -/
def isIllegal (w : W32) : Prop := ∃ e, decode w = .error e

/-! ### The core whose turn it is -/

/-- Its logical id. -/
def State.me (s : State) : Nat := s.mover.core

/-- The core itself. -/
def State.own (s : State) : Core := s.core s.me

/-- The register cache holds a word of a resident slot once, and each clean one holds what its slot word holds. The last
fails only after a hypervisor or Station store to a slot word that is cached (R70, R180). -/
def Core.cacheClean (c : Core) : Bool :=
  decide (c.rc.map (·.key)).Nodup &&
    c.rc.all fun e => decide (e.key < 1024) && (e.dirty || kget c.rf e.key 0#64 == e.val)

/-- A word of the control thread issues now: its stream, its mode and its registers pass R229, no guard window suppresses
it, no park or interlock comes before it, and no operand's fill meets a double-bit error (R72, R196, R215, R217, R219). -/
def State.ctlReady (s : State) (i : Issue) : Bool :=
  i.strm == .ctl && s.mover.strm == .ctl && !(i.array && isStation s.me) && modeGe s.own.mode i.least &&
    (i.names.all fun r => decide (r.toNat < s.own.allot)) &&
    (s.own.guard.rem == 0 || s.own.guard.pred == s.own.guard.sense) &&
    (!i.long || decide (s.own.held.length < 32)) && (!i.park || s.own.held.isEmpty) &&
    (i.reads.all fun r => !(s.own.isArmed r)) && s.own.cacheClean && (s.operands s.me i.reads).2.isNone

/-- A word of the sequencer issues now (R229, R296). -/
def State.seqReady (s : State) (i : Issue) : Bool :=
  i.strm == .seq && s.mover.strm == .seq && !(i.array && isStation s.me) && modeGe s.own.mode i.least &&
    (i.names.all fun r => decide (r.toNat < s.own.allot)) &&
    (!i.long || decide (s.own.seq.held.length < 32)) && (!i.park || s.own.seq.held.isEmpty) &&
    (s.operands s.me i.reads).2.isNone

/-- The state after the register-cache fills that reading registers makes: it may have counted corrected errors of the
tile (R72, R180). -/
def State.filled (s : State) (rs : List R6) : State := (s.operands s.me rs).1

/-- The state with the operands of a word read (R180, R196). -/
def State.took (s : State) (rs : List R6) : State := (s.filled rs).setCore s.me (rs.foldl Core.consume s.own)

/-! ### What the end of a word leaves -/

/-- Registers as `s` has them: every word of every workspace of the core, but those of the keys named (R177, R180), and the
scoreboard of every register that is not named (R196). -/
structure SameWords (c k : Core) (written touched : List Nat) : Prop where
  words : ∀ i, i ∉ written → k.word i = c.word i
  marks : ∀ i, i ∉ written → i ∉ touched → kfind k.sb i = kfind c.sb i

/-- The key of register `r` of the running firing. -/
def Core.keyOf (c : Core) (r : R6) : Nat := wordKey c.cur r.toNat

/-- `t` is `u` after a word of the control thread that found `s`, read `reads`, wrote `v` to `d`, and did nothing else to
registers: `u` is the device and `base` the core with what else the word did. The next PC is `pc`, a marker ends the run,
and a guard window counts down, or ends where the word jumped (R212, R215, R219). A write to g0 is discarded (R177), so a
word that writes no register is given g0. -/
structure Ended (s u t : State) (base : Core) (m jumped : Bool) (pc : W64) (reads : List R6) (d : R6) (v : W64) : Prop where
  value : t.reg s.me d = if d = 0#6 then 0#64 else v
  plain : d ≠ 0#6 → kfind t.own.sb (s.own.keyOf d) = none
  others : SameWords s.own t.own (if d = 0#6 then [] else [s.own.keyOf d]) (reads.map s.own.keyOf)
  core : t.own = { base with
    rc := t.own.rc, rf := t.own.rf, sb := t.own.sb, pc := pc
    guard := if jumped then {} else s.own.guard.tick
    parkDue := base.parkDue || (m && !base.held.isEmpty), wait := .none }
  rest : t = u.setCore s.me t.own
  clean : t.own.cacheClean = true

/-- The next word is the one behind. -/
abbrev Wrote (s t : State) (base : Core) (m : Bool) (reads : List R6) (d : R6) (v : W64) : Prop :=
  Ended s (s.filled reads) t base m false (s.own.pc + 4#64) reads d v

/-- Core `l` of `u` with a word of its control thread ended: it goes on at the word after, or at `pc`, which ends a guard
window; a marker ends the run (R212, R215, R219). -/
def State.ends (u : State) (l : Nat) (m : Bool) : State :=
  u.setCore l { u.core l with
    pc := (u.core l).pc + 4#64, guard := (u.core l).guard.tick
    parkDue := (u.core l).parkDue || (m && !(u.core l).held.isEmpty), wait := .none }

def State.endsAt (u : State) (l : Nat) (m : Bool) (pc : W64) : State :=
  u.setCore l { u.core l with
    pc := pc, guard := {}, parkDue := (u.core l).parkDue || (m && !(u.core l).held.isEmpty), wait := .none }

/-- The same for the sequencer, whose stall bit is clear after a word (R291, R296). -/
def State.seqEndsAt (u : State) (l : Nat) (m : Bool) (pc : W64) : State :=
  let q := (u.core l).seq
  u.setCore l { u.core l with
    seq := { q with vpc := pc, vstat := setFld q.vstat 62 62 0, parkDue := q.parkDue || (m && !q.held.isEmpty) } }

def State.seqEnds (u : State) (l : Nat) (m : Bool) : State := u.seqEndsAt l m ((u.core l).seq.vpc + 4#64)

/-- `exec i` at `s` gives a next state in which `d` holds `v` and nothing else has changed but what `base` says. -/
def State.gives (s : State) (i : Instr) (base : Core) (m : Bool) (reads : List R6) (d : R6) (v : W64) : Prop :=
  nextWith (exec i s) fun t => Wrote s t base m reads d v

/-- `exec i` at `s` gives a next state that only continues at `pc`. -/
def State.goes (s : State) (i : Instr) (m jumped : Bool) (pc : W64) (reads : List R6) (d : R6) (v : W64) : Prop :=
  nextWith (exec i s) fun t => Ended s (s.filled reads) t s.own m jumped pc reads d v

end Sys2Proof.Machine
end

