-- ==== Sys2Proof/Certificates/Slice0/Obligations.lean ====
section
/-! DEFINITION. The statements for the provers: what the numbered rules of the spec say, over this model. -/

open Sys2Proof Sys2Proof.Machine

/-! ### The machine -/

/-- R211, R212, R229, R304: a turn of a stream runs the instruction that its next word decodes to, on the state that
latched the word, and a word that does not decode is the illegal-instruction fault of its stream; an event on the agenda
happens. A core on a tile whose clock is stopped issues nothing, so the turns are of the others (R423). After
that the next stream has its turn and device time passes. With an empty agenda and nothing due, the stream that moves is
the one the device's rotation names (log entries 3 and 4). -/
def Obligations.StepRunsTheWord : Prop :=
  let then_ (o : Host.Outcome State Fault Refusal) (f : State → State) : Host.Outcome State Fault Refusal :=
    match o with
    | .next t => .next (f t)
    | .fault r => .fault r
    | .refused r => .refused r
  let turned (t : State) : State := { t with mover := t.nextMover }.pass
  (∀ (s : State) (l : Nat) (rest : List Turn), s.agenda = .run { core := l, strm := .ctl } :: rest →
    let v : State := { s with agenda := rest, mover := { core := l, strm := .ctl } }
    (v.core l).run = true → v.inRom l = false → v.coreStopped l = false → v.deferredOf l = none → (v.core l).parkDue = false →
    (v.core l).holdDue = none → ∀ u w, v.fetchWord l (v.core l).pc = (u, .ok w) →
      (∀ i, decode w = .ok i → step s = then_ (exec i (u.latch { core := l, strm := .ctl } w)) turned) ∧
      ∀ e, decode w = .error e → step s = .next (turned
        ((u.latch { core := l, strm := .ctl } w).raise l { code := 0x02#8, word := w }
          ((u.latch { core := l, strm := .ctl } w).core l).pc))) ∧
  (∀ (s : State) (l : Nat) (rest : List Turn), s.agenda = .run { core := l, strm := .seq } :: rest →
    let v : State := { s with agenda := rest, mover := { core := l, strm := .seq } }
    let x := v.seqEnter l
    (x.core l).seq.parkDue = false → bit (x.core l).seq.vstat 63 = true → (x.core l).seq.startPend = false →
    x.coreStopped l = false → ∀ u w, x.fetchWord l (x.core l).seq.vpc = (u, .ok w) →
      (∀ i, decode w = .ok i →
        step s = then_ (exec i (u.latch { core := l, strm := .seq } w)) fun t => turned (t.seqLeave l (v.core l))) ∧
      ∀ e, decode w = .error e → step s = .next (turned
        (((u.latch { core := l, strm := .seq } w).seqTrap l { code := 0x02#8, word := w }).seqLeave l (v.core l)))) ∧
  (∀ (s : State) (i : Instr) (rest : List Turn), s.agenda = .event i :: rest → i.isWord = false →
    step s = then_ (exec i { s with agenda := rest }) State.pass) ∧
  ∀ s : State, s.agenda = [] → s.nextDue = none → step s = step { s with agenda := [.run s.moverNow] }

/-- Every state has a next one: no instruction, event or step of this model stops the machine. -/
def Obligations.EveryStepAnswers : Prop :=
  (∀ (i : Instr) (s : State), nextWith (exec i s) fun _ => True) ∧ ∀ s : State, nextWith (step s) fun _ => True

/-- R211 to R226: words written out from the spec's encodings decode to the instructions it gives them. -/
def Obligations.WordsDecode : Prop :=
  ∀ p ∈ ([
      (0x0020008C#32, Instr.lui false 0#2 0x0100#16 1#6), (0x6200808C#32, .lui false 3#2 0x1004#16 1#6),
      (0x00000282#32, .addi false 0#12 0#6 5#6), (0x00004310#32, .beq false 6#12 0#6 2#6),
      (0x80002326#32, .ldD true 0#12 1#6 6#6), (0x3630A281#32, .adds false 6#6 5#6 5#6),
      (0x7FF84102#32, .addi false 0xFFF#12 2#6 2#6), (0x7FFFFD98#32, .j false 0xFFFFFB#24),
      (0x0028602B#32, .stD false 0#12 5#6 3#6), (0x0000001B#32, .endF false), (0x0200001B#32, .yield false),
      (0x0039002E#32, .dead false 7#6 8#6), (0x0E38C2B0#32, .fmac false 0#1 7#6 6#6 5#6),
      (0x600104B0#32, .frint false 1#1 0#3 8#6 9#6), (0x0808C2B1#32, .fcvt false 0#3 4#3 1#3 6#6 5#6),
      (0x002C423A#32, .vadd false 5#6 34#6 4#6 2#2), (0x401021BC#32, .vfadd false 1#1 2#6 1#6 3#6 0#1),
      (0x1400E33E#32, .vcvt false 1#3 2#3 0#3 7#6 6#6), (0x0000007F#32, .nop false 0#12 0#6 0#6)] : List (W32 × Instr)),
    decode p.1 = .ok p.2

/-- R212 to R226 and R229: every well-formed instruction word, with every operand at every value, is what its encoding
decodes to. -/
def Obligations.EncodingRoundTrips : Prop :=
  ∀ i : Instr, i.wf = true → decode (encode i) = .ok i

/-- R229: a word decodes to at most what its bits say: decoding loses no bit, and gives only well-formed instructions. -/
def Obligations.DecodingIsSound : Prop :=
  ∀ (w : W32) (i : Instr), decode w = .ok i → encode i = w ∧ i.wf = true

/-- The memory keeps its canonical form in every step (the model's own form: addresses rising, no zero byte listed). -/
def Obligations.StepKeepsMemory : Prop :=
  ∀ s t : State, s.memOk = true → step s = .next t → t.memOk = true

/-- A read of memory gives what was written last, and a write leaves every other byte alone; writes and zeroising keep the
canonical form, in which equal memories are equal lists (R128; the form is the model's). -/
def Obligations.MemoryReadsBack : Prop :=
  ∀ (m : List Host.Cell) (a : Nat) (bs : List Byte), Memory.wf m = true →
    memReadN (memWriteN m a bs) a bs.length = bs ∧
    (∀ b, b < a ∨ a + bs.length ≤ b → memRead (memWriteN m a bs) b = memRead m b) ∧
    Memory.wf (memWriteN m a bs) = true ∧
    (∀ n b, memRead (memZero m a n) b = if a ≤ b ∧ b < a + n then 0#8 else memRead m b) ∧
    (∀ n, Memory.wf (memZero m a n) = true) ∧
    ∀ m', Memory.wf m' = true → (∀ b, memRead m b = memRead m' b) → m = m'

/-- R440, R5, R27, R101, R45, R132, R291 and R364: what the spec gives for reset. On-die storage is zero, no core runs,
the core table maps each core to itself, partition 0 and the Station may fill every way, and
cw.xctx, cw.wdog, the sequencer words and the counters are at their reset columns. The model's own choices stand beside it:
the canonical form of the memory (first clause), the registers of a core without a workspace (zero, log entry 2), the mode
of a core without a firing (log entry 3; the Station's is station mode), and what DRAM reads before its first write (zero,
log entry 5). -/
def Obligations.ResetValues : Prop :=
  let s := State.reset
  s.memOk = true ∧ s.time = 0#64 ∧ (∀ a, memRead s.mem a = 0#8) ∧ s.firm.boot = 0#3 ∧ s.firm.rdy = false ∧
  (∀ l, (s.core l).run = false ∧ (s.core l).out = 0 ∧ (s.core l).fflags = 0#5 ∧ (s.core l).cmask = 0#64 ∧
    (s.core l).seq.vstat = 0#64 ∧ (s.core l).seq.flags = 0#16 ∧ (s.core l).cause = 0#64 ∧
    (s.core l).wdog = 0x2710_03E8_0028#64 ∧ (s.core l).xctx = 0x3FF#64 ∧
    ((s.core l).mode = .station ↔ 0xF00 ≤ l) ∧ ∀ r : R6, s.reg l r = 0#64) ∧
  (∀ l < 0x840, s.retired l = false ∧ s.phys l = l) ∧
  (∀ k < 0x40, s.slotWays k = 0 ∧ s.cw (0xC00 + k) 0x200 = 0xFFFF#64 ∧
    ∀ p < 64, s.cw (0xC00 + k) (8 * p) = if p = 0 then 0xFFFF#64 else 0#64) ∧
  s.installed = 0 ∧ s.slot.holder = none

/-! ### Register words (chapter 11) -/

/-- R255: every register-register form of INT, with its encoding. Each writes its result to gD and changes nothing else.
ADDS and SUBS clamp to 64 signed bits and count integer saturation exactly when they clamp (R253); SELZ and SELNZ write
gA or write nothing; the results of the divisions are those of `DivisionsHold` (R256). -/
def Obligations.IntegerForms : Prop :=
  (∀ p ∈ ([
       (Instr.add, fun x y => x + y), (Instr.sub, fun x y => x - y), (Instr.and, fun x y => x &&& y),
       (Instr.or, fun x y => x ||| y), (Instr.xor, fun x y => x ^^^ y), (Instr.andn, fun x y => x &&& ~~~y),
       (Instr.sll, fun x y => x <<< (y.toNat % 64)), (Instr.srl, fun x y => x >>> (y.toNat % 64)),
       (Instr.sra, fun x y => x.sshiftRight (y.toNat % 64)), (Instr.ror, fun x y => x.rotateRight (y.toNat % 64)),
       (Instr.slt, fun x y => if x.toInt < y.toInt then 1#64 else 0#64),
       (Instr.sltn, fun x y => if x.toNat < y.toNat then 1#64 else 0#64),
       (Instr.seq, fun x y => if x = y then 1#64 else 0#64),
       (Instr.min, fun x y => if x.toInt ≤ y.toInt then x else y),
       (Instr.max, fun x y => if x.toInt ≤ y.toInt then y else x),
       (Instr.minn, fun x y => if x.toNat ≤ y.toNat then x else y),
       (Instr.maxn, fun x y => if x.toNat ≤ y.toNat then y else x), (Instr.mul, fun x y => x * y),
       (Instr.mulh, fun x y => ((x.signExtend 128 * y.signExtend 128) >>> 64).setWidth 64),
       (Instr.mulhn, fun x y => ((x.setWidth 128 * y.setWidth 128) >>> 64).setWidth 64)] :
       List ((Bool → R6 → R6 → R6 → Instr) × (W64 → W64 → W64))),
     ∀ (s : State) (m : Bool) (b a d : R6), s.ctlReady { names := [d, a, b], reads := [a, b] } = true →
       s.gives (p.1 m b a d) s.own m [a, b] d (p.2 (s.reg s.me a) (s.reg s.me b))) ∧
  (∀ p ∈ ([
       (Instr.clz, fun x => BitVec.ofNat 64 ((List.range 64).takeWhile fun i => !(x.getLsbD (63 - i))).length),
       (Instr.ctz, fun x => BitVec.ofNat 64 ((List.range 64).takeWhile fun i => !(x.getLsbD i)).length),
       (Instr.popc, fun x => BitVec.ofNat 64 ((List.range 64).filter fun i => x.getLsbD i).length),
       (Instr.bswap, fun x =>
         x.extractLsb' 0 8 ++ x.extractLsb' 8 8 ++ x.extractLsb' 16 8 ++ x.extractLsb' 24 8 ++ x.extractLsb' 32 8 ++
           x.extractLsb' 40 8 ++ x.extractLsb' 48 8 ++ x.extractLsb' 56 8)] :
       List ((Bool → R6 → R6 → Instr) × (W64 → W64))),
     ∀ (s : State) (m : Bool) (a d : R6), s.ctlReady { names := [d, a], reads := [a] } = true →
       s.gives (p.1 m a d) s.own m [a] d (p.2 (s.reg s.me a))) ∧
  (∀ p ∈ ([(Instr.adds, fun x y => x + y), (Instr.subs, fun x y => x - y)] :
       List ((Bool → R6 → R6 → R6 → Instr) × (Int → Int → Int))),
     ∀ (s : State) (m : Bool) (b a d : R6), s.ctlReady { names := [d, a, b], reads := [a, b] } = true →
       let x := p.2 (s.reg s.me a).toInt (s.reg s.me b).toInt
       (-2 ^ 63 ≤ x → x < 2 ^ 63 → s.gives (p.1 m b a d) s.own m [a, b] d (BitVec.ofInt 64 x)) ∧
       (2 ^ 63 ≤ x → s.gives (p.1 m b a d) (s.own.countEv 5 1) m [a, b] d 0x7FFFFFFFFFFFFFFF#64) ∧
       (x < -2 ^ 63 → s.gives (p.1 m b a d) (s.own.countEv 5 1) m [a, b] d 0x8000000000000000#64)) ∧
  (∀ (s : State) (m : Bool) (b a d : R6), s.ctlReady { names := [d, a, b], reads := [a, b] } = true →
     (s.reg s.me b = 0#64 →
       s.gives (.selz m b a d) s.own m [a, b] d (s.reg s.me a) ∧ s.gives (.selnz m b a d) s.own m [a, b] 0#6 0#64) ∧
     (s.reg s.me b ≠ 0#64 →
       s.gives (.selz m b a d) s.own m [a, b] 0#6 0#64 ∧ s.gives (.selnz m b a d) s.own m [a, b] d (s.reg s.me a))) ∧
  (∀ (m : Bool) (b a d : R6),
     (∀ p ∈ ([
       (Instr.add, 0x00#6), (Instr.sub, 0x01#6), (Instr.and, 0x02#6), (Instr.or, 0x03#6), (Instr.xor, 0x04#6),
       (Instr.andn, 0x05#6), (Instr.sll, 0x06#6), (Instr.srl, 0x07#6), (Instr.sra, 0x08#6), (Instr.ror, 0x09#6),
       (Instr.slt, 0x0A#6), (Instr.sltn, 0x0B#6), (Instr.seq, 0x0C#6), (Instr.min, 0x0D#6), (Instr.max, 0x0E#6),
       (Instr.minn, 0x0F#6), (Instr.maxn, 0x10#6), (Instr.mul, 0x11#6), (Instr.mulh, 0x12#6), (Instr.mulhn, 0x13#6),
       (Instr.div, 0x14#6), (Instr.divn, 0x15#6), (Instr.rem, 0x16#6), (Instr.remn, 0x17#6), (Instr.adds, 0x1B#6),
       (Instr.subs, 0x1C#6), (Instr.selz, 0x1D#6), (Instr.selnz, 0x1E#6)] :
         List ((Bool → R6 → R6 → R6 → Instr) × R6)), decode (wordOf m p.2 b a d 0x01#7) = .ok (p.1 m b a d)) ∧
     (∀ p ∈ ([(Instr.clz, 0x18#6), (Instr.ctz, 0x19#6), (Instr.popc, 0x1A#6), (Instr.bswap, 0x1F#6)] :
         List ((Bool → R6 → R6 → Instr) × R6)),
       decode (wordOf m p.2 0#6 a d 0x01#7) = .ok (p.1 m a d) ∧ (b ≠ 0#6 → isIllegal (wordOf m p.2 b a d 0x01#7))) ∧
     ∀ f : R6, 0x20 ≤ f.toNat → isIllegal (wordOf m f b a d 0x01#7))

/-- R256, R215 and R216: a division holds its result aside for gD, with the saturation event it will count, and writes no
register when it issues; the park that writes a held result counts its event. -/
def Obligations.DivisionsHold : Prop :=
  (∀ p ∈ ([
       (Instr.div, fun x y =>
         if y = 0#64 then (if 0 ≤ x.toInt then 0x7FFFFFFFFFFFFFFF#64 else 0x8000000000000000#64, true)
         else if x = 0x8000000000000000#64 ∧ y.toInt = -1 then (0x7FFFFFFFFFFFFFFF#64, true)
         else (BitVec.ofInt 64 (x.toInt.tdiv y.toInt), false)),
       (Instr.divn, fun x y => if y = 0#64 then (0xFFFFFFFFFFFFFFFF#64, true) else (x / y, false)),
       (Instr.rem, fun x y => if y = 0#64 then (x, false) else (BitVec.ofInt 64 (x.toInt.tmod y.toInt), false)),
       (Instr.remn, fun x y => if y = 0#64 then (x, false) else (x % y, false))] :
       List ((Bool → R6 → R6 → R6 → Instr) × (W64 → W64 → W64 × Bool))),
     ∀ (s : State) (m : Bool) (b a d : R6), s.ctlReady { long := true, names := [d, a, b], reads := [a, b] } = true →
       let r := p.2 (s.reg s.me a) (s.reg s.me b)
       s.gives (p.1 m b a d)
         { s.own with held := s.own.held ++
             [{ dest := .reg d, vals := [r.1], events := if r.2 then [5] else [], word := s.own.curWord }] }
         m [a, b] 0#6 0#64) ∧
  ∀ (s : State) (l : Nat) (d : R6) (v : W64) (ev : List Nat) (w : W32),
    let c := s.core l
    c.parkDue = true → c.holdDue = none → c.cacheClean = true →
    c.held = [{ dest := .reg d, vals := [v], events := ev, word := w }] →
      nextWith (exec (.park l false) s) fun t =>
        t.reg l d = (if d = 0#6 then 0#64 else v) ∧ (t.core l).held = [] ∧ (t.core l).pc = c.pc ∧
        (t.core l).ev = (ev.foldl (fun k e => k.countEv e 1) c).ev

/-- R257 and R258: the immediate forms. R260: LUI writes one lane, and lane 0 the whole register; ADPC adds 4,096 times
its immediate to its own address. With their encodings. -/
def Obligations.ImmediateAndConstantForms : Prop :=
  ((∀ p ∈ ([
       (Instr.addi, fun x i => x + i), (Instr.andi, fun x i => x &&& i), (Instr.ori, fun x i => x ||| i),
       (Instr.xori, fun x i => x ^^^ i), (Instr.slti, fun x i => if x.toInt < i.toInt then 1#64 else 0#64),
       (Instr.sltni, fun x i => if x.toNat < i.toNat then 1#64 else 0#64)] :
       List ((Bool → BitVec 12 → R6 → R6 → Instr) × (W64 → W64 → W64))),
     ∀ (s : State) (m : Bool) (i : BitVec 12) (a d : R6), s.ctlReady { names := [d, a], reads := [a] } = true →
       s.gives (p.1 m i a d) s.own m [a] d (p.2 (s.reg s.me a) (i.signExtend 64))) ∧
   ∀ p ∈ ([
       (Instr.slli, fun x n => x <<< n), (Instr.srli, fun x n => x >>> n), (Instr.srai, fun x n => x.sshiftRight n),
       (Instr.rori, fun x n => x.rotateRight n)] :
       List ((Bool → R6 → R6 → R6 → Instr) × (W64 → Nat → W64))),
     ∀ (s : State) (m : Bool) (n a d : R6), s.ctlReady { names := [d, a], reads := [a] } = true →
       s.gives (p.1 m n a d) s.own m [a] d (p.2 (s.reg s.me a) n.toNat)) ∧
  (∀ (s : State) (m : Bool) (v : BitVec 16) (d : R6),
     (s.ctlReady { names := [d] } = true →
       s.gives (.lui m 0#2 v d) s.own m [] d (v.setWidth 64) ∧
         ∀ i : BitVec 18, s.gives (.adpc m i d) s.own m [] d (s.own.pc + i.signExtend 64 * 4096#64)) ∧
     (s.ctlReady { names := [d], reads := [d] } = true →
       ∀ n : BitVec 2, n ≠ 0#2 →
         ∃ x : W64, s.gives (.lui m n v d) s.own m [d] d x ∧
           ∀ i < 64, x.getLsbD i =
             if 16 * n.toNat ≤ i ∧ i < 16 * n.toNat + 16 then v.getLsbD (i - 16 * n.toNat)
             else (s.reg s.me d).getLsbD i)) ∧
  (∀ (m : Bool) (f b a d : R6),
     (∀ p ∈ ([(Instr.addi, 0x02#7), (Instr.andi, 0x03#7), (Instr.ori, 0x04#7), (Instr.xori, 0x05#7), (Instr.slti, 0x06#7),
         (Instr.sltni, 0x07#7)] : List ((Bool → BitVec 12 → R6 → R6 → Instr) × BitVec 7)),
       decode (wordOf m f b a d p.2) = .ok (p.1 m (f ++ b) a d)) ∧
     (∀ p ∈ ([(Instr.slli, 0#6), (Instr.srli, 1#6), (Instr.srai, 2#6), (Instr.rori, 3#6)] :
         List ((Bool → R6 → R6 → R6 → Instr) × R6)), decode (wordOf m p.2 b a d 0x08#7) = .ok (p.1 m b a d)) ∧
     (4 ≤ f.toNat → isIllegal (wordOf m f b a d 0x08#7)) ∧
     (∀ (n : BitVec 2) (v : BitVec 4),
       decode (wordOf m (n ++ v) b a d 0x0C#7) = .ok (.lui m n (v ++ b ++ a) d)) ∧
     decode (wordOf m f b a d 0x0D#7) = .ok (.adpc m (f ++ b ++ a) d))

/-- R259 and R261: bit fields and runs of bits, with their encodings. What gD gets is said bit by bit where a field is
inserted or changed. -/
def Obligations.BitForms : Prop :=
  (∀ (s : State) (m : Bool) (a d : R6),
     (s.ctlReady { names := [d, a], reads := [a] } = true →
       ∀ p l : R6, p.toNat + l.toNat + 1 ≤ 64 →
         let f := ((s.reg s.me a) >>> p.toNat).setWidth (l.toNat + 1)
         s.gives (.bfx m p l a d) s.own m [a] d (f.setWidth 64) ∧
           s.gives (.bfxs m p l a d) s.own m [a] d (f.signExtend 64)) ∧
     (s.ctlReady { names := [d, a], reads := [d, a] } = true →
       ∀ p l : R6, p.toNat + l.toNat + 1 ≤ 64 →
         ∃ v : W64, s.gives (.bfi m p l a d) s.own m [d, a] d v ∧
           ∀ i < 64, v.getLsbD i =
             if p.toNat ≤ i ∧ i ≤ p.toNat + l.toNat then (s.reg s.me a).getLsbD (i - p.toNat)
             else (s.reg s.me d).getLsbD i) ∧
     (s.ctlReady { names := [d, a], reads := [a] } = true →
       ∀ (n : R6) (k : BitVec 3), n.toNat + k.toNat ≤ 63 →
         let inF (i : Nat) : Bool := decide (n.toNat ≤ i ∧ i ≤ n.toNat + k.toNat)
         let x := s.reg s.me a
         s.gives (.btst m n k a d) s.own m [a] d
             (if (List.range 64).any fun i => inF i && x.getLsbD i then 1#64 else 0#64) ∧
           (∃ v : W64, s.gives (.bset m n k a d) s.own m [a] d v ∧ ∀ i < 64, v.getLsbD i = (x.getLsbD i || inF i)) ∧
           (∃ v : W64, s.gives (.bclr m n k a d) s.own m [a] d v ∧ ∀ i < 64, v.getLsbD i = (x.getLsbD i && !inF i)) ∧
           ∃ v : W64, s.gives (.binv m n k a d) s.own m [a] d v ∧ ∀ i < 64, v.getLsbD i = (x.getLsbD i ^^ inF i))) ∧
  ∀ (m : Bool) (p l a d : R6),
    (∀ q ∈ ([(Instr.bfx, 0x09#7), (Instr.bfxs, 0x0A#7), (Instr.bfi, 0x0B#7)] :
        List ((Bool → R6 → R6 → R6 → R6 → Instr) × BitVec 7)),
      (p.toNat + l.toNat + 1 ≤ 64 → decode (wordOf m p l a d q.2) = .ok (q.1 m p l a d)) ∧
      (64 < p.toNat + l.toNat + 1 → isIllegal (wordOf m p l a d q.2))) ∧
    ∀ q ∈ ([(Instr.btst, 2#3), (Instr.bset, 3#3), (Instr.bclr, 4#3), (Instr.binv, 5#3)] :
        List ((Bool → R6 → BitVec 3 → R6 → R6 → Instr) × BitVec 3)),
      ∀ k : BitVec 3,
        (p.toNat + k.toNat ≤ 63 → decode (wordOf m p (k ++ q.2) a d 0x0E#7) = .ok (q.1 m p k a d)) ∧
        (63 < p.toNat + k.toNat → isIllegal (wordOf m p (k ++ q.2) a d 0x0E#7))

/-! ### Guards and control flow (chapters 09 and 11) -/

/-- R219 and R220: GRD and GRDN open a window of k words on one bit of gA, and write no register; inside a window either
is the illegal-instruction fault. -/
def Obligations.GuardsOpenWindows : Prop :=
  ∀ (s : State) (m : Bool) (n : R6) (k : BitVec 3) (a : R6),
    (s.ctlReady { names := [a], reads := [a] } = true → s.own.guard.rem = 0 →
      ∀ p ∈ [(Instr.grd, true), (Instr.grdn, false)],
        nextWith (exec (p.1 m n k a) s) fun t =>
          t = (s.took [a]).setCore s.me { (s.took [a]).own with
            pc := s.own.pc + 4#64, wait := .none, parkDue := s.own.parkDue || (m && !s.own.held.isEmpty)
            guard := { rem := k.toNat + 1, sense := p.2, pred := (s.reg s.me a).getLsbD n.toNat } }) ∧
    (s.mover.strm = .ctl → 0 < s.own.guard.rem →
      ∀ i ∈ [Instr.grd m n k a, .grdn m n k a],
        exec i s = .next (s.raise s.me { code := 0x02#8, word := s.own.curWord } s.own.pc))

/-- R262 and R263: a branch goes to PC + 4 × off where its condition holds, else to the word after; it changes no
register, and a taken one ends a guard window. R264: J, JL and JLR, with their links; JLR jumps through the old
value of gA. With their encodings. -/
def Obligations.BranchesAndJumps : Prop :=
  ((∀ p ∈ ([
       (Instr.beq, fun x y => decide (x = y)), (Instr.bne, fun x y => decide (x ≠ y)),
       (Instr.blt, fun x y => decide (x.toInt < y.toInt)), (Instr.bge, fun x y => decide (y.toInt ≤ x.toInt)),
       (Instr.bltn, fun x y => decide (x.toNat < y.toNat)), (Instr.bgen, fun x y => decide (y.toNat ≤ x.toNat))] :
       List ((Bool → BitVec 12 → R6 → R6 → Instr) × (W64 → W64 → Bool))),
     ∀ (s : State) (m : Bool) (o : BitVec 12) (b a : R6), s.ctlReady { names := [a, b], reads := [a, b] } = true →
       let taken := p.2 (s.reg s.me a) (s.reg s.me b)
       s.goes (p.1 m o b a) m taken (if taken then s.own.pc + 4#64 * o.signExtend 64 else s.own.pc + 4#64) [a, b] 0#6 0#64) ∧
   ∀ p ∈ [(Instr.bbs, true), (Instr.bbc, false)],
     ∀ (s : State) (m : Bool) (o : BitVec 12) (n a : R6), s.ctlReady { names := [a], reads := [a] } = true →
       let taken := (s.reg s.me a).getLsbD n.toNat == p.2
       s.goes (p.1 m o n a) m taken (if taken then s.own.pc + 4#64 * o.signExtend 64 else s.own.pc + 4#64) [a] 0#6 0#64) ∧
  (∀ (s : State) (m : Bool),
     (s.ctlReady {} = true → ∀ o : BitVec 24,
       s.goes (.j m o) m true (s.own.pc + 4#64 * o.signExtend 64) [] 0#6 0#64) ∧
     (s.ctlReady { names := [7#6] } = true → ∀ o : BitVec 24,
       s.goes (.jl m o) m true (s.own.pc + 4#64 * o.signExtend 64) [] 7#6 (s.own.pc + 4#64)) ∧
     ∀ (i : BitVec 12) (a d : R6), s.ctlReady { names := [a, d], reads := [a] } = true →
       s.goes (.jlr m i a d) m true (s.reg s.me a + i.signExtend 64) [a] d (s.own.pc + 4#64)) ∧
  (∀ (m : Bool) (f b a d : R6),
     (∀ p ∈ ([(Instr.beq, 0x10#7), (Instr.bne, 0x11#7), (Instr.blt, 0x12#7), (Instr.bge, 0x13#7), (Instr.bltn, 0x14#7),
         (Instr.bgen, 0x15#7), (Instr.bbs, 0x16#7), (Instr.bbc, 0x17#7)] :
         List ((Bool → BitVec 12 → R6 → R6 → Instr) × BitVec 7)),
       decode (wordOf m f b a d p.2) = .ok (p.1 m (f ++ d) b a)) ∧
     decode (wordOf m f b a d 0x18#7) = .ok (.j m (f ++ b ++ a ++ d)) ∧
     decode (wordOf m f b a d 0x19#7) = .ok (.jl m (f ++ b ++ a ++ d)) ∧
     decode (wordOf m f b a d 0x1A#7) = .ok (.jlr m (f ++ b) a d))

/-! ### Loads, stores and hints (chapters 05 and 11) -/

/-- R267, R216 and R215: a load that passes CheckAccess is issued and its result is held for gD, extended as its form
says; an LDA is an acquire at its scope. R267, R132 and R140: a store that passes CheckAccess is issued with the low
bytes of gB, while Out is below 4,096; an STL is a release at its scope, and issues where an entry for it is free. -/
def Obligations.LoadsAndStoresIssue : Prop :=
  ((∀ p ∈ ([(Instr.ldB, 1, Ext.zero 8), (Instr.ldBS, 1, Ext.sign 8), (Instr.ldH, 2, Ext.zero 16),
       (Instr.ldHS, 2, Ext.sign 16), (Instr.ldW, 4, Ext.zero 32), (Instr.ldWS, 4, Ext.sign 32),
       (Instr.ldD, 8, Ext.raw)] : List ((Bool → BitVec 12 → R6 → R6 → Instr) × Nat × Ext)),
     ∀ (s u : State) (m : Bool) (i : BitVec 12) (a d : R6) (g : Target),
       s.ctlReady { long := true, names := [a, d], reads := [a] } = true →
       let va := s.reg s.me a + i.signExtend 64
       (s.took [a]).check s.me { acc := .read, n := p.2.1, align := p.2.1 } va = (u, .ok g) →
       let w := (u.issueAcc s.me (mkAcc .ctl .load va g p.2.1 (u.core s.me).mode)).holdResult s.me
         { dest := .reg d, waits := [(u.core s.me).accNext], ext := p.2.2 }
       exec (p.1 m i a d) s = .next (w.ends s.me m)) ∧
   ∀ (s u : State) (m : Bool) (z : BitVec 2) (sg : BitVec 1) (c : BitVec 3) (a d : R6) (g : Target),
     s.ctlReady { long := true, names := [a, d], reads := [a] } = true →
     let n := 2 ^ z.toNat
     (s.took [a]).check s.me { acc := .read, n := n, align := n } (s.reg s.me a) = (u, .ok g) →
     let w := (u.issueAcc s.me { mkAcc .ctl .load (s.reg s.me a) g n (u.core s.me).mode with acq := some c }).holdResult s.me
       { dest := .reg d, waits := [(u.core s.me).accNext], ext := if sg = 1#1 then .sign (8 * n) else .zero (8 * n) }
     exec (.lda m z sg c a d) s = .next (w.ends s.me m)) ∧
  ((∀ p ∈ ([(Instr.stB, 1), (Instr.stH, 2), (Instr.stW, 4), (Instr.stD, 8)] :
       List ((Bool → BitVec 12 → R6 → R6 → Instr) × Nat)),
     ∀ (s u : State) (m : Bool) (i : BitVec 12) (b a : R6) (g : Target),
       s.ctlReady { names := [a, b], reads := [a, b] } = true →
       let va := s.reg s.me a + i.signExtend 64
       (s.took [a, b]).check s.me { acc := .write, n := p.2, align := p.2 } va = (u, .ok g) →
       (u.core s.me).out < 4096 →
       let w := u.issueAcc s.me { mkAcc .ctl .store va g p.2 (u.core s.me).mode with
         data := BitVec.ofNat 64 ((s.reg s.me b).toNat % 2 ^ (8 * p.2)) }
       exec (p.1 m i b a) s = .next (w.ends s.me m)) ∧
   ∀ (s u : State) (m : Bool) (z : BitVec 2) (c : BitVec 3) (b a : R6) (g : Target),
     s.ctlReady { names := [a, b], reads := [a, b] } = true →
     let n := 2 ^ z.toNat
     (s.took [a, b]).check s.me { acc := .write, n := n, align := n } (s.reg s.me a) = (u, .ok g) →
     (u.core s.me).out < 4096 → u.relBlocked s.me g.home g.key = false →
     let w := u.issueAcc s.me { mkAcc .ctl .store (s.reg s.me a) g n (u.core s.me).mode with
       data := BitVec.ofNat 64 ((s.reg s.me b).toNat % 2 ^ (8 * n)), rel := some c }
     exec (.stl m z c b a) s = .next (w.ends s.me m))

/-- R269 and R43: the checks of an access in their order. Each clause has the fault of one order where the earlier
orders pass; an instruction that takes fewer classes has the access fault for the others before its translation; a check
outside class 0x0 changes nothing. R218, R229 and R269: a load, an LDA, a store or an STL whose
check fails raises that fault at the word itself, and issues nothing. -/
def Obligations.ChecksInOrder : Prop :=
  (∀ (s : State) (l : Nat) (w : Want) (a : W64), w.party = .thread → w.locks = true →
     let c := s.core l
     let cls := a.toNat / 2 ^ 60
     let fault (code : BitVec 8) : State × Except Flt Target := (s, .error { code := code, faddr := some a })
     (9 ≤ cls ∨ s.wellFormed a w.n = false → s.check l w a = fault 0x07#8) ∧
     (cls < 9 → s.wellFormed a w.n = true →
       (cls = 7 → c.mode = .firing ∨ c.mode = .partition → s.check l w a = fault 0x03#8) ∧
       ((cls = 7 → c.mode = .hypervisor ∨ c.mode = .station) →
         (s.mayUse l c.part .thread a w.acc.writes = false → s.check l w a = fault 0x08#8) ∧
         (s.mayUse l c.part .thread a w.acc.writes = true →
           (cls = 1 ∧ s.deadTile (tileOf (a.toNat / 2 ^ 48 % 2 ^ 12)) = true ∨ s.holds c.part c.mode a w.n = false →
             s.check l w a = fault 0x08#8) ∧
           (¬(cls = 1 ∧ s.deadTile (tileOf (a.toNat / 2 ^ 48 % 2 ^ 12)) = true) → s.holds c.part c.mode a w.n = true →
             (a.toNat % w.align ≠ 0 → s.check l w a = fault 0x06#8) ∧
             (a.toNat % w.align = 0 →
               (c.rangeHit a w.n w.acc.writes = true → s.check l w a = fault 0x09#8) ∧
               (c.rangeHit a w.n w.acc.writes = false → w.only cls = false → s.check l w a = fault 0x08#8) ∧
               (c.rangeHit a w.n w.acc.writes = false → w.only cls = true → cls = 0 → ∀ u,
                 (∀ r, s.translate l c.part c.ctx c.mode w.acc (a.toNat % 2 ^ 48) = (u, .ok r) → s.check l w a =
                   (u, .ok { home := .mem, key := r.pa, na := r.na, tlb := some (r.ent.va, r.ent.size) })) ∧
                 ∀ f, s.translate l c.part c.ctx c.mode w.acc (a.toNat % 2 ^ 48) = (u, .error f) →
                   s.check l w a = (u, .error { code := 0x0A#8, faddr := some a, xinfo := some (f.word w.acc c.ctx) })) ∧
               (c.rangeHit a w.n w.acc.writes = false → w.only cls = true → cls ≠ 0 →
                 let admitted := (s.obj (a.toNat / 2 ^ 32 % 2 ^ 10)).admits (.core l) (a.toNat / 2 ^ 16 % 2 ^ 4) w.acc.writes
                 (cls = 5 ∧ admitted = false → s.check l w a = fault 0x10#8) ∧
                 (¬(cls = 5 ∧ admitted = false) →
                   s.check l w a = if s.classCond w.acc a w.n then
                     (s, .ok { home := (s.homeOf a).1, key := (s.homeOf a).2 }) else fault 0x08#8)))))))) ∧
  (∀ (s u : State) (m : Bool) (i : BitVec 12) (r a : R6) (f : Flt),
     let va := s.reg s.me a + i.signExtend 64
     let raised := u.raise s.me { f with word := (u.core s.me).curWord } (u.core s.me).pc
     (s.ctlReady { long := true, names := [a, r], reads := [a] } = true →
       ∀ p ∈ ([(Instr.ldB, 1), (Instr.ldBS, 1), (Instr.ldH, 2), (Instr.ldHS, 2), (Instr.ldW, 4), (Instr.ldWS, 4),
           (Instr.ldD, 8)] : List ((Bool → BitVec 12 → R6 → R6 → Instr) × Nat)),
         (s.took [a]).check s.me { acc := .read, n := p.2, align := p.2 } va = (u, .error f) →
         exec (p.1 m i a r) s = .next raised) ∧
     (s.ctlReady { long := true, names := [a, r], reads := [a] } = true →
       ∀ (z : BitVec 2) (sg : BitVec 1) (sc : BitVec 3), let n := 2 ^ z.toNat
         (s.took [a]).check s.me { acc := .read, n := n, align := n } (s.reg s.me a) = (u, .error f) →
         exec (.lda m z sg sc a r) s = .next raised) ∧
     (s.ctlReady { names := [a, r], reads := [a, r] } = true →
       ∀ (z : BitVec 2) (sc : BitVec 3), let n := 2 ^ z.toNat
         (s.took [a, r]).check s.me { acc := .write, n := n, align := n } (s.reg s.me a) = (u, .error f) →
         exec (.stl m z sc r a) s = .next raised) ∧
     (s.ctlReady { names := [a, r], reads := [a, r] } = true →
       ∀ p ∈ ([(Instr.stB, 1), (Instr.stH, 2), (Instr.stW, 4), (Instr.stD, 8)] :
           List ((Bool → BitVec 12 → R6 → R6 → Instr) × Nat)),
         (s.took [a, r]).check s.me { acc := .write, n := p.2, align := p.2 } va = (u, .error f) →
         exec (p.1 m i r a) s = .next raised))

/-- R55 and R52: a check outside class 0x0 changes nothing. One in class 0x0 changes only the fields named here, which its
walk may reach: translation caches, the shared cache and the memory behind it (walks fill lines, mark descriptors and count, a
way may be retired, R111), and the accesses, with what they return, that wait for a fill that a walk waits for (R99); how it
changes those is not said here. The registers, modes and other words of every core, the control words outside the slice
counters, and the local memories, typed buffers, mailbox memory and locked SRAM, whose keys lie above every physical address, read as before,
but where a state that no run reaches has a line, a walk-cache entry or a waiting access of memory with such a key. -/
def Obligations.ChecksKeepTheMachine : Prop :=
  ∀ (s : State) (l : Nat) (w : Want) (a : W64),
    let u := (s.check l w a).1
    (a.toNat / 2 ^ 60 ≠ 0 → u = s) ∧
    u = { s with
      mem := u.mem, ctl := u.ctl, sets := u.sets, walkc := u.walkc, cores := u.cores, clusters := u.clusters
      lost := u.lost, wayCorr := u.wayCorr, retiredWays := u.retiredWays, why := u.why, pktNext := u.pktNext
      streamed := u.streamed } ∧
    (∀ k, u.core k = { s.core k with tlb1 := (u.core k).tlb1, acc := (u.core k).acc, ret := (u.core k).ret }) ∧
    (∀ n, u.clu n = { s.clu n with tlb2 := (u.clu n).tlb2, tlbLp := (u.clu n).tlbLp }) ∧
    (∀ t off, ¬((0xC00 ≤ t ∧ t < 0xC40 ∧ 0x010000 ≤ off ∧ off < 0x010800) ∨ (0xD00 ≤ t ∧ t ≤ 0xD20 ∧ off = 0)) →
      off < 2 ^ 24 → u.cw t off = s.cw t off) ∧
    ∀ k, 2 ^ 48 ≤ k → (∀ x ∈ s.sets, ∀ y ∈ x.2, y.line ≠ k / 64) →
      (∀ e ∈ s.walkc, e.s2 = false → k / 64 < e.table / 64 ∨ e.table + 2 ^ 17 ≤ k) →
      (∀ c ∈ s.cores, ∀ x ∈ c.2.acc, x.home = .mem → k / 64 < x.key / 64 ∨ (x.key + x.len + 16) / 64 < k / 64) →
      memRead u.mem k = memRead s.mem k

/-- R131, R132 and R138: issuing an access gives it the next number, puts it behind the earlier ones, counts it in Out when
its kind is acknowledged, and, for a release, fixes the accesses it waits for, of which a FENCE is none. -/
def Obligations.IssuedAccessesQueue : Prop :=
  ∀ (s : State) (l : Nat) (a : Acc),
    let c := s.core l
    let t := s.issueAcc l a
    let x : Acc := { a with
      n := c.accNext, part := c.part, ctx := c.ctx, owner := c.owner l
      word := if a.party = .ctl then c.curWord else c.seq.curWord
      waits := match a.rel with
        | some sc => (c.acc.filter fun e => e.party == a.party && insideScope l sc e.home && !e.kind.isFence).map (·.n)
        | none => a.waits
      st := if a.rel.isSome && a.home == .mem then .marker else .issued }
    t = s.setCore l { c with acc := c.acc ++ [x], accNext := c.accNext + 1 } ∧
      (t.core l).out = c.out + if a.kind.counts then 1 else 0

/-- R228, R271 and R181: NOP does nothing in either stream; PREF.R and PREF.W do at most what a prefetch of their address
does to the shared cache (a fill that it must wait for serves the accesses that wait for it), and nothing outside class
0x0; DEAD takes cached words of plain registers away and nothing
else. -/
def Obligations.HintsAndDead : Prop :=
  ∀ (s : State) (m : Bool) (i : BitVec 12) (a : R6),
    (s.mover.strm = .ctl → s.own.guard.rem = 0 ∨ s.own.guard.pred = s.own.guard.sense →
      (∀ h : BitVec 6, exec (.nop m i a h) s = .next (s.ends s.me m)) ∧
      ∀ p ∈ [(Instr.prefR, false), (Instr.prefW, true)],
        let va := s.reg s.me a + i.signExtend 64
        let u := s.prefetch s.me va p.2
        exec (p.1 m i a) s = .next (u.ends s.me m) ∧
          u = { s with
            mem := u.mem, ctl := u.ctl, sets := u.sets, cores := u.cores, lost := u.lost, pktNext := u.pktNext
            streamed := u.streamed, wayCorr := u.wayCorr, retiredWays := u.retiredWays, why := u.why } ∧
          (∀ k, u.core k = { s.core k with acc := (u.core k).acc, ret := (u.core k).ret }) ∧ (va.toNat / 2 ^ 60 ≠ 0 → u = s)) ∧
    (s.mover.strm = .seq → ∀ h : BitVec 6,
      exec (.nop m i a h) s = .next (s.seqEnds s.me m) ∧ exec (.prefR m i a) s = .next (s.seqEnds s.me m) ∧
        exec (.prefW m i a) s = .next (s.seqEnds s.me m)) ∧
    ∀ n : R6, s.ctlReady { names := [a + n] } = true → a.toNat + n.toNat ≤ 63 →
      ∃ l : List RcEnt, exec (.dead m n a) s = .next (((s.took []).updCore s.me fun c => { c with rc := l }).ends s.me m) ∧
        ∀ e, e ∈ l ↔ e ∈ s.own.rc ∧ ¬(∃ r : R6, r ≠ 0#6 ∧ a.toNat ≤ r.toNat ∧ r.toNat ≤ a.toNat + n.toNat ∧
          e.key = s.own.keyOf r ∧ kfind s.own.sb (s.own.keyOf r) = none)

/-! ### The end of a firing -/

/-- R189, R193 and R266: END and YIELD, once the sequencer is done. An inline child goes on at the word after its SPAWN and
is illegal at YIELD; a firing leaves the core, and its actor's workspace is idle or, single-shot at END, gone. An END whose
read of its input ports meets a data error takes that fault at its word instead (R72, log entry 130). On a core without a
workspace the word only stops the core (log entry 57). -/
def Obligations.FiringsEnd : Prop :=
  ∀ (s : State) (m : Bool), s.ctlReady { park := true } = true → s.own.seqDone = true →
    (∀ r rest, s.own.inl = r :: rest →
      exec (.endF m) s = .next (((s.took []).updCore s.me fun c => { c with inl := rest }).endsAt s.me m r) ∧
      exec (.yield m) s = .next ((s.took []).raise s.me { code := 0x02#8, word := s.own.curWord } s.own.pc)) ∧
    (s.own.inl = [] → ∀ u f, (s.took []).portFault s.me = (u, f) →
      (∀ g, f = some g → exec (.endF m) s =
        .next (u.raise s.me { g with word := (u.core s.me).curWord } (u.core s.me).pc)) ∧
      (f = none → nextWith (exec (.endF m) s) fun t => t.own.run = false ∧ t.own.held = [] ∧ t.own.wait = .none) ∧
      (nextWith (exec (.yield m) s) fun t => t.own.run = false ∧ t.own.held = [] ∧ t.own.wait = .none) ∧
      ∀ w, s.own.curWk = some w →
        (f = none → exec (.endF m) s = .next (u.endFiring s.me)) ∧ exec (.yield m) s = .next ((s.took []).yieldFiring s.me) ∧
        (w.nin = 0 → ∀ x ∈ (u.endFiring s.me).own.dir, x.ent ≠ w.ent) ∧
        (0 < w.nin → ∀ x ∈ (u.endFiring s.me).own.dir, x.ent = w.ent → x.st = .idle ∨ x.st = .queued) ∧
        ∀ x ∈ ((s.took []).yieldFiring s.me).own.dir, x.ent = w.ent → x.st = .idle ∨ x.st = .queued)

/-! ### Scalar floating point (chapter 12) -/

/-- R272, R273, R276, R277 and R287: every word of FOP and FCVT that is not long-latency writes the code of its result
to gD and records its conditions at issue. The result functions are the model's number layer (R237 to R252);
`FloatRules` says more of them. R273, R277 and R216: FDIV and FSQRT hold their result, flags
and events to the park, and set nothing when they issue. -/
def Obligations.ScalarFloatForms : Prop :=
  (let gd (s : State) (i : Instr) (m : Bool) (reads : List R6) (d : R6) (r : FRes) : Prop :=
     s.gives i (s.own.recordFlags r.flags r.sat) m reads d (BitVec.ofNat 64 r.code)
   let op (p : BitVec 1) (x : W64) : Nat := if p = 0#1 then x.toNat else x.toNat % 2 ^ 32
   let fm (p : BitVec 1) : Fmt := if p = 0#1 then F64 else F32
   (∀ q ∈ ([
       (Instr.fadd, fAdd), (Instr.fsub, fSub), (Instr.fmul, fMul), (Instr.fmin, fun f => fMinMax f false),
       (Instr.fmax, fun f => fMinMax f true), (Instr.fcps, fun f x y => plainRes (fCps f x y)),
       (Instr.feq, fun f x y => cmpRes (fCmp f 0 x y)), (Instr.flt, fun f x y => cmpRes (fCmp f 1 x y)),
       (Instr.fle, fun f x y => cmpRes (fCmp f 2 x y)), (Instr.fscale, fScale)] :
       List ((Bool → BitVec 1 → R6 → R6 → R6 → Instr) × (Fmt → Nat → Nat → FRes))),
     ∀ (s : State) (m : Bool) (p : BitVec 1) (b a d : R6), s.ctlReady { names := [d, a, b], reads := [a, b] } = true →
       gd s (q.1 m p b a d) m [a, b] d (q.2 (fm p) (op p (s.reg s.me a)) (op p (s.reg s.me b)))) ∧
   (∀ q ∈ ([(Instr.fmac, false), (Instr.fmsc, true)] : List ((Bool → BitVec 1 → R6 → R6 → R6 → Instr) × Bool)),
     ∀ (s : State) (m : Bool) (p : BitVec 1) (b a d : R6), s.ctlReady { names := [d, a, b], reads := [d, a, b] } = true →
       gd s (q.1 m p b a d) m [d, a, b] d
         (fMac (fm p) q.2 (op p (s.reg s.me d)) (op p (s.reg s.me a)) (op p (s.reg s.me b)))) ∧
   (∀ q ∈ ([
       (Instr.fneg, fun f x => plainRes (fNeg f x)), (Instr.fabs, fun f x => plainRes (fAbs f x)),
       (Instr.fclass, fun f x => plainRes (fClass f x)), (Instr.fexp2f, fExp2)] :
       List ((Bool → BitVec 1 → R6 → R6 → Instr) × (Fmt → Nat → FRes))),
     ∀ (s : State) (m : Bool) (p : BitVec 1) (a d : R6), s.ctlReady { names := [d, a], reads := [a] } = true →
       gd s (q.1 m p a d) m [a] d (q.2 (fm p) (op p (s.reg s.me a)))) ∧
   ∀ (s : State) (m : Bool) (r : BitVec 3) (a d : R6), s.ctlReady { names := [d, a], reads := [a] } = true →
     (∀ p : BitVec 1, gd s (.frint m p r a d) m [a] d (fRint (fm p) (rmode r) (op p (s.reg s.me a)))) ∧
     ∀ sc t : BitVec 3, gd s (.fcvt m sc t r a d) m [a] d (cvtDst t (rmode r) (cvtSrc sc (s.reg s.me a)))) ∧
  (let op (p : BitVec 1) (x : W64) : Nat := if p = 0#1 then x.toNat else x.toNat % 2 ^ 32
   let fm (p : BitVec 1) : Fmt := if p = 0#1 then F64 else F32
   let holds (s : State) (i : Instr) (m : Bool) (reads : List R6) (d : R6) (r : FRes) : Prop :=
     s.gives i { s.own with held := s.own.held ++
       [{ dest := .reg d, vals := [BitVec.ofNat 64 r.code], fflags := r.flags, events := flagEvents r.flags,
          word := s.own.curWord }] } m reads 0#6 0#64
   ∀ (s : State) (m : Bool) (p : BitVec 1) (b a d : R6),
     (s.ctlReady { long := true, names := [d, a, b], reads := [a, b] } = true →
       holds s (.fdiv m p b a d) m [a, b] d (fDiv (fm p) (op p (s.reg s.me a)) (op p (s.reg s.me b)))) ∧
     (s.ctlReady { long := true, names := [d, a], reads := [a] } = true →
       holds s (.fsqrt m p a d) m [a] d (fSqrt (fm p) (op p (s.reg s.me a)))))

/-- The values of the number layer. A magnitude is counted in units of the least subnormal, 2^(1−b−M) (R242), so every
finite code has a whole number of units. R251: the rounding of X / D units keeps M + 1 bits at and above the least normal
number and whole units below it; past the largest finite code it overflows; tininess is judged before rounding; an
exact result sets nothing. R252: NaN, ∞ and finite values into a float and into an integer range. R274, R275, R278 and
R279 on codes of F64 and F32, rounded once to nearest-even: sums, products, fused forms, quotients and roots, the signs of exact
zeros, ∞ among the operands, and the invalid cases, with 0 × ∞ invalid even beside a NaN in gD; a finite non-zero value
over ±0 is ∞ with DZ. R280, R281, R282, R283, R284 and R286: FMIN and FMAX, sign forms, comparisons, FCLASS, FRINT and FSCALE. -/
def Obligations.FloatRules : Prop :=
  let units (f : Fmt) (c : Nat) : Nat :=
    let mag := c % 2 ^ (f.width - 1)
    if mag / 2 ^ f.m = 0 then mag % 2 ^ f.m else (2 ^ f.m + mag % 2 ^ f.m) * 2 ^ (mag / 2 ^ f.m - 1)
  let sgnBit (f : Fmt) (n : Bool) : Nat := if n then 2 ^ (f.width - 1) else 0
  let nearest (md : RMode) (neg : Bool) (N d q : Nat) : Prop :=
    match md with
    | .rne => 2 * ((q * d : Nat) - (N : Int)).natAbs ≤ d ∧ (2 * ((q * d : Nat) - (N : Int)).natAbs = d → q % 2 = 0)
    | .rtz => q * d ≤ N ∧ N < (q + 1) * d
    | .rdn => if neg then N ≤ q * d ∧ q * d < N + d else q * d ≤ N ∧ N < (q + 1) * d
    | .rup => if neg then q * d ≤ N ∧ N < (q + 1) * d else N ≤ q * d ∧ q * d < N + d
  let rounded (f : Fmt) (md : RMode) (neg : Bool) (X D : Nat) (r : FRes) : Prop :=
    ∃ k q : Nat, X < D * 2 ^ (f.m + 1 + k) ∧ (k = 0 ∨ D * 2 ^ (f.m + k) ≤ X) ∧ nearest md neg X (D * 2 ^ k) q ∧
      if units f f.maxCode < q * 2 ^ k then
        r = { code := sgnBit f neg +
                (if md = .rne ∨ (md = .rup ∧ neg = false) ∨ (md = .rdn ∧ neg = true) then f.infCode.getD f.maxCode
                 else f.maxCode),
              flags := fOF ||| fNX }
      else r.code < 2 ^ f.width ∧ r.code.testBit (f.width - 1) = neg ∧ units f r.code = q * 2 ^ k ∧ r.sat = false ∧
        r.flags = if q * 2 ^ k * D = X then 0#5 else if X < D * 2 ^ f.m then fUF ||| fNX else fNX
  -- R241, R242 and R244: the formats, and the value of a code
  ((∀ q ∈ [(F64, 64, 52, 1023), (F32, 32, 23, 127), (F16, 16, 10, 15), (B16, 16, 7, 127), (E5M2, 8, 2, 15)],
      let top := (2 ^ (q.2.1 - 1 - q.2.2.1) - 1) * 2 ^ q.2.2.1
      q.1 = ⟨q.2.1, q.2.2.1, q.2.2.2, top - 1, some top, some (top + 2 ^ (q.2.2.1 - 1))⟩) ∧
   (∀ f ∈ [F64, F32, F16, B16, E5M2, E4M3, E3M4, E3M2, E2M3, E2M1], ∀ c < 2 ^ f.width,
      let mag := c % 2 ^ (f.width - 1)
      if f.infCode = some mag then decodeF f c = .inf (c.testBit (f.width - 1))
      else if f.maxCode < mag then decodeF f c = .nan
      else ∃ (num : Nat) (exp : Int), decodeF f c = .fin (c.testBit (f.width - 1)) num exp ∧
        0 ≤ exp + f.bias + f.m - 1 ∧ num * 2 ^ (exp + f.bias + f.m - 1).toNat = units f c) ∧
   -- R251: every rounding, in every format and mode
   (∀ f ∈ [F64, F32, F16, B16, E5M2, E4M3, E3M4, E3M2, E2M3, E2M1], ∀ (md : RMode) (neg : Bool) (num : Nat) (exp : Int),
      let t := exp + f.bias + f.m - 1
      (num = 0 → roundTo f md neg num exp = { code := sgnBit f neg }) ∧
      (num ≠ 0 → rounded f md neg (num * 2 ^ t.toNat) (2 ^ (-t).toNat) (roundTo f md neg num exp)) ∧
      -- R252, into a float
      toFloat f md (.fin neg num exp) = roundTo f md neg num exp ∧
      toFloat f md .nan = (if f.nanCode = none then { code := 0, flags := fNV } else { code := f.nanCode.getD 0 }) ∧
      toFloat f md (.inf neg) = (if f.infCode = none then { code := sgnBit f neg + f.maxCode, flags := fNV }
        else { code := sgnBit f neg + f.infCode.getD 0 })) ∧
   -- R252, into an integer range
   (∀ (lo hi : Int) (w : Nat) (md : RMode) (neg : Bool) (num : Nat) (exp : Int),
      toInt lo hi w md .nan = { code := 0, flags := fNV } ∧
      toInt lo hi w md (.inf neg) = { code := (BitVec.ofInt w (if neg then lo else hi)).toNat, flags := fNV } ∧
      ∃ q : Nat, nearest md neg (num * 2 ^ exp.toNat) (2 ^ (-exp).toNat) q ∧
        let x : Int := if neg then -(q : Int) else q
        toInt lo hi w md (.fin neg num exp) =
          if x < lo then { code := (BitVec.ofInt w lo).toNat, flags := fNV }
          else if hi < x then { code := (BitVec.ofInt w hi).toNat, flags := fNV }
          else { code := (BitVec.ofInt w x).toNat,
                 flags := if q * 2 ^ (-exp).toNat = num * 2 ^ exp.toNat then 0#5 else fNX }) ∧
   -- R287: what the scalar conversion codes read and write
   ∀ (x : W64) (md : RMode) (v : Val),
     cvtSrc 0#3 x = decodeF F64 x.toNat ∧ cvtSrc 1#3 x = decodeF F32 (x.toNat % 2 ^ 32) ∧
     cvtSrc 2#3 x = decodeF F16 (x.toNat % 2 ^ 16) ∧ cvtSrc 3#3 x = decodeF B16 (x.toNat % 2 ^ 16) ∧
     cvtSrc 4#3 x = .fin x.msb x.toInt.natAbs 0 ∧ cvtSrc 5#3 x = .fin false x.toNat 0 ∧
     cvtSrc 6#3 x = .fin (x.getLsbD 31) (x.extractLsb' 0 32).toInt.natAbs 0 ∧
     cvtSrc 7#3 x = .fin false (x.toNat % 2 ^ 32) 0 ∧
     cvtDst 0#3 md v = toFloat F64 md v ∧ cvtDst 1#3 md v = toFloat F32 md v ∧ cvtDst 2#3 md v = toFloat F16 md v ∧
     cvtDst 3#3 md v = toFloat B16 md v ∧ cvtDst 4#3 md v = toInt (-2 ^ 63) (2 ^ 63 - 1) 64 md v ∧
     cvtDst 5#3 md v = toInt 0 (2 ^ 64 - 1) 64 md v ∧ cvtDst 6#3 md v = toInt (-2 ^ 31) (2 ^ 31 - 1) 32 md v ∧
     cvtDst 7#3 md v = toInt 0 (2 ^ 32 - 1) 32 md v) ∧
  (∀ f ∈ [F64, F32], ∀ x y z : Nat, x < 2 ^ f.width → y < 2 ^ f.width → z < 2 ^ f.width →
     let neg (c : Nat) : Bool := c.testBit (f.width - 1)
     let mag (c : Nat) : Nat := c % 2 ^ (f.width - 1)
     let nan (c : Nat) : Prop := decodeF f c = .nan
     let inf (c : Nat) : Prop := f.infCode = some (mag c)
     let fin (c : Nat) : Prop := mag c ≤ f.maxCode
     let val (c : Nat) : Int := if neg c then -(units f c : Int) else units f c
     let S := f.bias + f.m - 1
     let quiet : FRes := { code := canonNan f }
     let bad : FRes := { code := canonNan f, flags := fNV }
     let infOf (n : Bool) : FRes := { code := sgnBit f n + f.infCode.getD 0 }
     let zeroOf (n : Bool) : FRes := { code := sgnBit f n }
     -- R274: a sum of v / D units, `both` when both terms are negative
     let sum (v : Int) (D : Nat) (both : Bool) (r : FRes) : Prop :=
       if v = 0 then r = zeroOf both else rounded f .rne (decide (v < 0)) v.natAbs D r
     (nan x ∨ nan y → fAdd f x y = quiet ∧ fSub f x y = quiet ∧ fMul f x y = quiet ∧ fDiv f x y = quiet ∧
       fScale f x y = quiet ∧ (fCmp f 0 x y) = (false, 0#5) ∧ fCmp f 1 x y = (false, fNV) ∧ fCmp f 2 x y = (false, fNV)) ∧
     (nan x → fSqrt f x = quiet ∧ fExp2 f x = quiet ∧ fClass f x = 256) ∧
     -- sums and differences
     (fin x → fin y → sum (val x + val y) 1 (neg x && neg y) (fAdd f x y) ∧
       sum (val x - val y) 1 (neg x && !(neg y)) (fSub f x y)) ∧
     (inf x → fin y → fAdd f x y = infOf (neg x) ∧ fAdd f y x = infOf (neg x) ∧ fSub f x y = infOf (neg x) ∧
       fSub f y x = infOf (!(neg x))) ∧
     (inf x → inf y → fAdd f x y = (if neg x = neg y then infOf (neg x) else bad) ∧
       fSub f x y = if neg x = neg y then bad else infOf (neg x)) ∧
     -- products
     (fin x → fin y → if val x * val y = 0 then fMul f x y = zeroOf (neg x ^^ neg y)
       else rounded f .rne (neg x ^^ neg y) (val x * val y).natAbs (2 ^ S) (fMul f x y)) ∧
     (inf x → fin y → mag y = 0 → fMul f x y = bad ∧ fMul f y x = bad) ∧
     (inf x → (fin y ∧ mag y ≠ 0) ∨ inf y → fMul f x y = infOf (neg x ^^ neg y) ∧ fMul f y x = infOf (neg x ^^ neg y)) ∧
     -- z ± x · y, rounded once
     (∀ sub : Bool,
       let np := (neg x ^^ neg y) ^^ sub
       let r := fMac f sub z x y
       (fin x → fin y → fin z → sum (val z * 2 ^ S + if sub then -(val x * val y) else val x * val y) (2 ^ S)
         (neg z && np) r) ∧
       ((inf x ∧ mag y = 0) ∨ (mag x = 0 ∧ inf y) → r = bad) ∧
       (nan x ∨ nan y → r = quiet) ∧
       (nan z → ¬((inf x ∧ mag y = 0) ∨ (mag x = 0 ∧ inf y)) → r = quiet) ∧
       ((inf x ∧ (inf y ∨ (fin y ∧ mag y ≠ 0))) ∨ (inf y ∧ fin x ∧ mag x ≠ 0) → ¬nan z →
         r = if inf z ∧ neg z ≠ np then bad else infOf np) ∧
       (fin x → fin y → inf z → r = infOf (neg z))) ∧
     -- quotients
     (fin x → fin y → mag y ≠ 0 → if mag x = 0 then fDiv f x y = zeroOf (neg x ^^ neg y)
       else rounded f .rne (neg x ^^ neg y) (units f x * 2 ^ S) (units f y) (fDiv f x y)) ∧
     (fin x → mag x ≠ 0 → mag y = 0 → fDiv f x y = { infOf (neg x ^^ neg y) with flags := fDZ }) ∧
     ((mag x = 0 ∧ mag y = 0) ∨ (inf x ∧ inf y) → fDiv f x y = bad) ∧
     (inf x → fin y → fDiv f x y = infOf (neg x ^^ neg y) ∧ fDiv f y x = zeroOf (neg x ^^ neg y)) ∧
     -- the root of units · 2^(1−b−M) is the root of N units, N = units · 2^(b+M−1)
     (fin x → mag x = 0 → fSqrt f x = zeroOf (neg x)) ∧
     (fin x ∨ inf x → mag x ≠ 0 → neg x = true → fSqrt f x = bad) ∧
     (inf x → neg x = false → fSqrt f x = infOf false) ∧
     (fin x → mag x ≠ 0 → neg x = false →
       let N := units f x * 2 ^ S
       ∃ k q : Nat, 4 ^ (f.m + k) ≤ N ∧ N < 4 ^ (f.m + 1 + k) ∧ (2 * q - 1) ^ 2 * 4 ^ k ≤ 4 * N ∧
         4 * N ≤ (2 * q + 1) ^ 2 * 4 ^ k ∧ units f (fSqrt f x).code = q * 2 ^ k ∧
         (fSqrt f x).code ≤ f.maxCode ∧ (fSqrt f x).flags = if q ^ 2 * 4 ^ k = N then 0#5 else fNX) ∧
     -- the lesser and the greater, −0 below +0, and the comparisons, zeros equal
     (nan x → ¬nan y → (fMinMax f false x y).code = y ∧ (fMinMax f true x y).code = y ∧
       (fMinMax f false y x).code = y ∧ (fMinMax f true y x).code = y) ∧
     (nan x → nan y → ∀ b, fMinMax f b x y = quiet) ∧
     (¬nan x → ¬nan y →
       let key (c : Nat) : Int := if neg c then -(mag c : Int) - 1 else mag c
       let ord (c : Nat) : Int := if neg c then -(mag c : Int) else mag c
       fMinMax f false x y = { code := if key x ≤ key y then x else y } ∧
       fMinMax f true x y = { code := if key x ≤ key y then y else x } ∧
       fCmp f 0 x y = (decide (ord x = ord y), 0#5) ∧ fCmp f 1 x y = (decide (ord x < ord y), 0#5) ∧
       fCmp f 2 x y = (decide (ord x ≤ ord y), 0#5)) ∧
     -- FRINT
     (∀ md : RMode, fin x → ∃ q : Nat, nearest md (neg x) (units f x) (2 ^ S) q ∧
       (fRint f md x).code < 2 ^ f.width ∧ neg (fRint f md x).code = neg x ∧ units f (fRint f md x).code = q * 2 ^ S ∧
       (fRint f md x).flags = if q * 2 ^ S = units f x then 0#5 else fNX) ∧
     (∀ md : RMode, (inf x → fRint f md x = { code := x }) ∧ (nan x → fRint f md x = quiet)) ∧
     -- FSCALE by y truncated
     ((inf y ∧ neg y = false ∧ mag x = 0) ∨ (inf y ∧ neg y = true ∧ inf x) → fScale f x y = bad) ∧
     (inf y → neg y = false → inf x ∨ (fin x ∧ mag x ≠ 0) → fScale f x y = infOf (neg x)) ∧
     (inf y → neg y = true → fin x → fScale f x y = zeroOf (neg x)) ∧
     (fin y → (inf x → fScale f x y = infOf (neg x)) ∧ (mag x = 0 → fScale f x y = zeroOf (neg x)) ∧
       (fin x → mag x ≠ 0 →
         let n := max (-2200) (min 2200 ((val y).tdiv (2 ^ S)))
         rounded f .rne (neg x) (units f x * 2 ^ n.toNat) (2 ^ (-n).toNat) (fScale f x y))) ∧
     (∀ i < f.width,
       (fNeg f x).testBit i = (x.testBit i ^^ decide (i = f.width - 1)) ∧
       (fAbs f x).testBit i = (x.testBit i && decide (i ≠ f.width - 1)) ∧
       (fCps f x y).testBit i = if i = f.width - 1 then y.testBit i else x.testBit i) ∧
     ∃ k < 9, fClass f x = 2 ^ k) ∧
  (∀ (neg : Bool) (num k : Nat) (md : RMode),
     nearest md neg num (2 ^ k) (roundInt neg num (-(k : Int)) md).1 ∧
     ((roundInt neg num (-(k : Int)) md).2 = true ↔ ¬ 2 ^ k ∣ num))

/-- R276, R277, R253 and R364: recording conditions sets exactly their bits of cw.fflags and adds one to the event counters
that select them, each saturating; nothing else changes. -/
def Obligations.ConditionsAreCounted : Prop :=
  ∀ (c : Core) (f : BitVec 5) (code : Nat),
    (c.recordFlags f false).fflags = c.fflags ||| f ∧
    (∀ i < 8, kget (c.countEv code 1).ev i 0#32 =
      if c.evsel.toNat / 16 ^ i % 16 = code then
        (if kget c.ev i 0#32 = 0xFFFFFFFF#32 then 0xFFFFFFFF#32 else kget c.ev i 0#32 + 1#32)
      else kget c.ev i 0#32) ∧
    c.countEv code 1 = { c with ev := (c.countEv code 1).ev } ∧
    c.recordFlags f false = { (flagEvents f).foldl (fun k e => k.countEv e 1) c with fflags := c.fflags ||| f } ∧
    flagEvents f = (if f.getLsbD 4 then [1] else []) ++ (if f.getLsbD 2 then [2] else []) ++
      (if f.getLsbD 1 then [3] else []) ++ if f.getLsbD 0 then [4] else []

/-! ### The vector sequencer (chapter 13) -/

/-- R298: the integer forms, with their encodings. Each element of vD is the row's function of the elements of vA and vB, which a channel may
supply; conditions are counted for each element; nothing else changes. -/
def Obligations.VectorIntegerForms : Prop :=
  let ret (c : Nat) : FRes := { code := c }
  let ones (w : Nat) (p : Prop) [Decidable p] : FRes := { code := if p then 2 ^ w - 1 else 0 }
  let sat (w : Nat) (x : Int) : FRes :=
    { code := ((if x < -2 ^ (w - 1) then -2 ^ (w - 1) else if 2 ^ (w - 1) ≤ x then 2 ^ (w - 1) - 1 else x) % 2 ^ w).toNat
      sat := decide (x < -2 ^ (w - 1) ∨ 2 ^ (w - 1) ≤ x) }
  let S (w x : Nat) : Int := if x < 2 ^ (w - 1) then x else (x : Int) - 2 ^ w
  (∀ p ∈ ([
      (Instr.vadd, fun w x y => ret ((x + y) % 2 ^ w)), (Instr.vsub, fun w x y => ret ((x + (2 ^ w - y)) % 2 ^ w)),
      (Instr.vmul, fun w x y => ret (x * y % 2 ^ w)),
      (Instr.vmulh, fun w x y => ret ((S w x * S w y / 2 ^ w % 2 ^ w).toNat)),
      (Instr.vand, fun _ x y => ret (x &&& y)), (Instr.vor, fun _ x y => ret (x ||| y)),
      (Instr.vxor, fun _ x y => ret (x ^^^ y)), (Instr.vsll, fun w x y => ret (x * 2 ^ (y % w) % 2 ^ w)),
      (Instr.vsrl, fun w x y => ret (x / 2 ^ (y % w))),
      (Instr.vsra, fun w x y => ret ((S w x / 2 ^ (y % w) % 2 ^ w).toNat)),
      (Instr.vmin, fun w x y => ret (if S w x ≤ S w y then x else y)),
      (Instr.vmax, fun w x y => ret (if S w x ≤ S w y then y else x)),
      (Instr.vminn, fun _ x y => ret (min x y)), (Instr.vmaxn, fun _ x y => ret (max x y)),
      (Instr.vadds, fun w x y => sat w (S w x + S w y)), (Instr.vsubs, fun w x y => sat w (S w x - S w y)),
      (Instr.vceq, fun w x y => ones w (x = y)), (Instr.vclt, fun w x y => ones w (S w x < S w y)),
      (Instr.vcltn, fun w x y => ones w (x < y))] :
      List ((Bool → R6 → R6 → R6 → BitVec 2 → Instr) × (Nat → Nat → Nat → FRes))),
    ∀ (s : State) (m : Bool) (b a d : R6) (z : BitVec 2) (c : Core) (x y : V512),
      s.seqReady { strm := .seq } = true → s.own.vsrc2 a b = some (c, x, y) →
      let w := 8 * 2 ^ z.toNat
      let rs := (elems w x).zipWith (p.2 w) (elems w y)
      exec (p.1 m b a d z) s =
        .next ((s.setCore s.me ((rs.foldl Core.recordElem c).setV d (packVec w (rs.map (·.code))))).seqEnds s.me m)) ∧
  (∀ (s : State) (m : Bool) (b a d : R6) (z : BitVec 2) (c : Core) (x y : V512),
    s.seqReady { strm := .seq } = true → s.own.vsrc2 a b = some (c, x, y) →
    let w := 8 * 2 ^ z.toNat
    let pick (i : Nat) : Nat :=
      if (elems w (s.own.seq.vreg d.toNat)).getD i 0 ≠ 0 then (elems w x).getD i 0 else (elems w y).getD i 0
    exec (.vsel m b a d z) s =
      .next ((s.setCore s.me (c.setV d (packVec w ((List.range (512 / w)).map pick)))).seqEnds s.me m)) ∧
  ∀ (m : Bool) (f b a d : R6) (z : BitVec 2),
    (vsrcOk b = true → vsrcOk a = true → vregOk d = true → ∀ p ∈ ([
      (Instr.vadd, 0x00#6), (Instr.vsub, 0x01#6), (Instr.vmul, 0x02#6), (Instr.vmulh, 0x03#6), (Instr.vand, 0x04#6),
      (Instr.vor, 0x05#6), (Instr.vxor, 0x06#6), (Instr.vsll, 0x07#6), (Instr.vsrl, 0x08#6), (Instr.vsra, 0x09#6),
      (Instr.vmin, 0x0A#6), (Instr.vmax, 0x0B#6), (Instr.vminn, 0x0C#6), (Instr.vmaxn, 0x0D#6),
      (Instr.vadds, 0x0E#6), (Instr.vsubs, 0x0F#6), (Instr.vceq, 0x10#6), (Instr.vclt, 0x11#6),
      (Instr.vcltn, 0x12#6), (Instr.vsel, 0x13#6)] :
        List ((Bool → R6 → R6 → R6 → BitVec 2 → Instr) × R6)), decode (wordOf m p.2 b a d (0x0E#5 ++ z)) = .ok (p.1 m b a d z)) ∧
    (0x14 ≤ f.toNat → isIllegal (wordOf m f b a d (0x0E#5 ++ z)))

/-- R299 and R300: the floating forms apply the scalar rule of their row to each element in the element's own format; VCVT
converts the low elements and clears the rest; VFDIV and VFSQRT hold their vector, flags and events to the park. With the
encodings of the floating forms. -/
def Obligations.VectorFloatForms : Prop :=
  let fm (p h : BitVec 1) : Fmt := if h = 0#1 then (if p = 0#1 then F64 else F32) else if p = 0#1 then F16 else B16
  let put (s : State) (c : Core) (m : Bool) (d : R6) (w : Nat) (rs : List FRes) : Host.Outcome State Fault Refusal :=
    .next ((s.setCore s.me ((rs.foldl Core.recordElem c).setV d (packVec w (rs.map (·.code))))).seqEnds s.me m)
  let hold (s : State) (c : Core) (m : Bool) (d : R6) (w : Nat) (rs : List FRes) : Host.Outcome State Fault Refusal :=
    .next (((s.setCore s.me c).holdVec s.me
      { dest := .vec d.toNat, vals := rs.map fun r => BitVec.ofNat 64 r.code, ext := .elems w
        fflags := rs.foldl (fun a r => a ||| r.flags) 0#5, events := rs.flatMap fun r => flagEvents r.flags }).seqEnds s.me m)
  let mask (f : Fmt) (x : Bool × BitVec 5) : FRes := { code := if x.1 then 2 ^ f.width - 1 else 0, flags := x.2 }
  (∀ (s : State) (m : Bool) (p h : BitVec 1) (b a d : R6) (c : Core) (x y : V512),
     let k := fm p h
     (s.seqReady { strm := .seq } = true → s.own.vsrc2 a b = some (c, x, y) →
       (∀ q ∈ ([
           (Instr.vfadd, fAdd), (Instr.vfsub, fSub), (Instr.vfmul, fMul), (Instr.vfmin, fun f => fMinMax f false),
           (Instr.vfmax, fun f => fMinMax f true), (Instr.vfeq, fun f x y => mask f (fCmp f 0 x y)),
           (Instr.vflt, fun f x y => mask f (fCmp f 1 x y)), (Instr.vfle, fun f x y => mask f (fCmp f 2 x y)),
           (Instr.vfscale, fScale)] :
           List ((Bool → BitVec 1 → R6 → R6 → R6 → BitVec 1 → Instr) × (Fmt → Nat → Nat → FRes))),
         exec (q.1 m p b a d h) s = put s c m d k.width ((elems k.width x).zipWith (q.2 k) (elems k.width y))) ∧
       exec (.vfmac m p b a d h) s = put s c m d k.width
         ((List.range (512 / k.width)).map fun i => fMac k false ((elems k.width (s.own.seq.vreg d.toNat)).getD i 0)
           ((elems k.width x).getD i 0) ((elems k.width y).getD i 0))) ∧
     (s.seqReady { strm := .seq, long := true } = true → s.own.vsrc2 a b = some (c, x, y) →
       exec (.vfdiv m p b a d h) s = hold s c m d k.width ((elems k.width x).zipWith (fDiv k) (elems k.width y))) ∧
     (s.seqReady { strm := .seq, long := true } = true → s.own.vsrc a = some (c, x) →
       exec (.vfsqrt m p a d h) s = hold s c m d k.width ((elems k.width x).map (fSqrt k))) ∧
     (s.seqReady { strm := .seq } = true → s.own.vsrc a = some (c, x) →
       (∀ q ∈ ([
           (Instr.vfneg, fun f x => { code := fNeg f x }), (Instr.vfabs, fun f x => { code := fAbs f x }),
           (Instr.vfrint, fun f x => fRint f .rne x), (Instr.vfexp2f, fExp2)] :
           List ((Bool → BitVec 1 → R6 → R6 → BitVec 1 → Instr) × (Fmt → Nat → FRes))),
         exec (q.1 m p a d h) s = put s c m d k.width ((elems k.width x).map (q.2 k))) ∧
       ∀ sc t r : BitVec 3,
         exec (.vcvt m sc t r a d) s = put s c m d (vcvtWidth t)
           (((elems (vcvtWidth sc) x).take (512 / max (vcvtWidth sc) (vcvtWidth t))).map (vcvtElem sc t (rmode r))))) ∧
  ∀ (m : Bool) (p h : BitVec 1) (f : BitVec 5) (b a d : R6),
    (vsrcOk a = true → vregOk d = true →
      (vsrcOk b = true → ∀ q ∈ ([
        (Instr.vfadd, 0#5), (Instr.vfsub, 1#5), (Instr.vfmul, 2#5), (Instr.vfdiv, 3#5), (Instr.vfmin, 5#5),
        (Instr.vfmax, 6#5), (Instr.vfmac, 7#5), (Instr.vfeq, 10#5), (Instr.vflt, 11#5), (Instr.vfle, 12#5),
        (Instr.vfscale, 15#5)] :
          List ((Bool → BitVec 1 → R6 → R6 → R6 → BitVec 1 → Instr) × BitVec 5)),
        decode (wordOf m (p ++ q.2) b a d (0x1E#6 ++ h)) = .ok (q.1 m p b a d h)) ∧
      ∀ q ∈ ([
        (Instr.vfsqrt, 4#5), (Instr.vfneg, 8#5), (Instr.vfabs, 9#5), (Instr.vfrint, 13#5), (Instr.vfexp2f, 14#5)] :
          List ((Bool → BitVec 1 → R6 → R6 → BitVec 1 → Instr) × BitVec 5)),
        decode (wordOf m (p ++ q.2) 0#6 a d (0x1E#6 ++ h)) = .ok (q.1 m p a d h) ∧
        (b ≠ 0#6 → isIllegal (wordOf m (p ++ q.2) b a d (0x1E#6 ++ h)))) ∧
    (16 ≤ f.toNat → isIllegal (wordOf m (p ++ f) b a d (0x1E#6 ++ h)))

/-- R303: reductions write element 0 and clear the rest; VRED.FADD is a NaN element's canonical NaN, with no condition
even beside mixed infinities (log entry 56), invalid for mixed infinities, else one infinity, else the exact sum of all elements rounded once, an exact zero being −0 only when every
element is; the permutes move elements. -/
def Obligations.VectorPermutes : Prop :=
  let S (w x : Nat) : Int := if x < 2 ^ (w - 1) then x else (x : Int) - 2 ^ w
  ∀ (s : State) (m : Bool) (z : BitVec 2) (b a d : R6) (c : Core) (x y : V512), s.seqReady { strm := .seq } = true →
    let w := 8 * 2 ^ z.toNat
    let n := 512 / w
    let e (v : V512) (i : Nat) : Nat := v.toNat / 2 ^ (w * i) % 2 ^ w
    let put (xs : List Nat) : Host.Outcome State Fault Refusal :=
      .next ((s.setCore s.me (c.setV d (packVec w xs))).seqEnds s.me m)
    (s.own.vsrc a = some (c, x) →
      exec (.vredAdd m z a d) s = put [((List.range n).map (e x)).sum % 2 ^ w] ∧
      (∀ q ∈ ([(Instr.vredMin, fun u v => S w u ≤ S w v), (Instr.vredMax, fun u v => S w v ≤ S w u),
          (Instr.vredMinn, fun u v => u ≤ v), (Instr.vredMaxn, fun u v => v ≤ u)] :
          List ((Bool → BitVec 2 → R6 → R6 → Instr) × (Nat → Nat → Prop))),
        ∃ i < n, (∀ j < n, q.2 (e x i) (e x j)) ∧ exec (q.1 m z a d) s = put [e x i]) ∧
      exec (.vrev m z a d) s = put ((List.range n).map fun i => e x (n - 1 - i)) ∧
      exec (.vbcast m z a d) s = put ((List.range n).map fun _ => e x 0) ∧
      ∀ y : BitVec 1,
        let k := 32 * 2 ^ y.toNat
        let f := if y = 0#1 then F32 else F64
        let vs := (List.range (512 / k)).map fun i => decodeF f (x.toNat / 2 ^ (k * i) % 2 ^ k)
        let scaled (E : Int) (v : Val) : Int := match v with
          | .fin neg num e => (if neg then -(num : Int) else num) * 2 ^ (e - E).toNat
          | _ => 0
        ∃ r : FRes,
          exec (.vredFadd m y a d) s =
            .next ((s.setCore s.me ((Core.recordElem c r).setV d (packVec k [r.code]))).seqEnds s.me m) ∧
          (.nan ∈ vs → r = { code := canonNan f }) ∧
          (.nan ∉ vs → .inf false ∈ vs → .inf true ∈ vs → r = { code := canonNan f, flags := fNV }) ∧
          (∀ sg, .nan ∉ vs → .inf sg ∈ vs → .inf (!sg) ∉ vs → r = toFloat f .rne (.inf sg)) ∧
          ((∀ v ∈ vs, ∃ neg num e, v = .fin neg num e) → ∃ (neg : Bool) (num : Nat) (e E : Int),
            r = roundTo f .rne neg num e ∧ E ≤ e ∧ (∀ v ∈ vs, ∀ g n i, v = .fin g n i → E ≤ i) ∧
            scaled E (.fin neg num e) = (vs.map (scaled E)).sum ∧
            (num = 0 → (neg = true ↔ ∀ v ∈ vs, ∃ i, v = .fin true 0 i)))) ∧
    (s.own.vsrc2 a b = some (c, x, y) →
      exec (.vperm m z b a d) s = put ((List.range n).map fun i => e x (e y i % n)) ∧
      exec (.vslide m z b a d) s = put ((List.range n).map fun (i : Nat) =>
        let k := (i : Int) + (BitVec.ofNat 64 y.toNat).toInt
        if 0 ≤ k ∧ k < (n : Int) then e x k.toNat else 0))

/-- R301, R302 and R296: a vector load or store whose elements all pass issues one access for each, in order, all of one
group; a load holds its vector for vD; a load with an element that fails issues none; a store with one issues the stores
of the elements that pass. A word that faults leaves the channel entry it would take in its place (log entry 55). -/
def Obligations.VectorMemoryForms : Prop :=
  ∀ (s : State) (m : Bool) (z : BitVec 2) (b a d : R6) (c : Core) (x y : V512) (u : State) (ok : List (Nat × W64 × Target)),
    let w := 8 * 2 ^ z.toNat
    let n := 512 / w
    let base : W64 := BitVec.ofNat 64 x.toNat
    let at1 := (List.range n).map fun i => (i, base + BitVec.ofNat 64 (i * (w / 8)))
    let at2 := (List.range n).map fun i => (i, base + BitVec.ofNat 64 i * BitVec.ofNat 64 y.toNat)
    let at3 := (List.range n).map fun i => (i, base + BitVec.ofNat 64 (y.toNat / 2 ^ (w * i) % 2 ^ w * (w / 8)))
    let loaded : State :=
      (ok.foldl (fun t e => t.issueAcc s.me { mkAcc .seq .load e.2.1 e.2.2 (w / 8) (u.core s.me).mode with
        grp := (u.core s.me).accNext + 1 }) u).holdVec s.me
        { dest := .vec d.toNat, waits := (List.range ok.length).map ((u.core s.me).accNext + ·), ext := .elems w }
    let storedOf (u : State) (ok : List (Nat × W64 × Target)) : State := ok.foldl (fun t e => t.issueAcc s.me
      { mkAcc .seq .store e.2.1 e.2.2 (w / 8) (u.core s.me).mode with
        data := BitVec.ofNat 64 ((elems w ((u.core s.me).seq.vreg d.toNat)).getD e.1 0)
        grp := (u.core s.me).accNext + 1 }) u
    let stored : State := storedOf u ok
    let one : Prop := s.own.vsrc a = some (c, x)
    let two : Prop := s.own.vsrc2 a b = some (c, x, y)
    let chk (acc : XAcc) (contig : Bool) (as : List (Nat × W64)) (r : State × List (Nat × W64 × Target) × Option (W64 × Flt)) :
      Prop := (s.setCore s.me c).checkElems s.me acc (w / 8) contig as = r
    (s.seqReady { strm := .seq, long := true } = true →
      (one → chk .read true at1 (u, ok, none) → exec (.vld m z a d) s = .next (loaded.seqEnds s.me m)) ∧
      (two → chk .read false at2 (u, ok, none) → exec (.vlds m z b a d) s = .next (loaded.seqEnds s.me m)) ∧
      (two → chk .read false at3 (u, ok, none) → exec (.vgath m z b a d) s = .next (loaded.seqEnds s.me m)) ∧
      ∀ va f,
        let bad (i : Instr) : Prop := exec i s = .next (s.seqTrap s.me { f with word := s.own.seq.curWord })
        (one → chk .read true at1 (u, ok, some (va, f)) → bad (.vld m z a d)) ∧
        (two → chk .read false at2 (u, ok, some (va, f)) → bad (.vlds m z b a d)) ∧
        (two → chk .read false at3 (u, ok, some (va, f)) → bad (.vgath m z b a d))) ∧
    (s.seqReady { strm := .seq } = true → c.out + n ≤ 4096 →
      (one → chk .write true at1 (u, ok, none) → exec (.vst m z a d) s = .next (stored.seqEnds s.me m)) ∧
      (two → chk .write false at2 (u, ok, none) → exec (.vsts m z b a d) s = .next (stored.seqEnds s.me m)) ∧
      (two → chk .write false at3 (u, ok, none) → exec (.vscat m z b a d) s = .next (stored.seqEnds s.me m)) ∧
      ∀ va f,
        let bad (i : Instr) (contig : Bool) (as : List (Nat × W64)) : Prop :=
          chk .write contig as (u, ok, some (va, f)) → ∀ t pass r, s.checkElems s.me .write (w / 8) contig as = (t, pass, r) →
            let v := storedOf t pass
            exec i s = .next (v.seqTrap s.me { f with word := (v.core s.me).seq.curWord })
        (one → bad (.vst m z a d) true at1) ∧ (two → bad (.vsts m z b a d) false at2) ∧
        (two → bad (.vscat m z b a d) false at3))

/-- R295 and R293: the sequencer's control words; VFLGWAIT goes on when the flag has its value and the stream's own order
lets it be read. -/
def Obligations.SequencerControl : Prop :=
  ∀ (s : State) (m : Bool),
    let q := s.own.seq
    (s.seqReady { strm := .seq, park := true } = true →
      exec (.vhalt m) s = .next (s.setCore s.me { s.own with
        seq := { q with vstat := setFld (setFld q.vstat 63 63 0) 62 62 0 } }) ∧
      (∀ o : BitVec 18, exec (.vj m o) s = .next (s.seqEndsAt s.me m (q.vpc + 4#64 * o.signExtend 64))) ∧
      ∀ (o : BitVec 12) (d : R6),
        let n : W64 := BitVec.ofNat 64 (q.vreg d.toNat).toNat - 1#64
        ∃ v : V512, (∀ i < 512, v.getLsbD i = if i < 64 then n.getLsbD i else (q.vreg d.toNat).getLsbD i) ∧
          exec (.vloop m o d) s = .next ((s.setCore s.me (s.own.setV d v)).seqEndsAt s.me m
            (if n = 0#64 then q.vpc + 4#64 else q.vpc + 4#64 * o.signExtend 64))) ∧
    (s.seqReady { strm := .seq, long := true } = true → ∀ (j : BitVec 3) (d : R6),
      exec (.vqpop m j d) s = .next (((s.issueAcc s.me (localAcc .seq (.qpop 0) 0 0#64 false true)).holdVec s.me
        { dest := .vecWord d.toNat j.toNat, waits := [s.own.accNext] }).seqEnds s.me m)) ∧
    (s.seqReady { strm := .seq } = true →
      (s.own.out < 4096 → s.own.relFull = false →
        (∀ (j : BitVec 3) (a : R6), q.qg.length < 16 →
          exec (.vqpush m j a) s = .next ((s.issueAcc s.me (localAcc .seq (.qpush 1) 1
            (BitVec.ofNat 64 ((q.vreg a.toNat).toNat / 2 ^ (64 * j.toNat))) true false)).seqEnds s.me m)) ∧
        ∀ n : BitVec 4,
          exec (.vflgset m n) s =
            .next ((s.issueAcc s.me (localAcc .seq (.flgset n.toNat true) (64 + n.toNat) 0#64 true false)).seqEnds s.me m) ∧
          exec (.vflgclr m n) s =
            .next ((s.issueAcc s.me (localAcc .seq (.flgset n.toNat false) (64 + n.toNat) 0#64 true false)).seqEnds s.me m)) ∧
      ∀ (w : BitVec 1) (n : BitVec 4),
        s.own.mayPerform s.me { localAcc .seq (.flgtst n.toNat) (64 + n.toNat) 0#64 false true with n := s.own.accNext } = true →
        q.flags.getLsbD n.toNat = (w == 1#1) → exec (.vflgwait m w n) s = .next (s.seqEnds s.me m))

/-! ### Atomics, fences, barriers and waits (chapters 05 and 14) -/

/-- R308, R309, R310 and R132: an ATM word that passes its checks is issued with its operands, as an acquire, a release
or both, and its old value is held for gD, zero-extended; ADDZ is aligned to 16 bytes. R309: classes 0x0, 0x1, 0x6 and, at the
issue, 0x8 take every atomic, class 0x5 all but ADDZ; any other class is the access fault; a check that fails
raises its fault. R308: what each atomic writes over the old value, and what it compares. -/
def Obligations.AtomicsIssue : Prop :=
  (let reaches (op : AtmOp) (a : W64) : Prop := clsOf a = 0 ∨ clsOf a = 1 ∨ clsOf a = 6 ∨ (clsOf a = 5 ∧ op ≠ .addz) ∨
     clsOf a = 8
   let issued (s u : State) (op : AtmOp) (r : BitVec 2) (w : BitVec 1) (b a d : R6) (sc : BitVec 3) (g : Target) : State :=
     let n := if w = 0#1 then 8 else 4
     (u.issueAcc s.me { mkAcc .ctl (.atomic op) (s.reg s.me a) g n (u.core s.me).mode with
       data := BitVec.ofNat 64 ((u.reg s.me b).toNat % 2 ^ (8 * n)), cmp := BitVec.ofNat 64 ((u.reg s.me d).toNat % 2 ^ (8 * n))
       acq := if r.getLsbD 0 then some sc else none, rel := if r.getLsbD 1 then some sc else none }).holdResult s.me
         { dest := .reg d, waits := [(u.core s.me).accNext], ext := .zero (8 * n) }
   let rule (i : BitVec 1 → Instr) (op : AtmOp) (s u : State) (m : Bool) (r : BitVec 2) (w : BitVec 1) (b a d : R6)
       (sc : BitVec 3) (g : Target) : Prop :=
     let reads := if op = .cas then [a, b, d] else [a, b]
     s.ctlReady { long := true, names := [d, a, b], reads := reads } = true →
     let n := if w = 0#1 then 8 else 4
     let checked := (s.took reads).check s.me { acc := .atomic, n := n, align := if op = .addz then 16 else n } (s.reg s.me a)
     (checked = (u, .ok g) →
       (reaches op (s.reg s.me a) → (u.core s.me).out < 4096 →
         (r.getLsbD 1 = true → u.relBlocked s.me g.home g.key = false) →
         exec (i w) s = .next ((issued s u op r w b a d sc g).ends s.me m)) ∧
       (¬reaches op (s.reg s.me a) →
         exec (i w) s = .next (u.raise s.me { code := 0x08#8, faddr := some (s.reg s.me a), word := (u.core s.me).curWord }
           (u.core s.me).pc))) ∧
     ∀ f, checked = (u, .error f) →
       exec (i w) s = .next (u.raise s.me { f with word := (u.core s.me).curWord } (u.core s.me).pc)
   ∀ (s u : State) (m : Bool) (r : BitVec 2) (w : BitVec 1) (b a d : R6) (sc : BitVec 3) (g : Target),
     (∀ p ∈ ([(Instr.atmSwap, .swap), (Instr.atmAdd, .add), (Instr.atmAnd, .and), (Instr.atmOr, .or), (Instr.atmXor, .xor),
         (Instr.atmMax, .max), (Instr.atmCas, .cas)] :
         List ((Bool → BitVec 2 → BitVec 1 → R6 → R6 → R6 → BitVec 3 → Instr) × AtmOp)),
       rule (fun w => p.1 m r w b a d sc) p.2 s u m r w b a d sc g) ∧
     rule (fun _ => Instr.atmAddz m r b a d sc) .addz s u m r 0#1 b a d sc g) ∧
  (∀ (n : Nat) (old b cmp : Nat), 0 < n → old < 2 ^ (8 * n) → b < 2 ^ (8 * n) → cmp < 2 ^ (8 * n) →
     let S (x : Nat) : Int := if x < 2 ^ (8 * n - 1) then x else (x : Int) - 2 ^ (8 * n)
     atmNew .swap n old b cmp = some b ∧ atmNew .add n old b cmp = some ((old + b) % 2 ^ (8 * n)) ∧
     atmNew .addz n old b cmp = some ((old + b) % 2 ^ (8 * n)) ∧ atmNew .and n old b cmp = some (old &&& b) ∧
     atmNew .or n old b cmp = some (old ||| b) ∧ atmNew .xor n old b cmp = some (old ^^^ b) ∧
     (∃ v, atmNew .max n old b cmp = some v ∧ (v = old ∨ v = b) ∧ S old ≤ S v ∧ S b ≤ S v) ∧
     (atmNew .cas n old b cmp = if old = cmp then some b else none) ∧ (b ≤ old → atmNew .join n old b cmp = some (old - b)))

/-- R133 and R136: DRAIN ends when Out is 0 and else stalls; a FENCE that need not stall ends, and leaves a fence among
the accesses where it keeps later writes back; one whose earlier accesses are still out stalls. R317: WAITGE goes on
when the 8-byte counter has reached gB, WAITGEN when the generation of the sync word has, in its circular order;
until then either stalls, and leaves nothing of its read, so that the counters of R104 count no poll (log entry 58). WAITGE
takes classes 0x0, 0x1 and 0x6, WAITGEN class 0x1. A read that meets an error (log entry 7) is the data fault. -/
def Obligations.FencesAndWaits : Prop :=
  (∀ (s : State) (m : Bool), s.ctlReady {} = true →
     exec (.drain m) s = .next (if s.own.out = 0 then (s.took []).ends s.me m else s.took []) ∧
     ∀ (k : BitVec 4) (sc : BitVec 3),
       let mine := s.own.acc.filter fun a => a.party == .ctl && insideScope s.me sc a.home
       let stalls := (k.getLsbD 3 && mine.any (·.kind.isRead)) || (k.getLsbD 1 && mine.any (·.kind.isWrite))
       (stalls = true → exec (.fence m k sc) s = .next (s.took [])) ∧
       (stalls = false →
         exec (.fence m k sc) s = .next (
           (if k.getLsbD 2 || k.getLsbD 0 then
             ((s.took []).issueAcc s.me
               { n := 0, party := .ctl, kind := .fence sc k, home := .inCore, key := 256, len := 0 }).updCore s.me fun c =>
                 { c with acc := pruneFences c.acc }
           else s.took []).ends s.me m))) ∧
  (∀ (s u : State) (m : Bool) (b a : R6) (g : Target), s.ctlReady { names := [a, b], reads := [a, b] } = true →
     let va := s.reg s.me a
     let live (n : Nat) := u.homeReady (u.core s.me).part g.home g.key n = true
     let raised (f : Flt) : State := u.raise s.me { f with word := (u.core s.me).curWord } (u.core s.me).pc
     let one : Want := { acc := .read, n := 8, align := 8, only := fun k => k == 0 || k == 1 || k == 6 }
     let pair : Want := { acc := .read, n := 16, align := 16, only := fun k => k == 1 }
     let read (n : Nat) : State × Option W64 :=
       if g.home = .mem then
         let x := u.hwTouch (u.core s.me).part (u.core s.me).ctx g.na true g.key
         (x.1, if x.2 then some va else none)
       else
         let x := u.eccSpan g.key n
         (x.1, x.2.map fun d => va + BitVec.ofInt 64 d)
     let answer (n : Nat) (p : Nat → Bool) : State :=
       match read n with
       | (t, some e) => t.raise s.me { code := 0x0B#8, faddr := some e, word := (t.core s.me).curWord } (t.core s.me).pc
       | (t, none) => if p (t.homeNat g.home g.key n) then t.ends s.me m else u
     (∀ sc : BitVec 3,
       ((s.took [a, b]).check s.me one va = (u, .ok g) → live 8 → (u.core s.me).mayRead s.me g.home g.key 8 = true →
         exec (.waitge m sc b a) s = .next (answer 8 fun v => (s.reg s.me b).toNat ≤ v)) ∧
       ∀ f, (s.took [a, b]).check s.me one va = (u, .error f) → exec (.waitge m sc b a) s = .next (raised f)) ∧
     ((s.took [a, b]).check s.me pair va = (u, .ok g) → live 16 → (u.core s.me).mayRead s.me g.home g.key 16 = true →
       exec (.waitgen m b a) s =
         .next (answer 16 fun v => (BitVec.ofNat 16 (v / 2 ^ 112) - (s.reg s.me b).setWidth 16).toNat < 2 ^ 15)) ∧
     ∀ f, (s.took [a, b]).check s.me pair va = (u, .error f) → exec (.waitgen m b a) s = .next (raised f))

/-- R314 to R316: an arrival that is not the last stalls its thread and is counted in its team's episode. The last one ends
the episode: where an arrival named a record, its nine words are written first, at the address of the first that did (log
entry 53), each in its order, to the first that faults, whose fault goes to the fault queue; each word's page is translated at
its write (log entry 131). Then the episode is empty and counted, every thread that waits is replied to, and the last one goes
on, once the home of the record takes it. A thread that was replied to goes on. A firing of no team has no one to wait for (log
entry 52). BAR.G checks its 72-byte record as it issues. -/
def Obligations.Barriers : Prop :=
  let record (as : List BarArr) (ep i : Nat) : List Byte :=
    if i < 8 then toBytes 8 (min ((as.map fun a => (a.evs.getD i 0#32).toNat).foldl (· + ·) 0) (2 ^ 48 - 1))
    else toBytes 2 as.length ++ toBytes 6 (ep % 2 ^ 48)
  let put (p : BitVec 6) (a : BarArr) (va : W64) (z : State) (bs : List Byte) : State × Option Flt :=
    if clsOf va = 0 then
      match z.translate a.core p a.ctx a.mode .write (va.toNat % 2 ^ 48) with
      | (y, .error f) => (y, some { code := 0x0A#8, faddr := some va, xinfo := some (f.word .write a.ctx) })
      | (y, .ok r) =>
        let q := y.hwTouchW p a.ctx r.na r.pa
        if q.2 then (q.1, some { code := 0x0B#8, faddr := some va }) else (q.1.cohWrite r.pa bs, none)
    else ((z.setHome (z.homeOf va).1 (z.homeOf va).2 bs).afterWrite (z.homeOf va).1, none)
  let written (p : BitVec 6) (a : BarArr) (va : W64) (bs : Nat → List Byte) (z : State) : State :=
    ((List.range 9).foldl (fun (y : State × Bool) i =>
      if y.2 then y
      else
        match put p a (va + BitVec.ofNat 64 (8 * i)) y.1 (bs i) with
        | (q, none) => (q, false)
        | (q, some f) => (
          let c := q.core a.core
          q.postRecord p (q.faultRecord a.core f (c.owner a.core) false false {} c.pc), true))
      (z, false)).1
  let where_ (as : List BarArr) : Option (BarArr × W64) := as.findSome? fun a => a.rec_.map fun va => (a, va)
  let counted (t n ep : Nat) (z : State) : State :=
    match kfind z.teams t with
    | some x => { z with teams := kput z.teams t { x with bars := kput x.bars n [], barEp := kput x.barEp n (ep + 1) } }
    | none => z
  let replied (z : State) (a : BarArr) : State := z.updCore a.core fun k =>
    let heard (w : Wait) : Wait := if w = .sent a.tag then .got 0#64 0#64 else w
    { k with
      wait := heard k.wait, intr := k.intr.map fun i => { i with wait := heard i.wait }
      dir := k.dir.map fun w => { w with hwait := heard w.hwait } }
  let arrives (i : Instr) (s u : State) (m : Bool) (n : Nat) (x : BitVec 1) (rec_ : Option W64) : Prop :=
    let c := u.core s.me
    (c.wait = .none → (x = 1#1 → c.out = 0) → c.releaseWaits s.me .ctl 4#3 = [] →
      (u.curTeam s.me = none → exec i s = .next (u.ends s.me m)) ∧
      ∀ t y, u.curTeam s.me = some (t, y) → (∀ a ∈ kget y.bars n [], a.core ≠ s.me) →
        let me : BarArr := { core := s.me, tag := c.accNext, evs := (List.range 8).map fun i => kget c.ev i 0#32
                             rec_ := rec_, ctx := c.ctx, mode := c.mode }
        let as := kget y.bars n [] ++ [me]
        let ep := kget y.barEp n 0
        let v : State := u.setCore s.me { c with accNext := c.accNext + 1 }
        (y.barCnt ≤ as.length →
          (where_ as = none → exec i s = .next ((as.foldl replied (counted t n ep v)).ends s.me m)) ∧
          ∀ a va, where_ as = some (a, va) →
            let h := u.homeOf va
            (u.homeReady y.part h.1 h.2 72 = true →
              exec i s = .next ((as.foldl replied (counted t n ep (written y.part a va (record as ep) v))).ends s.me m)) ∧
            (u.homeReady y.part h.1 h.2 72 = false → exec i s = .next (u.wakeHome h.1))) ∧
        (as.length < y.barCnt →
          exec i s = .next ({ v with teams := kput u.teams t { y with bars := kput y.bars n as } }.updCore s.me fun k =>
            { k with wait := .sent c.accNext })))
  ∀ (s : State) (m : Bool) (n : BitVec 2) (x : BitVec 1),
    (s.ctlReady {} = true →
      (∀ v w, s.own.wait = .got v w → exec (.bar m n x) s = .next ((s.took []).ends s.me m)) ∧
      arrives (.bar m n x) s (s.took []) m n.toNat x none) ∧
    ∀ (a : R6) (u : State), s.ctlReady { names := [a], reads := [a] } = true →
      let va := s.reg s.me a
      (∀ v w, s.own.wait = .got v w → exec (.barG m n a x) s = .next ((s.took [a]).ends s.me m)) ∧
      (s.own.wait = .none →
        ((s.took [a]).checkRecord s.me va = (u, none) → arrives (.barG m n a x) s u m n.toNat x (some va)) ∧
        ∀ f, (s.took [a]).checkRecord s.me va = (u, some f) →
          exec (.barG m n a x) s = .next (u.raise s.me { f with word := (u.core s.me).curWord } (u.core s.me).pc))

/-! ### Registers as targets, messages and requests (chapters 07, 08 and 14) -/

/-- R196 and R318: ARM and ARM.K move k + 1 registers: a plain or armed one is armed, a full one stays full with its
value, and their keep bits are as the form gives. R319 and R36: MINTC checks its range word and writes the
capability of the running firing's registers to the pair. -/
def Obligations.RegistersAsTargets : Prop :=
  (∀ p ∈ [(Instr.arm, false), (Instr.armK, true)],
     ∀ (s : State) (m : Bool) (k : BitVec 3) (d : R6), d.toNat + k.toNat ≤ 63 →
       s.ctlReady { names := (List.range (k.toNat + 1)).map fun i => d + BitVec.ofNat 6 i } = true →
       nextWith (exec (p.1 m k d) s) fun t =>
         let named (q : Nat) : Prop := ∃ i ≤ k.toNat, q = s.own.keyOf (d + BitVec.ofNat 6 i)
         (∀ q, named q → kfind t.own.sb q = (if kfind s.own.sb q = some .full then some .full else some .armed) ∧
           (q ∈ t.own.keep ↔ p.2 = true)) ∧
         (∀ q, ¬named q → kfind t.own.sb q = kfind s.own.sb q ∧ (q ∈ t.own.keep ↔ q ∈ s.own.keep)) ∧
         t = s.setCore s.me t.own ∧
         t.own = { s.own with sb := t.own.sb, keep := t.own.keep, pc := s.own.pc + 4#64, guard := s.own.guard.tick
                              parkDue := s.own.parkDue || (m && !s.own.held.isEmpty), wait := .none }) ∧
  (∀ (s : State) (m : Bool) (b d : R6), s.ctlReady { names := [d, pairHi d, b], reads := [b] } = true →
     let v := s.reg s.me b
     let u := s.took [b]
     let first := v.toNat % 2 ^ 6
     let count := v.toNat / 2 ^ 6 % 2 ^ 7
     let raised (code : BitVec 8) := u.raise s.me { code := code, word := s.own.curWord } s.own.pc
     (v.toNat / 2 ^ 16 ≠ 0 → exec (.mintc m b d) s = .next (raised 0x04#8)) ∧
     (v.toNat / 2 ^ 16 = 0 → first = 0 ∨ count = 0 ∨ s.own.allot < first + count →
       exec (.mintc m b d) s = .next (raised 0x08#8)) ∧
     (v.toNat / 2 ^ 16 = 0 → first ≠ 0 → count ≠ 0 → first + count ≤ s.own.allot →
       ∀ w, s.own.curWk = some w →
         let cap := u.mintCap s.own.part.toNat s.me w.wsid w.gen count (v.toNat / 2 ^ 13 % 2 ^ 3) first
         exec (.mintc m b d) s =
           .next (((u.setReg s.me d (cap.setWidth 64)).setReg s.me (pairHi d) ((cap >>> 64).setWidth 64)).ends s.me m)))

/-- R320, R37 and R132: RPUT and RPUTT send a remote register write that passes capability checks 1 and 2; RPUT goes on at
once, RPUTT waits for its reply, whose status it writes to gB. A capability that fails is a fault of RPUT and a status of
RPUTT. -/
def Obligations.RemoteWritesAreSent : Prop :=
  ∀ (s : State) (m : Bool) (r : BitVec 1) (sc : BitVec 3) (b a i : R6),
    s.ctlReady { names := [a, pairHi a, b], reads := [a, pairHi a, b] } = true →
    let u := s.took [a, pairHi a, b]
    let cap : BitVec 128 := s.reg s.me (pairHi a) ++ s.reg s.me a
    let rel := if r = 1#1 then some sc else none
    let room := s.own.out < 4096 ∧ (r = 1#1 → s.own.relFull = false)
    let sent (tried : Bool) := u.postRemote s.me (capCore cap) (capAddr cap i.toNat)
      (.rput cap i.toNat (s.reg s.me b) rel tried) [] rel
    (capShape cap = true → capAllows cap i.toNat rel.isSome = true → room →
      exec (.rput m r sc b a i) s = .next ((sent false).ends s.me m) ∧
      (s.own.wait = .none →
        exec (.rputt m r sc b a i) s =
          .next ((sent true).updCore s.me fun c => { c with wait := .sent s.own.accNext }))) ∧
    (∀ v w, s.own.wait = .got v w → s.gives (.rputt m r sc b a i) s.own m [a, pairHi a, b] b v) ∧
    (capShape cap = false →
      exec (.rput m r sc b a i) s =
        .next (u.raise s.me { code := 0x0C#8, faddr := some (s.reg s.me a), word := s.own.curWord } s.own.pc) ∧
      (s.own.wait = .none → s.gives (.rputt m r sc b a i) s.own m [a, pairHi a, b] b 5#64)) ∧
    (capShape cap = true → capAllows cap i.toNat rel.isSome = false →
      exec (.rput m r sc b a i) s =
        .next (u.raise s.me { code := 0x08#8, faddr := some (capAddr cap i.toNat), word := s.own.curWord } s.own.pc) ∧
      (s.own.wait = .none → s.gives (.rputt m r sc b a i) s.own m [a, pairHi a, b] b 4#64))

/-- R321 and R322: an 8-byte SEND or SENDT whose control word passes its checks sends a message of that word alone, a
longer one the bytes that its payload holds as it issues, and the .REL forms send it as a release at device scope; SENDT
waits, and writes its reply to gD. A header, a payload address or a payload read that fails a check raises its fault at issue. R311: AMSG sends a
handler address and an argument to the handler context that its address names. -/
def Obligations.MessagesAreSent : Prop :=
  (∀ (s : State) (m : Bool) (b a d : R6),
     let w := s.reg s.me b
     let dst := w.toNat / 2 ^ 48 % 2 ^ 12
     let cls := w.toNat / 2 ^ 32 % 2 ^ 4
     let u := s.took [a, b]
     let fits := w.toNat / 2 ^ 60 = 0 ∧ w.toNat / 2 ^ 36 % 2 ^ 12 = 0 ∧ w.toNat % 2 ^ 32 = 8 ∧ cls ≠ 15 ∧
       u.destOk s.me dst = true
     let sent (tried : Bool) (rel : Option (BitVec 3)) :=
       u.postRemote s.me dst (s.reg s.me a) (.message cls w (s.reg s.me a) tried) [] rel
     (s.ctlReady { names := [a, b], reads := [a, b] } = true → s.own.wait = .none → fits → s.own.out < 4096 →
       exec (.send m b a) s = .next ((sent false none).ends s.me m) ∧
       (s.own.relFull = false → exec (.sendRel m b a) s = .next ((sent false (some 4#3)).ends s.me m))) ∧
     (s.ctlReady { names := [a, b, d], reads := [a, b] } = true →
       (s.own.wait = .none → fits → s.own.out < 4096 →
         exec (.sendt m b a d) s =
           .next ((sent true none).updCore s.me fun c => { c with wait := .sent s.own.accNext }) ∧
         (s.own.relFull = false → exec (.sendtRel m b a d) s =
           .next ((sent true (some 4#3)).updCore s.me fun c => { c with wait := .sent s.own.accNext }))) ∧
       ∀ v x, s.own.wait = .got v x →
         s.gives (.sendt m b a d) s.own m [a, b] d v ∧ s.gives (.sendtRel m b a d) s.own m [a, b] d v)) ∧
  (∀ (s : State) (m : Bool) (b a d : R6) (p : Instr × Bool × Bool),
     p ∈ [(Instr.send m b a, false, false), (.sendRel m b a, false, true), (.sendt m b a d, true, false),
       (.sendtRel m b a d, true, true)] →
     s.ctlReady { names := if p.2.1 then [a, b, d] else [a, b], reads := [a, b] } = true → s.own.wait = .none →
     let va := s.reg s.me a
     let w := s.reg s.me b
     let dst := w.toNat / 2 ^ 48 % 2 ^ 12
     let cls := w.toNat / 2 ^ 32 % 2 ^ 4
     let len := w.toNat % 2 ^ 16
     let n := len - 8
     let u := s.took [a, b]
     let raised (x : State) (f : Flt) : State := x.raise s.me { f with word := (x.core s.me).curWord } (x.core s.me).pc
     let reserved := w.toNat / 2 ^ 60 ≠ 0 ∨ w.toNat / 2 ^ 36 % 2 ^ 12 ≠ 0 ∨ w.toNat / 2 ^ 16 % 2 ^ 16 ≠ 0
     let access : Flt := { code := 0x08#8, faddr := some va }
     (reserved → exec p.1 s = .next (raised u { code := 0x04#8 })) ∧
     (¬reserved → (cls = 15 → exec p.1 s = .next (raised u { code := 0x02#8 })) ∧
       (cls ≠ 15 →
         (len < 8 ∨ 2048 < len ∨ u.destOk s.me dst = false → exec p.1 s = .next (raised u access)) ∧
         (8 < len → len ≤ 2048 → u.destOk s.me dst = true →
           let checked := u.check s.me { acc := .read, n := n, align := 8, only := fun k => k == 1 || k == 6 } va
           (∀ x f, checked = (x, .error f) → exec p.1 s = .next (raised x f)) ∧
           ∀ x t, checked = (x, .ok t) →
             let own := (clsOf va = 1 ∧ tileOf (va.toNat / 2 ^ 48 % 2 ^ 12) = tileOf s.me ∧ va.toNat % 2 ^ 48 + n ≤ 0x18000) ∨
               (clsOf va = 6 ∧ 0x800 ≤ s.me ∧ s.me < 0x840)
             (¬own → exec p.1 s = .next (raised x access)) ∧
             (own → x.homeReady s.own.part t.home t.key n = true → (x.core s.me).mayRead s.me t.home t.key n = true →
               (∀ y e, x.eccSpan t.key n = (y, some e) → exec p.1 s =
                 .next (raised y { code := 0x0B#8, faddr := some (va + BitVec.ofInt 64 e) })) ∧
               ∀ y, x.eccSpan t.key n = (y, none) → s.own.out < 4096 → (p.2.2 = true → s.own.relFull = false) →
                 let z := y.postRemote s.me dst va (.message cls w va p.2.1) (memReadN y.mem t.key n)
                   (if p.2.2 then some 4#3 else none)
                 exec p.1 s = .next (if p.2.1 then z.updCore s.me fun c => { c with wait := .sent s.own.accNext }
                   else z.ends s.me m)))))) ∧
  (∀ (s : State) (m : Bool) (b a k : R6), s.ctlReady { names := [a, b, pairHi b], reads := [a, b, pairHi b] } = true →
     let u := s.took [a, b, pairHi b]
     let ga := s.reg s.me a
     let pc := s.reg s.me b
     k.toNat ≠ 15 → clsOf ga = 1 → u.wellFormed ga 1 = true → clsOf pc = 1 → u.wellFormed pc 4 = true → pc.toNat % 4 = 0 →
     tileOf (pc.toNat / 2 ^ 48 % 2 ^ 12) = tileOf (ga.toNat / 2 ^ 48 % 2 ^ 12) → pc.toNat % 2 ^ 48 + 4 ≤ 0x18000 →
     u.checkClass s.me s.own.part s.own.mode .thread true ga 1 = none → s.own.out < 4096 →
     exec (.amsg m b a k) s = .next ((u.postRemote s.me (u.handlerCore ga) ga
       (.amsg k.toNat ga pc (s.reg s.me (pairHi b))) [] none).ends s.me m))

/-- R193, R194 and R323 to R325: SPAWN asks a core for a workspace and goes on when it was given, or runs the child inline;
FORK reads T and G, writes Left, asks for recruits and goes on as participant 0, or, with no share, reads Cont and goes on
there; JOIN subtracts from Left and goes on at Cont when it brings it to zero, else ends its firing once the words before it
have given their results and the sequencer is done; a JOIN that has subtracted its shares does not subtract them again. Both
make every check as they issue: that of the cell, and, for JOIN, a gB of zero and the reads of Cont and of the ports that an
end consumes (log entry 132); each that fails raises its fault. A gB above Left comes back as the access fault that JOIN then
raises (`AccessesArePerformed` says when). -/
def Obligations.Teamwork : Prop :=
  ∀ (s : State) (m : Bool) (b a : R6),
    (s.ctlReady { park := true, names := [a, b], reads := [a, b, 1#6, 2#6, 3#6, 4#6] } = true →
      let u := s.took [a, b, 1#6, 2#6, 3#6, 4#6]
      let entry := s.reg s.me a
      (∀ w, s.own.wait = .got 1#64 w → exec (.spawn m b a) s = .next (u.ends s.me m)) ∧
      (∀ v w, v ≠ 1#64 → s.own.wait = .got v w → exec (.spawn m b a) s =
        .next ((u.updCore s.me fun c => { c with inl := (s.own.pc + 4#64) :: c.inl }).endsAt s.me m entry)) ∧
      ∀ (u' : State) (k : Nat × Bool), s.own.wait = .none → u.checkFetch s.me entry = (u', .ok k) →
        (s.reg s.me b).toNat < 2 ^ 12 →
        let dst := (s.reg s.me b).toNat
        isArrayCore dst = true → isClearing dst = isClearing s.me →
        u'.holdsCore s.own.part.toNat dst = true → u'.retired dst = false → s.own.out < 4096 →
        exec (.spawn m b a) s = .next ((u'.postRemote s.me dst 0#64 (.spawn (s.own.callerWk.child entry)
          [u'.reg s.me 1#6, u'.reg s.me 2#6, u'.reg s.me 3#6, u'.reg s.me 4#6]) [] none).updCore s.me fun c =>
            { c with wait := .sent s.own.accNext })) ∧
    (s.ctlReady { names := [a, b], reads := [a, b] } = true →
      let va := s.reg s.me a
      let entry := s.reg s.me b
      let v := s.took [a, b]
      (∀ p n, s.own.wait = .got p n → exec (.fork m b a) s = .next (
        ((((v.setReg s.me 1#6 0#64).setReg s.me 2#6 p).setReg s.me 3#6 n).setReg s.me 4#6 va).endsAt s.me m entry)) ∧
      let raised (x : State) (f : Flt) : State := x.raise s.me { f with word := (x.core s.me).curWord } (x.core s.me).pc
      let leaves (x : State) : State :=
        if s.own.held ≠ [] then x.updCore s.me fun c => { c with parkDue := true }
        else if s.own.seqDone = true then x.endFiring s.me else x
      (∀ n, s.own.wait = .got entry n →
        exec (.join m b a) s = .next (v.endsAt s.me m (v.cellWord (v.cellAt va) 1))) ∧
      (∀ old n, s.own.wait = .got old n → old ≠ entry → exec (.join m b a) s =
        .next (leaves (v.updCore s.me fun c => { c with wait := .none, joined := some c.pc }))) ∧
      (∀ f, s.own.wait = .refused f → exec (.join m b a) s = .next (raised v f)) ∧
      (s.own.wait = .none → s.own.joined = some s.own.pc → exec (.join m b a) s = .next (leaves v)) ∧
      (s.own.wait = .none → s.own.joined ≠ some s.own.pc → s.own.inl ≠ [] →
        exec (.join m b a) s = .next (raised v { code := 0x02#8 })) ∧
      (∀ (u : State) (f : Flt), s.own.wait = .none →
        v.check s.me { acc := .write, n := 32, align := 32, only := fun k => k == 1 } va = (u, .error f) →
        exec (.fork m b a) s = .next (raised u f) ∧
        (s.own.joined ≠ some s.own.pc → s.own.inl = [] → exec (.join m b a) s = .next (raised u f))) ∧
      ∀ (u : State) (t : Target), s.own.wait = .none →
        v.check s.me { acc := .write, n := 32, align := 32, only := fun k => k == 1 } va = (u, .ok t) →
        let c := u.core s.me
        let bad (i : Nat) (d : Int) : Flt := { code := 0x0B#8, faddr := some (va + BitVec.ofNat 64 i + BitVec.ofInt 64 d) }
        (u.homeReady c.part t.home t.key 32 = true → c.mayRead s.me t.home t.key 32 = true →
          c.mayWrite s.me t.home t.key 8 = true → c.out < 4096 → ∀ x e, u.eccSpan (t.key + 16) 16 = (x, e) →
          (∀ d, e = some d → exec (.fork m b a) s = .next (raised x (bad 16 d))) ∧
          (e = none →
            let g := (x.cellWord t 3).toNat
            let shares := ((x.cellWord t 2).toNat + g - 1) / g
            let left (y : State) : State := (y.setHome t.home t.key (toBytes 8 shares)).afterWrite t.home
            (g = 0 → exec (.fork m b a) s = .next (raised x { code := 0x04#8 })) ∧
            (g ≠ 0 → shares = 0 → ∀ y e', x.eccSpan (t.key + 8) 8 = (y, e') →
              (e' = none → exec (.fork m b a) s = .next ((left y).endsAt s.me m (y.cellWord t 1))) ∧
              ∀ d, e' = some d → exec (.fork m b a) s = .next (raised y (bad 8 d))) ∧
            (g ≠ 0 → shares ≠ 0 → exec (.fork m b a) s = .next (((left x).postRemote s.me s.me va
              (.fork (c.callerWk.child entry) shares va) [] none (BitVec.ofNat 64 shares)).updCore s.me fun k =>
                { k with wait := .sent c.accNext })))) ∧
        (s.own.joined ≠ some s.own.pc → s.own.inl = [] →
          (entry = 0#64 → exec (.join m b a) s = .next (raised u { code := 0x08#8, faddr := some va })) ∧
          (entry ≠ 0#64 → s.own.out < 4096 → u.relBlocked s.me t.home t.key = false →
            ∀ x e, u.eccSpan (t.key + 8) 8 = (x, e) →
              (∀ d, e = some d → exec (.join m b a) s = .next (raised x (bad 8 d))) ∧
              (e = none → ∀ y f, x.portFault s.me = (y, f) →
                (∀ g, f = some g → exec (.join m b a) s = .next (raised y g)) ∧
                (f = none → exec (.join m b a) s =
                  .next ((y.issueAcc s.me { mkAcc .ctl (.atomic .join) va t 8 s.own.mode with
                    data := entry, acq := some 4#3, rel := some 4#3 }).updCore s.me fun k =>
                      { k with wait := .sent s.own.accNext }))))))

/-- R292, R293, R294, R330 and R468: pushes to qv and to the engine queues, pops, flags and VSTART. A core without a lease
posts its marker for the Wain at once, where qms has room; one with a lease, or with qms full, queues it (log entry 66). R326: MASKC and
UNMASKC set and clear one bit of cw.cmask; unmasking re-evaluates readiness. -/
def Obligations.QueuesFlagsAndMasks : Prop :=
  (∀ (s : State) (m : Bool),
     (∀ (q a : R6), s.ctlReady { array := true, names := [a], reads := [a] } = true →
       let u := s.took [a]
       let v := s.reg s.me a
       (q = 0#6 → s.own.seq.qv.length + s.own.acc.countP (fun x => x.st == .issued && x.kind == .qpush 0) < 16 →
         s.own.out < 4096 → s.own.relFull = false →
         exec (.qpush m q a) s = .next ((u.issueAcc s.me (localAcc .ctl (.qpush 0) 0 v true false)).ends s.me m)) ∧
       (q = 4#6 → s.own.qe.length < 16 →
         exec (.qpush m q a) s = .next ((u.updCore s.me fun c =>
           { c with
             accNext := c.accNext + 1
             qe := c.qe ++ [{ fn := fnMarker, recs := [BitVec.ofNat 64 (v.toNat % 2 ^ 60)], op := c.accNext }] }).ends s.me m)) ∧
       (q = 2#6 → s.own.qm.length < 16 → (u.leaseOf s.me).isSome = true ∨ 16 ≤ s.own.qms.length →
         exec (.qpush m q a) s = .next ((u.updCore s.me fun c =>
           { c with
             accNext := c.accNext + 1
             qm := c.qm ++ [{ fn := fnMarker, recs := [BitVec.ofNat 64 (v.toNat % 2 ^ 60)], op := c.accNext }] }).ends s.me m)) ∧
       (q = 2#6 → u.leaseOf s.me = none → s.own.qms.length < 16 →
         exec (.qpush m q a) s = .next ((u.updCore s.me fun c =>
           { c with qms := c.qms ++ [BitVec.ofNat 64 (v.toNat % 2 ^ 60)] }).ends s.me m)) ∧
       (s.own.seq.vstat.getLsbD 63 = false → s.own.seq.parkDue = false → s.own.out < 4096 → s.own.relFull = false →
         ∃ x : W64, (∀ i < 64, x.getLsbD i =
             if i = 63 then true else if i = 60 ∨ i = 61 then false else s.own.seq.vstat.getLsbD i) ∧
           exec (.vstart m a) s = .next (((u.updCore s.me fun c =>
             { c with seq := { c.seq with vpc := v, startPend := true, vstat := x, owner := c.curEnt, firing := c.owner s.me } }).issueAcc s.me
               (localAcc .ctl .vstart 128 v true false)).ends s.me m)) ∧
       (s.own.seq.vstat.getLsbD 63 = true → exec (.vstart m a) s = .next u)) ∧
     (∀ (q d : R6), s.ctlReady { array := true, long := true, names := [d] } = true →
       exec (.qpop m q d) s = .next ((((s.took []).issueAcc s.me
         (localAcc .ctl (.qpop q.toNat) q.toNat 0#64 false (q == 1#6))).holdResult s.me
           { dest := .reg d, waits := [s.own.accNext] }).ends s.me m) ∧
       ∀ n : R6, exec (.flgtst m n d) s = .next ((((s.took []).issueAcc s.me
         (localAcc .ctl (.flgtst n.toNat) (64 + n.toNat) 0#64 false true)).holdResult s.me
           { dest := .reg d, waits := [s.own.accNext] }).ends s.me m)) ∧
     (s.ctlReady { array := true } = true → s.own.out < 4096 → s.own.relFull = false → ∀ n : R6,
       exec (.flgset m n) s = .next (((s.took []).issueAcc s.me
         (localAcc .ctl (.flgset n.toNat true) (64 + n.toNat) 0#64 true false)).ends s.me m) ∧
       exec (.flgclr m n) s = .next (((s.took []).issueAcc s.me
         (localAcc .ctl (.flgset n.toNat false) (64 + n.toNat) 0#64 true false)).ends s.me m))) ∧
  (∀ (s : State) (m : Bool) (k : R6), s.ctlReady {} = true →
     ∃ x y : W64, (∀ i < 64, x.getLsbD i = (s.own.cmask.getLsbD i || decide (i = k.toNat)) ∧
         y.getLsbD i = (s.own.cmask.getLsbD i && decide (i ≠ k.toNat))) ∧
       exec (.maskc m k) s = .next (((s.took []).updCore s.me fun c => { c with cmask := x }).ends s.me m) ∧
       exec (.unmaskc m k) s =
         .next ((((s.took []).updCore s.me fun c => { c with cmask := y }).reevalTile (tileOf s.me)).ends s.me m))

/-- R327, R164 and R165 to R170: a mailbox word on an object the firing may use is issued; MPUB, MREAD and MREADV hold their
two words for the pair, the others count until they are performed. An object it may not use is the fault of R164. MUNPIN is
issued whatever the Status, Stale and reserved bits of gB (log entry 126). -/
def Obligations.MailboxWordsIssue : Prop :=
  ∀ (s : State) (m : Bool) (b a d : R6) (n : Nat),
    let va := s.reg s.me a
    let gb := s.reg s.me b
    let pairOf (u : State) (x : Acc) : State := ((u.issueAcc s.me x).holdResult s.me
      { dest := .pair d, waits := [s.own.accNext] }).ends s.me m
    let box (k : AccKind) (data cmp : W64) : Acc := mbAcc k n data cmp
    va.toNat = n → n < 1024 →
    (∀ f, s.objCheck s.own.part s.own.mode n = some f →
      let stops (i : Instr) (reads : List R6) : Prop :=
        exec i s = .next ((s.took reads).raise s.me { f with word := s.own.curWord } s.own.pc)
      (s.ctlReady { long := true, names := [a, d, pairHi d], reads := [a] } = true →
        stops (.mpub m a d) [a] ∧ stops (.mread m a d) [a]) ∧
      (s.ctlReady { long := true, names := [a, d, pairHi d, b, pairHi b], reads := [a, b, pairHi b] } = true →
        stops (.mreadv m b a d) [a, b, pairHi b]) ∧
      (s.ctlReady { names := [a], reads := [a] } = true → stops (.mcommit m a) [a]) ∧
      (s.ctlReady { names := [a, b], reads := [a, b] } = true →
        stops (.munpin m b a) [a, b] ∧ (gb.toNat < 2 ^ 48 → stops (.mreclaim m b a) [a, b]))) ∧
    (s.objCheck s.own.part s.own.mode n = none →
    (s.ctlReady { long := true, names := [a, d, pairHi d], reads := [a] } = true →
      (s.own.out < 4096 → exec (.mpub m a d) s = .next (pairOf (s.took [a]) (box .mpub 0#64 0#64))) ∧
      exec (.mread m a d) s = .next (pairOf (s.took [a]) { box .mread 0#64 0#64 with acq := some 4#3 })) ∧
    (s.ctlReady { long := true, names := [a, d, pairHi d, b, pairHi b], reads := [a, b, pairHi b] } = true →
      exec (.mreadv m b a d) s = .next (pairOf (s.took [a, b, pairHi b])
        { box .mreadv gb (s.reg s.me (pairHi b)) with acq := some 4#3 })) ∧
    (s.ctlReady { names := [a], reads := [a] } = true → s.own.out < 4096 → s.own.relFull = false →
      exec (.mcommit m a) s =
        .next (((s.took [a]).issueAcc s.me { box .mcommit 0#64 0#64 with rel := some 4#3 }).ends s.me m)) ∧
    (s.ctlReady { names := [a, b], reads := [a, b] } = true → s.own.out < 4096 →
      exec (.munpin m b a) s = .next (((s.took [a, b]).issueAcc s.me (box .munpin gb 0#64)).ends s.me m) ∧
      (gb.toNat < 2 ^ 48 →
        exec (.mreclaim m b a) s = .next (((s.took [a, b]).issueAcc s.me (box .mreclaim gb 0#64)).ends s.me m)) ∧
      (2 ^ 48 ≤ gb.toNat →
        exec (.mreclaim m b a) s =
          .next ((s.took [a, b]).raise s.me { code := 0x04#8, word := s.own.curWord } s.own.pc))))

/-! ### Engine words (chapter 15) -/

/-- R332, R333, R335 and R146: a COPY or COPYT whose record passes its checks enters the copy FIFO, locks its source and
its destination, each over the whole span from its first byte to its last, and is counted in cw.dseq; with the FIFO full COPY stalls and COPYT answers 1, without lock entries
2. R336 and R338: WLEASE asks for a lease and waits, WLEASET is granted one or told at once that it is not
(in a seized cluster once no tile is a Grove core's), and WREL
ends the core's lease and gives its tiles back. -/
def Obligations.CopiesAndLeases : Prop :=
  (∀ (s u : State) (m : Bool) (a d : R6) (ctr : Option Ctr),
     let blk := blockRegs a 4
     let r := s.block s.me a 4
     let c := u.core s.me
     (s.took blk).checkCopy s.me r = (u, .ok ctr) →
     (s.ctlReady { array := true, names := blk, reads := blk } = true →
       (c.fifo.length < 16 → c.rlk.length + 2 ≤ 128 →
         exec (.copy m a) s = .next ((u.setCore s.me (c.enterCopy s.me r ctr)).ends s.me m)) ∧
       (16 ≤ c.fifo.length ∨ 128 < c.rlk.length + 2 → exec (.copy m a) s = .next u)) ∧
     (s.ctlReady { array := true, names := d :: blk, reads := blk } = true →
       (c.fifo.length < 16 → c.rlk.length + 2 ≤ 128 →
         exec (.copyt m a d) s = .next (((u.setCore s.me (c.enterCopy s.me r ctr)).setReg s.me d 0#64).ends s.me m)) ∧
       (16 ≤ c.fifo.length → exec (.copyt m a d) s = .next ((u.setReg s.me d 1#64).ends s.me m)) ∧
       (c.fifo.length < 16 → 128 < c.rlk.length + 2 →
         exec (.copyt m a d) s = .next ((u.setReg s.me d 2#64).ends s.me m))) ∧
     let span (src : Bool) (a : W64) (stride : BitVec 24) : RLock :=
       let far : Int := stride.toInt * ((cpRows r : Int) - 1)
       { op := c.accNext, src := src, part := c.part, ctx := c.ctx, cls := clsOf a
         lo := ((rlAddr a : Int) + min 0 far).toNat, hi := ((rlAddr a : Int) + max 0 far).toNat + cpLen r }
     ∃ e : EngCmd, e.recs = r ∧ e.ctr = ctr ∧ e.op = c.accNext ∧ c.enterCopy s.me r ctr = { c with
       fifo := c.fifo ++ [e], dseq := c.dseq + 1#32, accNext := c.accNext + 1
       rlk := c.rlk ++ [span true (rw r 0) (((rw r 2) >>> 16).setWidth 24), span false (rw r 1) (((rw r 2) >>> 40).setWidth 24)] }) ∧
  (∀ (s : State) (m : Bool) (a d : R6),
     (s.ctlReady { array := true, names := [a, d], reads := [a] } = true →
       let u := s.took [a]
       let v := s.reg s.me a
       let cl := v.toNat % 2 ^ 12
       (∀ x y, s.own.wait = .got x y → s.gives (.wlease m a d) s.own m [a] d x) ∧
       (s.own.wait = .none → u.checkLease s.me v = none →
         exec (.wlease m a d) s = .next (((u.newTag s.me).1.updClu cl fun c =>
           { c with waiters := c.waiters ++ [{ core := s.me, spec := v, tag := s.own.accNext }] }).updCore s.me fun c =>
             { c with wait := .sent s.own.accNext })) ∧
       (u.checkLease s.me v = none →
         let t := u.cleanSeized cl
         let kept := (t.clu cl).seized.isSome = true ∧ (t.clu cl).holders true ≠ []
         (t.leaseRank cl s.me = none ∨ (t.clu cl).lease.isSome = true ∨ kept →
           exec (.wleaset m a d) s = .next ((t.setReg s.me d (1#64 <<< 63)).ends s.me m)) ∧
         ∀ k, t.leaseRank cl s.me = some k → (t.clu cl).lease = none → ¬kept →
           (∀ w ∈ (t.clu cl).waiters, ∀ j, t.leaseRank cl w.core = some j → k ≤ j) →
           let g := t.grantLease cl s.me v
           exec (.wleaset m a d) s =
             .next ((g.setReg s.me d (BitVec.ofNat 64 ((g.clu cl).holdMask s.me))).ends s.me m)) ∧
       ∀ f, u.checkLease s.me v = some f → exec (.wleaset m a d) s =
         .next (u.raise s.me { f with word := s.own.curWord } s.own.pc)) ∧
     (s.ctlReady { array := true, names := [a], reads := [a] } = true → (s.reg s.me a).toNat < 2 ^ 16 →
       let u := s.took [a]
       let g := match u.leaseOf s.me with
         | some (cl, _) => u.endLease cl
         | none => u
       exec (.wrel m a) s = .next ((match (g.core s.me).wlast with
         | some cl => g.updClu cl fun c => c.freeTiles s.me (s.reg s.me a).toNat
         | none => g).ends s.me m)))

/-- R339, R340, R344 to R348: a Wain command whose record passes its checks, under a lease that covers it, joins the
command queue with its locks and the address of its counter. The checks look at the rows that the command selects, the
locks cover each operand's whole span (log entry 62); WSTEP takes a Dec of any alignment (log entry 71), and the context that
a command runs under is the one held at its issue (log entry 65). R349, R351 and R352: a TEPI whose record passes its
checks joins the Tender's queue with its destination locked; TSTAT and WSTAT read the status words, and WSTAT clears
the dropped bit it reports. -/
def Obligations.WainAndTenderWords : Prop :=
  (∀ (s v : State) (m : Bool) (b a : R6) (ctr : Option Ctr),
     let joins (i : Instr) (u : State) (e : EngCmd) (locks : List RLock) : Prop :=
       u.leaseBad s.me e.tiles = false → u.checkTag s.me e.tag = (v, .ok ctr) →
       (v.core s.me).qm.length < 16 → (v.core s.me).rlk.length + locks.length ≤ 128 →
       exec i s = .next ((v.updCore s.me fun c =>
         { c with rlk := c.rlk ++ locks, accNext := c.accNext + 1, qm := c.qm ++ [{ e with ctr := ctr }] }).ends s.me m)
     let ready (n : Nat) : Prop := s.ctlReady { array := true, names := blockRegs a n, reads := blockRegs a n } = true
     let u (n : Nat) := s.took (blockRegs a n)
     let r (n : Nat) := s.block s.me a n
     let cmd (n fn : Nat) : EngCmd := (u n).wainCmd s.me fn (r n)
     (ready 5 →
       let e := cmd 5 fnWmma
       let w := rw (r 5) 3
       fld w 2 0 = 0 → fld w 15 7 ≤ pairK e.fmt.a.toNat e.fmt.b.toNat → (e.fmt.acc = 2#2 → bit w 6 = false) →
       tagBad (rw (r 5) 4) false = false → (rw (r 5) 0).toNat % 32 = 0 → (rw (r 5) 1).toNat % 32 = 0 →
       fld w 63 40 % 32 = 0 → fld w 39 16 % 32 = 0 → (u 5).spanFault s.me .wain false e.spans = none →
       joins (.wmma m a) (u 5) e (e.sources ((u 5).core s.me))) ∧
     (ready 2 →
       (let e := cmd 2 fnWzero
        fld (rw (r 2) 0) 63 24 = 0 →
         (if e.fmt.acc = 2#2 then ∀ t < 8, bit (rw (r 2) 0) (2 * t) = bit (rw (r 2) 0) (2 * t + 1)
           else fld (rw (r 2) 0) 23 16 = 0) →
         tagBad (rw (r 2) 1) false = false → joins (.wzero m a) (u 2) e []) ∧
       (fld (rw (r 2) 0) 63 35 = 0 → tagBad (rw (r 2) 1) false = false → joins (.wnorm m a) (u 2) (cmd 2 fnWnorm) [])) ∧
     (ready 3 →
       let e := cmd 3 fnWstep
       let w := rw (r 3) 1
       bit w 39 = false → fld w 35 33 ≠ fld w 38 36 → tagBad (rw (r 3) 2) false = false → fld w 63 40 % 32 = 0 →
       (u 3).spanFault s.me .wain false e.spans = none → e.fmt.acc = 2#2 →
       joins (.wstep m a) (u 3) e (e.sources ((u 3).core s.me))) ∧
     (s.ctlReady { array := true, names := [a, b], reads := [a, b] } = true →
       let t := s.took [a, b]
       let x := s.reg s.me a
       let g := s.reg s.me b
       ∀ cl y, fmtBad x g = false → t.leaseOf s.me = some (cl, y) →
         (0x80 ≤ cl → clearingPair (fld x 4 0) (fld x 9 5) (fld x 11 10) = true) → s.own.qm.length < 16 →
         exec (.wfmt m b a) s = .next ((t.updCore s.me fun c =>
           { c with qm := c.qm ++ [c.command s.me fnWfmt [x, g] cl (fmtWord x g) none], accNext := c.accNext + 1 }).ends s.me m)) ∧
     (s.ctlReady { array := true } = true →
       let t := s.took []
       ∀ cl y, t.leaseOf s.me = some (cl, y) → bit s.own.rowprog 63 = true →
         (∃ w ∈ (t.clu cl).wain, w.stopped = true ∧ w.core = s.me) → s.own.qm.length < 16 →
         exec (.wretry m) s = .next ((t.updCore s.me fun c =>
           { c with qm := c.qm ++ [c.command s.me fnWretry [] cl {} none], accNext := c.accNext + 1 }).ends s.me m))) ∧
  (∀ (s v : State) (m : Bool) (a d : R6) (ctr : Option Ctr),
     (let blk := blockRegs a 5
      let u := s.took blk
      let r := s.block s.me a 5
      let c := u.core s.me
      let cl := fld (rw r 4) 27 16
      let fmt := u.nextFmt s.me cl
      let e := c.command s.me fnTepi r cl fmt none
      let locks := [spanLock c e.op false (rw r 0) (stride24 (rw r 3) 63) 32 (4 * wainWidth (tpOut r))]
      s.ctlReady { array := true, names := blk, reads := blk } = true →
      tpBad r fmt = false → (rw r 0).toNat % 4 = 0 → fld (rw r 3) 63 40 % 4 = 0 →
      u.spanFault s.me .tender true (tpSpans r) = none → u.mayCommand s.me cl = true →
      (∀ t ∈ e.tiles, kfind (u.clu cl).holder t = some s.me) → u.checkTag s.me e.tag = (v, .ok ctr) →
      (v.core s.me).qe.length < 16 → (v.core s.me).rlk.length + locks.length ≤ 128 →
      exec (.tepi m a) s = .next ((v.updCore s.me fun c =>
        { c with rlk := c.rlk ++ locks, accNext := c.accNext + 1, qe := c.qe ++ [{ e with ctr := ctr }] }).ends s.me m)) ∧
     (s.ctlReady { array := true, names := [d] } = true →
       s.gives (.tstat m d) s.own m [] d ((s.took []).tstatWordOf s.me) ∧
       s.gives (.wstat m d) { s.own with wdrop := false } m [] d ((s.took []).wstatWord s.me)))

/-! ### Traps, control words, maintenance and the Station (chapters 02, 16 and 18) -/

/-- R359: TRAP raises cause 0x01 with cw.xinfo as gA, to resume at the word after (its word of the guard window is
used up when the trap is taken, log entry 82); TRET returns from the handler of the running firing, whose deferred faults
wait no longer, with the window that cw.tstat holds, whatever its count (log entry 43), and outside one is illegal: TRET with
a = 0 is R360. R361: TRET on a held firing asks its core and waits, and writes the reply to gD; the request word is checked
first. With their encodings. -/
def Obligations.TrapsAndReturns : Prop :=
  (∀ (s : State) (m : Bool),
     (∀ a : R6, s.ctlReady { names := [a], reads := [a] } = true →
       let c := (s.took [a]).own
       exec (.trap m a) s = .next (((s.took [a]).setCore s.me { c with
         parkDue := c.parkDue || (m && !c.held.isEmpty) }).raise s.me
           { code := 0x01#8, xinfo := some (s.reg s.me a), word := s.own.curWord } (s.own.pc + 4#64))) ∧
     (s.ctlReady { park := true } = true →
       (bit s.own.tstat 63 = true →
         ∃ x : W64, (∀ i < 64, x.getLsbD i = (s.own.tstat.getLsbD i && decide (i ≠ 63))) ∧
           exec (.tret m) s = .next (s.setCore s.me { s.own with
             pc := s.own.tpc, tstat := x, wait := .none
             deferred := s.own.deferred.map fun f =>
               if f.owner.id = (s.own.owner s.me).id then { f with later := false } else f
             guard := { rem := s.own.tstat.toNat / 2 ^ 6 % 2 ^ 4, sense := s.own.tstat.getLsbD 10
                        pred := s.own.tstat.getLsbD 11 } })) ∧
       (bit s.own.tstat 63 = false →
         exec (.tret m) s = .next ((s.took []).raise s.me { code := 0x02#8, word := s.own.curWord } s.own.pc)))) ∧
  (∀ (s : State) (m : Bool) (b a d : R6),
     s.ctlReady { least := .partition, park := true, names := [a, b, d], reads := [a, b] } = true →
     let u := s.took [a, b]
     let h := s.reg s.me a
     let act := s.reg s.me b
     (∀ v w, s.own.wait = .got v w → s.gives (.tretHeld m b a d) s.own m [a, b] d v) ∧
     (s.own.wait = .none →
       (u.tretBad s.me h act = none → exec (.tretHeld m b a d) s =
         .next (((u.newTag s.me).1.sendPkt { n := 0, src := s.me, dst := h.toNat / 2 ^ 48 % 2 ^ 12, part := s.own.part
                                             acc := s.own.accNext, kind := .tret h act (modeGe s.own.mode .hypervisor) }).updCore
           s.me fun c => { c with wait := .sent s.own.accNext })) ∧
       ∀ f, u.tretBad s.me h act = some f →
         exec (.tretHeld m b a d) s = .next (u.raise s.me { f with word := s.own.curWord } s.own.pc))) ∧
  (∀ (m : Bool) (b a d : R6),
     decode (wordOf m 0#6 0#6 a 0#6 0x73#7) = .ok (.trap m a) ∧
     (b ≠ 0#6 ∨ d ≠ 0#6 → isIllegal (wordOf m 0#6 b a d 0x73#7)) ∧
     decode (wordOf m 1#6 0#6 0#6 0#6 0x73#7) = .ok (.tret m) ∧
     (b ≠ 0#6 ∨ d ≠ 0#6 → isIllegal (wordOf m 1#6 b 0#6 d 0x73#7)) ∧
     (a ≠ 0#6 → decode (wordOf m 1#6 b a d 0x73#7) = .ok (.tretHeld m b a d)))

/-- R355 and R373: a fault taken by a firing that may trap sets cw.cause, cw.faddr and cw.xinfo, saves the resume address
and the guard window (one word less after a software trap, log entry 82), sets InT and goes on at its trap entry in the same
mode, with every register as it was; its other deferred faults wait for its return (R307), and results that the core holds stay held: the entry does not park (log
entry 37). A bad-capability fault posts its record as well (R38, log entry 108). -/
def Obligations.FaultsEnterTheTrapEntry : Prop :=
  ∀ (s : State) (l : Nat) (f : Flt) (resume : W64),
    let c := s.core l
    let cause := mkWord [(63, 1), (62, if f.late then 1 else 0), (61, if f.seq then 1 else 0), (59, f.eng.toNat), (0, f.code.toNat)]
    let g := if f.code = 0x01#8 then c.guard.tick else c.guard
    let tstat := mkWord [(63, 1), (11, if g.pred then 1 else 0), (10, if g.sense then 1 else 0), (6, g.rem)]
    let entered (handler : W64) : State := s.setCore l { c with
      deferred := c.deferred.map fun g => if g.owner.id = (c.owner l).id then { g with later := true } else g
      cause := cause, faddr := f.faddr.getD c.faddr, xinfo := f.xinfo.getD c.xinfo
      tpc := resume, tstat := tstat, guard := {}, pc := handler, wait := .none }
    (∀ t, c.wait ≠ .sent t) →
    (c.mode ≠ .station → 0x01#8 ≤ f.code → f.code ≤ 0x13#8 → bit c.tstat 63 = false →
      ∀ w, c.curWk = some w → w.trap ≠ 0#64 →
        (f.code ≠ 0x0C#8 → s.takeFault l f resume = entered w.trap) ∧
        (f.code = 0x0C#8 → s.takeFault l f resume = (entered w.trap).postRecord c.part
          ((entered w.trap).faultRecord l f (c.owner l) false false g resume))) ∧
    (c.mode = .station → bit c.tstat 63 = false → c.tvec ≠ 0#64 → s.takeFault l f resume = entered c.tvec)

/-- R355, R178 and R190: a fault that may not trap holds the firing: it leaves the core with St held, its resume address and
guard window kept with the workspace, and the return addresses of its inline children (R193); the reply that its word has is
kept too (log entry 144). R356: the fields of the record of a fault. R357: its posting to the partition's queue through the
slices: Lost, saturating, when the queue is full or not enabled, else the record, then Tail, then the fault actor's counter;
a queue whose header gives a data error takes no record (log entry 107). -/
def Obligations.FaultsHoldTheFiring : Prop :=
  (∀ (s : State) (l : Nat) (f : Flt) (o : Owner) (held nested : Bool) (g : Guard) (pc : W64),
    let c := s.core l
    ∃ w0 : W64, s.faultRecord l f o held nested g pc =
        [w0, o.ws, if f.seq then c.seq.vpc else pc, BitVec.ofNat 64 f.word.toNat, f.faddr.getD c.faddr, f.xinfo.getD c.xinfo,
          if f.seq then pc else f.detail, s.time] ∧
      (l < 4096 → g.rem < 16 →
      w0.extractLsb' 56 8 = f.code ∧ w0.getLsbD 55 = f.late ∧ w0.getLsbD 54 = f.seq ∧ w0.extractLsb' 52 2 = f.eng ∧
      w0.getLsbD 51 = held ∧ w0.getLsbD 50 = nested ∧ (w0.extractLsb' 46 4).toNat = g.rem ∧
      w0.getLsbD 45 = g.sense ∧ w0.getLsbD 44 = g.pred ∧ (w0.extractLsb' 42 2).toNat = modeCode o.mode ∧
      w0.extractLsb' 12 30 = 0#30 ∧ (w0.extractLsb' 0 12).toNat = l)) ∧
  (∀ (s : State) (p : BitVec 6) (ws : List W64),
    let d0 := s.dcw (0x044000 + 16 * p.toNat)
    let d1 := s.dcw (0x044008 + 16 * p.toNat)
    let base := d0.toNat / 2 ^ 12 % 2 ^ 36 * 2 ^ 12
    let slots := 2 ^ (d0.toNat / 2 ^ 48 % 2 ^ 4)
    let read := s.hwTouchSpan p 0#10 false true (base / 64) 1
    let u := read.1
    let word (k : Nat) : Nat := ofBytes (u.cohBytes (base + 8 * k) 8)
    let put (t : State) (pa : Nat) (bs : List Byte) : State :=
      ((t.hwTouchSpan p 0#10 false false (pa / 64) (spanLines pa bs.length)).1).cohWrite pa bs
    let tail := word 1
    let t1 := put u (base + 64 + 64 * (tail % slots)) (ws.flatMap fun w => toBytes 8 w.toNat)
    let t2 := put t1 (base + 8) (toBytes 8 (tail + 1))
    let t3 := if d1.getLsbD 63 then t2.lmPost (tileOf (d1.toNat / 2 ^ 48 % 2 ^ 12)) (d1.toNat % 2 ^ 17) else t2
    (read.2 = true → s.postRecord p ws = u) ∧
    (read.2 = false → (tail + 2 ^ 64 - word 0) % 2 ^ 64 = slots ∨ d0.getLsbD 63 = false →
      s.postRecord p ws = put u (base + 16) (toBytes 8 (min (word 2 + 1) (2 ^ 64 - 1)))) ∧
    (read.2 = false → (tail + 2 ^ 64 - word 0) % 2 ^ 64 ≠ slots → d0.getLsbD 63 = true →
      s.postRecord p ws = if (ws.headD 0#64).getLsbD 51 then { t3 with signals := t3.signals ||| 0x08#8 } else t3) ∧
    ∀ (tile off : Nat), s.lmLive tile = true →
      let v := s.scrub tile off 1
      s.lmPost tile off = (v.setLm tile off 8 ((v.lmNat tile off 8 + 1) % 2 ^ 64)).reevalTile tile) ∧
  ∀ (s : State) (l : Nat) (f : Flt) (resume : W64) (w : Wk),
    let c := s.core l
    let t := s.takeFault l f resume
    c.mode ≠ .station → c.curWk = some w → f.code = 0#8 ∨ 0x13#8 < f.code ∨ w.trap = 0#64 ∨ bit c.tstat 63 = true →
      (t.core l).run = false ∧ (t.core l).guard = {} ∧ (t.core l).wait = .none ∧ (t.core l).tpc = c.tpc ∧
      (t.core l).mode = c.mode ∧
      ∀ x ∈ (t.core l).dir, x.ent = w.ent →
        x.st = .held ∧ x.hpc = resume ∧ x.hguard = (if f.code = 0x01#8 then c.guard.tick else c.guard) ∧ x.hinl = c.inl ∧
        x.nested = bit c.tstat 63 ∧ ((∀ t, c.wait ≠ .sent t) → x.hwait = c.wait)

/-- R229 and R220: checks 3 to 5 in their order, for a word of either stream. -/
def Obligations.IssueChecksInOrder : Prop :=
  ∀ (i : Issue) (m : Bool) (s : State) (body : State → Nat → Out),
    let c := s.own
    let raised (code : BitVec 8) : State :=
      if s.mover.strm = .ctl then s.raise s.me { code := code, word := c.curWord } c.pc
      else s.seqTrap s.me { code := code, word := c.seq.curWord }
    let right := s.mover.strm = i.strm ∧ (i.array = true → isStation s.me = false)
    let may := modeCode i.least ≤ modeCode c.mode
    let inside := ∀ r ∈ i.names, r.toNat < c.allot
    (¬right → issueWord i m s body = raised 0x02#8) ∧ (right → ¬may → issueWord i m s body = raised 0x03#8) ∧
    (right → may → ¬inside → issueWord i m s body = raised 0x05#8) ∧
    (right → may → inside → s.mover.strm = .ctl → 0 < c.guard.rem → c.guard.pred ≠ c.guard.sense →
      issueWord i m s body = s.ends s.me m)

/-- R362 to R364: what CWR reads of each word of R363, and what CWW writes: the bits that the word's map makes writable, those
that a 1 clears, and no other; cw.wp takes a slot of the core that holds a resident workspace of the partition (R179), a
class entry is stamped with the writer's partition (R204), and a write of cw.cmask or of a class entry re-evaluates
readiness. A set reserved bit, a reserved selector or class mode is the reserved-field fault; below the word's mode either
word is the privilege fault. A write of a word whose fields are all read-only is ignored (log entry 114). -/
def Obligations.ControlWords : Prop :=
  ∀ (s : State) (m : Bool) (n r : R6),
    let k := n.toNat
    let readMode : Mode := if k = 23 then .station else .firing
    let writeMode : Mode := if k = 0 ∨ (32 ≤ k ∧ k ≤ 46) then .partition
      else if k = 2 ∨ k = 6 ∨ k = 23 then .station else if k = 17 then .hypervisor else .firing
    let low (i : Instr) (least : Mode) : Prop := s.mover.strm = .ctl → modeCode s.own.mode < modeCode least →
      exec i s = .next (s.raise s.me { code := 0x03#8, word := s.own.curWord } s.own.pc)
    low (.cwr m n r) readMode ∧ low (.cww m n r) writeMode ∧
    (s.ctlReady { least := readMode, names := [r] } = true →
      let u := s.took []
      let c := u.own
      let place := c.cur
      let wp : W64 := if (c.wkAt place).isNone then mkWord [(60, 1), (48, s.me)]
        else if place < 16 then mkWord [(60, 1), (48, s.me), (9, 0xC0 + 16 * (s.me % 4) + place)]
        else mkWord [(60, 1), (48, s.me), (47, 1), (45, place - 16)]
      (∀ p ∈ ([
          (0, wp), (1, mkWord [(12, if isArrayCore s.me && u.phys s.me != s.me then 1 else 0), (0, s.me)]), (2, c.xctx),
          (3, u.dcw (0x040000 + 8 * c.part.toNat)),
          (4, mkWord [(9, if (u.clu (clusterOf s.me)).seized.isSome then 1 else 0), (8, if u.isCommon s.me then 1 else 0),
            (0, c.part.toNat)]),
          (5, mkWord [(32, if u.isCommon s.me && u.slotEn then (u.edgeTime - u.time.toNat) / 1000 else 0), (0, u.slot.cur)]),
          (6, u.time), (7, BitVec.ofNat 64 c.out), (8, BitVec.ofNat 64 c.rlk.length), (9, c.cause), (10, c.faddr),
          (11, c.xinfo), (12, c.tpc), (13, c.tstat), (14, c.rowprog), (15, c.fflags.setWidth 64), (16, c.evsel), (17, c.wdog),
          (18, c.seq.vpc), (19, if c.seq.parkDue then setFld c.seq.vstat 62 62 1 else c.seq.vstat), (20, c.cmask),
          (21, c.cbase), (22, c.dseq.setWidth 64), (23, c.tvec)] : List (Nat × W64)),
        k = p.1 → s.gives (.cwr m n r) s.own m [] r p.2) ∧
      (24 ≤ k → k < 32 → s.gives (.cwr m n r) s.own m [] r ((kget c.ev (k - 24) 0#32).setWidth 64)) ∧
      (32 ≤ k → k < 48 → s.gives (.cwr m n r) s.own m [] r (kget c.cls (k - 32) 0#64)) ∧
      (48 ≤ k → exec (.cwr m n r) s = .next (u.raise s.me { code := 0x02#8, word := s.own.curWord } s.own.pc))) ∧
    (s.ctlReady { least := writeMode, park := n == 0#6, names := [r], reads := [r] } = true →
      let u := s.took [r]
      let c := u.core s.me
      let v := s.reg s.me r
      let bad (code : BitVec 8) : Prop := exec (.cww m n r) s = .next (u.raise s.me { code := code, word := c.curWord } c.pc)
      let gets (t : State) : Prop := exec (.cww m n r) s = .next (t.ends s.me m)
      let up (f : Core → Core) : State := u.updCore s.me f
      (∀ p ∈ ([(1, bits 63 13), (3, bits 63 58 ||| bits 27 22 ||| bits 15 0), (4, bits 63 10 ||| bits 7 6), (5, bits 31 6),
          (7, bits 63 13), (8, bits 63 8), (18, 0#64), (22, bits 63 32), (47, bits 55 54 ||| bits 47 17)] : List (Nat × W64)),
        k = p.1 → (v &&& p.2 ≠ 0#64 → bad 0x04#8) ∧ (v &&& p.2 = 0#64 → gets u)) ∧
      (∀ p ∈ ([
          (2, bits 63 16, up fun x => { x with xctx := v }), (6, 0#64, { u with time := v }),
          (9, bits 58 8, up fun x => { x with cause := c.cause &&& ~~~(v &&& bits 63 63) }),
          (10, 0#64, up fun x => { x with faddr := v }),
          (11, bits 52 46, up fun x => { x with xinfo := c.xinfo &&& ~~~(v &&& bits 63 63) }),
          (12, 0#64, up fun x => { x with tpc := v, joined := none }),
          (13, bits 62 12 ||| bits 5 0,
            up fun x => { x with tstat := (c.tstat &&& ~~~bits 11 6) ||| (v &&& bits 11 6) }),
          (14, bits 62 56 ||| bits 43 6, up fun x => { x with rowprog := c.rowprog &&& ~~~(v &&& bits 63 63) }),
          (15, bits 63 5, up fun x => { x with fflags := v.setWidth 5 }), (17, 0#64, up fun x => { x with wdog := v }),
          (19, bits 59 52 ||| bits 43 5, up fun x =>
            { x with seq := { x.seq with vstat := (x.seq.vstat &&& ~~~bits 4 0) ||| (v &&& bits 4 0) } }),
          (20, bits 63 15, (up fun x => { x with cmask := v }).reevalTile (tileOf s.me)),
          (21, bits 8 0, up fun x => { x with cbase := v }), (23, 0#64, up fun x => { x with tvec := v })] :
          List (Nat × W64 × State)),
        k = p.1 → (v &&& p.2.1 ≠ 0#64 → bad 0x04#8) ∧
          (v &&& p.2.1 = 0#64 → (k = 2 ∨ k = 6 ∨ k = 23 → s.own.mode = .station) → gets p.2.2)) ∧
      (k = 16 →
        let legal : Prop := v &&& bits 63 32 = 0#64 ∧ ∀ i < 8, fld v (4 * i + 3) (4 * i) ≤ 9
        (legal → gets (up fun x => { x with evsel := v })) ∧ (¬legal → bad 0x04#8)) ∧
      (24 ≤ k → k < 32 →
        (v &&& bits 63 32 ≠ 0#64 → bad 0x04#8) ∧
        (v &&& bits 63 32 = 0#64 → gets (up fun x => { x with ev := kput x.ev (k - 24) (v.setWidth 32) }))) ∧
      (32 ≤ k → k < 47 →
        let legal : Prop := v &&& (bits 55 54 ||| bits 47 17) = 0#64 ∧ fld v 61 59 ≤ 2
        let kept := kget c.cls (k - 32) 0#64 &&& (bits 55 48 ||| bits 47 17)
        let word := setFld ((v &&& (bits 63 56 ||| bits 16 0)) ||| kept) 53 48 c.part.toNat
        (legal → gets (((up fun x => { x with cls := kput x.cls (k - 32) word }).openBuf s.me (k - 32)).reeval s.me)) ∧
        (¬legal → bad 0x04#8)) ∧
      (k = 0 →
        let slot := fld v 16 9
        let base := 0xC0 + 16 * (s.me % 4)
        let holds : Prop := base ≤ slot ∧ slot < base + 16 ∧ ∃ w, c.wkAt (slot - base) = some w ∧ w.part = c.part
        (v &&& (bits 44 17 ||| bits 8 0) ≠ 0#64 → bad 0x04#8) ∧
        (v &&& (bits 44 17 ||| bits 8 0) = 0#64 → ¬holds → bad 0x08#8) ∧
        (v &&& (bits 44 17 ||| bits 8 0) = 0#64 → holds → gets (up fun x => { x with cur := slot - base }))))

/-- R60, R61, R365 and R366: a TLBINV or CMO whose operands pass its checks is outstanding from then on, behind the earlier
ones, with the writes it follows and its counter; with 16 of its kind outstanding it stalls. -/
def Obligations.MaintenanceStarts : Prop :=
  ∀ (s v : State) (m : Bool) (b a d : R6) (ctr : Option Ctr),
    let starts (i : Instr) (u : State) (tlb : Bool) (form : Nat) (x y : W64) : Prop :=
      u.maintCtr s.me d = (v, .ok ctr) →
      ((v.core s.me).maint.countP (fun k => k.tlbinv == tlb) < 16 →
        exec i s = .next ((v.updCore s.me fun c => { c with maint := c.maint ++ [{
          tlbinv := tlb, form := form, a := x, b := y, counter := ctr, part := c.part, ctx := c.ctx, mode := c.mode
          word := c.curWord, owner := c.owner s.me
          waits := (c.acc.filter fun e => e.party == .ctl && e.kind.counts).map (·.n) }] }).ends s.me m)) ∧
      (16 ≤ (v.core s.me).maint.countP (fun k => k.tlbinv == tlb) → exec i s = .next v)
    let x := s.reg s.me a
    let y := s.reg s.me b
    let three := s.took [a, b, d]
    let two := s.took [b, d]
    let pages := x.toNat / 2 ^ 12 % 2 ^ 36 * 4096 + (y.toNat / 2 ^ 16 % 2 ^ 16 + 1) * 4096 ≤ 2 ^ 48
    (s.ctlReady { least := .partition, names := [a, b, d], reads := [a, b, d] } = true →
      (y.toNat / 2 ^ 32 = 0 → y.toNat / 2 ^ 10 % 2 ^ 6 = 0 → x.toNat < 2 ^ 48 → three.ctxBad s.me (y.toNat % 2 ^ 10) = false →
        pages → starts (.tlbinvVa m b a d) three true 8 x y) ∧
      (x.toNat < 2 ^ 48 → y ≠ 0#64 → y.toNat ≤ 2 ^ 40 → isClearing s.me = false →
        starts (.cmoCl m b a d) three false 4 x y ∧ starts (.cmoCli m b a d) three false 5 x y ∧
          starts (.cmoInv m b a d) three false 6 x y)) ∧
    (s.ctlReady { least := .partition, names := [b, d], reads := [b, d] } = true →
      y.toNat < 2 ^ 10 → two.ctxBad s.me y.toNat = false → starts (.tlbinvCtx m b d) two true 9 0#64 y) ∧
    (s.ctlReady { least := .hypervisor, names := [a, b, d], reads := [a, b, d] } = true →
      y.toNat / 2 ^ 32 = 0 → y.toNat / 2 ^ 6 % 2 ^ 10 = 0 → x.toNat < 2 ^ 48 → pages →
      starts (.tlbinvIpa m b a d) three true 10 x y) ∧
    (s.ctlReady { least := .hypervisor, names := [b, d], reads := [b, d] } = true → y.toNat < 2 ^ 6 →
      starts (.tlbinvPart m b d) two true 11 0#64 y ∧ starts (.cmoClOwn m b d) two false 12 0#64 y ∧
        starts (.cmoCliOwn m b d) two false 13 0#64 y ∧ starts (.cmoInvOwn m b d) two false 14 0#64 y)

/-- R367 to R369: SEIZE takes all the Grove clusters it names or none, and says which; CEDE gives back those its partition
has, once no admitted work is left on them; in GROVEOFF SEIZE answers 1, and it wakes what it seizes (log entry 81);
YIELDSLOT donates the rest of the slot where its core is a common one of the
holder; after either, launches that wait for room are tried again (R381). -/
def Obligations.SeizureAndYield : Prop :=
  ∀ (s : State) (m : Bool) (a d : R6),
    (s.ctlReady { names := [a, pairHi a, d], reads := [a, pairHi a] } = true →
      let u := s.took [a, pairHi a]
      let cs := maskClusters (s.reg s.me a) (s.reg s.me (pairHi a))
      let q := s.own.part.toNat
      (isClearing s.me = false →
        exec (.seize m a d) s = .next (u.raise s.me { code := 0x08#8, word := s.own.curWord } s.own.pc)) ∧
      (isClearing s.me = true →
        (cs = [] → s.gives (.seize m a d) s.own m [a, pairHi a] d 3#64) ∧
        (cs ≠ [] → u.devState = 2 ∨ (∃ c ∈ cs, u.lendable q c = false) →
          s.gives (.seize m a d) s.own m [a, pairHi a] d 1#64) ∧
        (cs ≠ [] → u.devState ≠ 2 → (∀ c ∈ cs, u.lendable q c = true) →
          ((∃ c ∈ cs, ∃ p, (u.clu c).seized = some p ∧ p ≠ q) → s.gives (.seize m a d) s.own m [a, pairHi a] d 2#64) ∧
          ((∀ c ∈ cs, (u.clu c).seized = none ∨ (u.clu c).seized = some q) →
            exec (.seize m a d) s =
              .next (((cs.foldl (fun t c => (t.seizeCluster q c).wakeHome (.wbuf c)) u).setReg s.me d 0#64).ends s.me m))))) ∧
    (s.ctlReady { names := [a, pairHi a], reads := [a, pairHi a] } = true → isClearing s.me = true →
      let u := s.took [a, pairHi a]
      let cs := (maskClusters (s.reg s.me a) (s.reg s.me (pairHi a))).filter (u.seizedBy s.own.part.toNat)
      exec (.cede m a) s = .next (if cs.any u.clearingWork then u else (cs.foldl State.cedeCluster u).graphStep.ends s.me m)) ∧
    (s.ctlReady { least := .partition } = true →
      let u := s.took []
      exec (.yieldslot m) s = .next ((if u.isCommon s.me ∧ u.slot.holder = some s.own.part.toNat then u.donate.graphStep else u).ends
        s.me m))

/-- R370 to R379 and R433: the Station's words. RFETCH answers 1 where the ring is empty, else writes the next entry and
advances Head; SWAIT takes the signals it waits for, or answers 0 once its deadline has come; DISPATCH writes its status;
SPOST answers 1 where the completion queue is full, else writes the entry, aligned to 8 bytes (log entry 23), advances the
tail and finishes the slot's oldest ring entry that waits for one (log entry 18); an entry that reaches a second page is
checked there too (R44). A record that no RFETCH wrote is dispatched
for function 0 (log entry 19); a team whose cores are in retention, or whose slot has edge steps to make first, is not
placed yet, and its DISPATCH stalls. A host read or write that fails (log entry 10) is the fault of its word. -/
def Obligations.StationWords : Prop :=
  ∀ (s : State) (m : Bool) (b a d : R6),
    s.ctlReady { least := .station, names := [b, a, d], reads := [b, a] } = true →
    let failed (code : BitVec 8) (v : State) : State := v.raise s.me { code := code, word := (v.core s.me).curWord } (v.core s.me).pc
    let t := s.took [b, a]
    let va := s.reg s.me b
    let x := s.reg s.me a
    (∀ k u g, t.slotNamed x = some k → clsOf va = 0 →
      t.check s.me { acc := .write, n := 64, align := 64 } va = (u, .ok g) →
      (u.core s.me).stillOut g.home g.key 64 = false →
      (u.ringEmpty k = true → exec (.rfetch m b a d) s = .next ((u.setReg s.me d 1#64).ends s.me m)) ∧
      (u.ringEmpty k = false →
        let fn := u.slotFn k
        let qi := u.slotQi k
        let e := u.hostRead false ((u.w1Word fn qi 0).toNat / 64 * 64 + 64 * (u.ringHead fn qi % u.ringSize fn qi)) 64
        exec (.rfetch m b a d) s = .next (if u.hostBad = true then failed 0x21#8 u
          else ((((u.fetched k g.key).hwWrite (u.core s.me).part (u.core s.me).ctx g.na g.key e).copyEntry s.me fn g.key
            e).setReg s.me d 0#64).ends s.me m))) ∧
    (x.toNat < 256 →
      let p := t.signals &&& x.setWidth 8
      (p ≠ 0#8 → exec (.swait m b a d) s =
        .next (({ t with signals := t.signals &&& ~~~p }.setReg s.me d (p.setWidth 64)).ends s.me m)) ∧
      (p = 0#8 → va.toNat ≤ s.time.toNat → s.gives (.swait m b a d) s.own m [b, a] d 0#64) ∧
      (p = 0#8 → s.time.toNat < va.toNat → exec (.swait m b a d) s = .next t)) ∧
    (va.toNat < 2 → ∀ u key e, t.stationRecord s.me x = (u, some (some (key, e))) →
      let slot := (kget u.qrec key (256, 0)).1
      let n := (kget u.qrec key (256, 0)).2
      let fn := if slot < 256 then u.slotFn slot else 0
      let r := u.dispatch s.me fn slot n key e (va == 1#64)
      (r.2 = placeWaits → exec (.dispatch m b a d) s = .next r.1) ∧
      (r.2 ≠ placeWaits → exec (.dispatch m b a d) s =
        .next (((r.1.dispatched (ringOf fn slot n e) r.2).setReg s.me d (BitVec.ofNat 64 r.2)).ends s.me m))) ∧
    (∀ k u f, t.slotNamed x = some k → t.checkSpan s.me { acc := .read, n := 16, align := 8 } va = (u, .error f) →
      exec (.spost m b a d) s = .next (u.raise s.me { f with word := (u.core s.me).curWord } (u.core s.me).pc)) ∧
    (∀ k u ps, t.slotNamed x = some k → t.checkSpan s.me { acc := .read, n := 16, align := 8 } va = (u, .ok ps) →
      (∀ g ∈ ps, (u.core s.me).stillOut g.1.home g.1.key g.2 = false) →
      (u.cqFull (u.slotFn k) (u.slotQi k) = true → exec (.spost m b a d) s = .next ((u.setReg s.me d 1#64).ends s.me m)) ∧
      ∀ v bs, u.cqFull (u.slotFn k) (u.slotQi k) = false →
        u.stationReads s.me ps = (v, some bs) →
        let fn := u.slotFn k
        let qi := u.slotQi k
        let n := v.w1Word fn qi 5
        let at_ := fld (v.w1Word fn qi 2) 63 4 * 16 + 16 * (n.toNat % v.cqSize fn qi)
        exec (.spost m b a d) s = .next (if v.hostBad = true then failed 0x23#8 v
          else ((((v.hostWrite false at_ bs).setW1 fn qi 5 (n + 1#64)).posted k).setReg s.me d 0#64).ends s.me m))

/-! ### What the device does beside its words: parks, accesses, packets, firings (chapters 02, 04, 05, 07, 08 and 09) -/

/-- R215 to R218 and R296: a park waits until every held result has come back; then it writes them in issue order and ends.
A fault that a result carries leaves its register alone and is taken at the park, and so is the fault that waited for
it; the further ones wait for the firing's resumption (log entry 36). The sequencer parks in the same way, and a fault that
a result carried, or else the one found at its word, stops it (R304); a stop that waited for this park is made after it, or at
once where the results wait only for words that a held sequencer no longer takes (R305). A core on a stopped tile parks later
(R423). -/
def Obligations.ParksWriteResults : Prop :=
  ∀ (s : State) (l : Nat),
    let c := s.core l
    let q := c.seq
    let bare : Core := { c with held := [], parkDue := false }
    let halted (k : Core) (hld : Bool) : Core := { k with seq := { k.seq with
      stopDue := none
      vstat := setFld (setFld (setFld k.seq.vstat 63 63 0) 62 62 0) 60 60 (if hld then 1 else 0) } }
    (s.coreStopped l = true → exec (.park l false) s = .next s ∧ exec (.park l true) s = .next s) ∧
    (s.coreStopped l = false → c.parkDue = true →
      ((∃ h ∈ c.held, ∃ n ∈ h.waits, kfind c.ret n = none) → exec (.park l false) s = .next s) ∧
      ((∀ h ∈ c.held, ∀ n ∈ h.waits, (kfind c.ret n).isSome = true) → ∀ k fs, bare.writeAll c.held = (k, fs) →
        (fs = [] → c.holdDue = none → exec (.park l false) s = .next (s.setCore l k)) ∧
        (∀ f r, fs = [] → c.holdDue = some (f, r) →
          exec (.park l false) s = .next ((s.setCore l { k with holdDue := none }).takeFault l f r)) ∧
        ∀ f rest, fs = f :: rest →
          let waits := match c.holdDue with
            | some (d, _) => if d.late || d.seq then [d] else []
            | none => []
          exec (.park l false) s =
            .next ((s.setCore l { k with
              holdDue := none
              deferred := ((rest ++ waits).map fun g => { g with owner := k.owner l, later := true }) ++ k.deferred }).takeFault
                l f c.pc)) ∧
      ∀ (d : R6) (n : Nat) (x : BitVec 5) (w : W32),
        c.held = [{ dest := .reg d, waits := [n], fflags := x, word := w }] →
        (∀ v, kfind c.ret n = some { vals := [v] } → c.holdDue = none → c.cacheClean = true →
          nextWith (exec (.park l false) s) fun t =>
            t.reg l d = (if d = 0#6 then 0#64 else v) ∧ (t.core l).held = [] ∧ (t.core l).parkDue = false ∧
            (t.core l).fflags = c.fflags ||| x ∧ (t.core l).pc = c.pc) ∧
        (∀ r f, kfind c.ret n = some r → r.flt = some f → c.holdDue = none →
          exec (.park l false) s =
            .next ((s.setCore l { bare with ret := kdel c.ret n }).takeFault l { f with word := w } c.pc))) ∧
    (s.coreStopped l = false → q.parkDue = true → c.intr.any (·.ent == q.owner) = false →
      ((∃ h ∈ q.held, ∃ n ∈ h.waits, kfind c.ret n = none) → exec (.park l true) s =
        .next (s.setCore l (if q.stopDue = some true ∧ c.queueOnly = true then halted c true else c))) ∧
      ((∀ h ∈ q.held, ∀ n ∈ h.waits, (kfind c.ret n).isSome = true) → ∀ k fs,
        ({ c with seq := { q with held := [], parkDue := false, due := none } } : Core).writeAll q.held = (k, fs) →
        exec (.park l true) s = .next (match fs, q.due with
          | f :: rest, _ => rest.foldl (fun t g => t.giveFlt l q.firing c.part { g with seq := true, later := true })
              ((s.setCore l k).seqFault l f)
          | [], some f => (s.setCore l k).seqFault l f
          | [], none => s.setCore l (match q.stopDue with
            | some hld => halted k hld
            | none => k))))

/-- R128, R129 and R150: an access that no order holds back is performed at its home: a load brings the bytes there back,
a store writes them, an LM atomic joins the queue of its handler, which runs it later; forwarding gives a load the bytes
of an earlier store. R99 and R100: a hit is served at once, after a way whose arrays show an error has been retired (log
entry 100), a fill serves those that wait for its line; where it brings no data, a store to a failed channel is dropped
(R122) and any other access, a store too, takes the fault (log entry 99). R131: an acknowledged write no longer counts, and
what it carries goes where it is awaited. R152: class 0x8 goes to the host. A read that meets an error (log entry 7) is
answered by the data fault with the address of the bad word, R72. An AMSG handler runs in one step (log entry 84). At a slice
a load takes the bytes of the line, a store puts its own there and makes it dirty, in a slot way through to memory (R103,
R107), and an atomic at any home returns the old value and writes `atmNew` of it, ADDZ its notify word too when it makes the
count zero (R310), JOIN nothing where its shares are none or above Left, which is the access fault (R325). On an object whose
En has fallen an access takes the address fault (R160, log entry 141); a store of a reserved bit of a slot's status word takes
the reserved-field fault (R9, R178). R152: the proxy answers an AND, OR, XOR, MAX or ADDZ with the access fault. -/
def Obligations.AccessesArePerformed : Prop :=
  (∀ (s : State) (l n : Nat) (a : Acc), (s.core l).accNo n = some a → a.n = n →
     let c := s.core l
     let device : Prop := a.home = .sram ∨ a.home = .mbm ∨ (∃ t, a.home = .lm t) ∨ (∃ k, a.home = .wbuf k ∨ a.home = .abuf k)
     let onWay := s.checkWay a.key
     let hit (w : Way) : Prop := onWay.takeLost a.key = none ∧ onWay.wayOf a.key = some w ∧ w.st ≠ .pending ∧
       (onWay.counted a.key a.part true).noAlloc a.part a.ctx a.na a.key = false
     let served : State := ((onWay.counted a.key a.part true).touchLine a.key).memDo l a
     let off : Bool := a.home == .mbm && !(bit (s.objCfg a.obj) 63)
     let status : Prop := (∃ t, a.home = .lm t) ∧ 0x18000 ≤ a.key % 2 ^ 48 ∧ a.key % 2 ^ 48 / 8 % 64 = 0 ∧
       BitVec.ofNat 64 (a.data.toNat % 2 ^ (8 * a.len) * 2 ^ (8 * (a.key % 2 ^ 48 % 8))) &&& (bits 59 48 ||| bits 1 0) ≠ 0#64
     let fails (f : Flt) : State := s.updCore l fun c => c.updAcc n fun x => { x with st := .performed, flt := some f }
     (a.st = .issued → a.arr = 0 → a.grp = 0 →
       (c.mayPerform l a = false → a.home ≠ .ctl → exec (.accessPerform l n false) s = .next s) ∧
       (c.mayPerform l a = true → a.home ≠ .ctl → s.homeLive a.home = false →
         exec (.accessPerform l n false) s = .next (s.wakeHome a.home)) ∧
       (c.mayPerform l a = true → s.homeReady a.part a.home a.key a.span = true → s.objWaits l a = false →
         (off = true → a.kind = .load → exec (.accessPerform l n false) s =
           .next (s.updCore l fun c => c.returned n { flt := some { code := 0x07#8, faddr := some a.va, word := a.word } })) ∧
         (off = true → a.kind = .store → exec (.accessPerform l n false) s =
           .next (fails { code := 0x07#8, faddr := some a.va, word := a.word })) ∧
         (a.kind = .store → status → exec (.accessPerform l n false) s =
           .next (fails { code := 0x04#8, faddr := some a.va, word := a.word })) ∧
         (off = false → a.kind = .load → device → exec (.accessPerform l n false) s = .next (match s.eccSpan a.key a.len with
           | (t, some e) => t.updCore l fun c => c.returned n { flt := some { a.dataErr with faddr := some (a.va + BitVec.ofInt 64 e) } }
           | (t, none) => t.updCore l fun c => c.returned n { vals := [BitVec.ofNat 64 (t.homeNat a.home a.key a.len)] })) ∧
         (off = false → ¬status → a.kind = .store → device →
           exec (.accessPerform l n false) s =
             .next (((s.setHome a.home a.key (toBytes a.len a.data.toNat)).updCore l fun c => c.updAcc n fun x =>
               { x with st := .performed, data := 0#64, cmp := 0#64 }).afterWrite a.home)) ∧
         (∀ op t, a.kind = .atomic op → a.home = .lm t → (s.core (s.handlerCore a.va)).hq.length < 16 →
           exec (.accessPerform l n false) s =
             .next ((s.updCore (s.handlerCore a.va) fun c => { c with hq := c.hq ++ [{ src := l, acc := n, amsg := false }] }).updCore
               l fun c => c.updAcc n fun x => { x with st := .marker })) ∧
         (∀ w, a.kind = .load ∨ a.kind = .store → a.home = .mem → hit w →
           exec (.accessPerform l n false) s = .next served)) ∧
       ∀ e, a.kind = .load → c.forwardFrom l a = some e →
         exec (.accessPerform l n true) s = .next (s.updCore l fun c => c.returned n { vals := [forwardVal e a] })) ∧
     (∀ w, a.st = .marker → a.home = .mem → a.arr = 0 → c.mayPerform l a = true → hit w →
       exec (.heldReleasePerform l n) s = .next served) ∧
     (a.home = .foreign → a.st = .issued → c.mayPerform l a = true → c.foreignBefore a = false →
       let spare := decide (fld a.va 57 57 = 1)
       (a.kind = .load → exec (.proxyAccess l n) s =
         .next (s.updCore l fun c => c.returned n { vals := [BitVec.ofNat 64 (ofBytes (s.hostRead spare (fld a.va 56 0) a.len))] })) ∧
       (a.kind = .store → s.flw = false ∨ spare = true → exec (.proxyAccess l n) s =
         .next ((s.hostWrite spare (fld a.va 56 0) (toBytes a.len a.data.toNat)).updCore l fun c => c.updAcc n fun x =>
           { x with st := .performed, data := 0#64, cmp := 0#64 })) ∧
       ∀ op, a.kind = .atomic op → op ≠ .swap → op ≠ .add → op ≠ .cas → exec (.proxyAccess l n) s =
         .next (fails { code := 0x08#8, faddr := some a.va, word := a.word })) ∧
     (let gone := s.setCore l (c.dropAcc n)
      (a.st ≠ .performed → exec (.acknowledgement l n) s = .next s) ∧
      (a.st = .performed → a.flt = none →
        (c.waitsFor n = true → exec (.acknowledgement l n) s = .next (gone.reply l n (.got a.data a.cmp))) ∧
        (c.waitsFor n = false → c.holdsFor n = true → exec (.acknowledgement l n) s =
          .next (gone.updCore l fun c => { c with ret := kput c.ret n { vals := [a.data, a.cmp] } })) ∧
        (c.waitsFor n = false → c.holdsFor n = false → exec (.acknowledgement l n) s = .next gone)) ∧
      ∀ f, a.st = .performed → a.flt = some f → c.waitsFor n = false → c.holdsFor n = false →
        exec (.acknowledgement l n) s = .next (gone.deferFlt l a.owner a.part f))) ∧
  (∀ (s : State) (line : Nat) (w : Way), s.wayOf (64 * line) = some w → w.st = .pending →
     let t := (s.fillLine (64 * line)).1
     let bad := (s.fillLine (64 * line)).2
     exec (.cacheFill line) s = .next (((s.waitersOf line).foldl
       (fun t x => if bad = true ∧ ¬(x.2.kind = .store ∧ t.chanFailed x.2.key = true) then t.retFlt x.1 x.2 x.2.dataErr
         else t.memDo x.1 x.2) t).admitQueued (64 * line)) ∧
     t.wayOf (64 * line) = if bad then none else some { w with st := .clean, data := s.dramLine (64 * line) }) ∧
  (∀ (s : State) (l : Nat) (h : HqEnt) (rest : List HqEnt), (s.core l).hq = h :: rest →
     let taken := s.updCore l fun c => { c with hq := rest }
     (∀ a, h.amsg = false → (s.core h.src).accNo h.acc = some a → exec (.atomicHandler l) s =
       .next (match taken.eccAcc a with
         | (t, some f) => t.retFlt h.src a f
         | (t, none) => if t.statusBad a then t.retFlt h.src a { code := 0x04#8, faddr := some a.va, word := a.word }
           else t.doBytes h.src a)) ∧
     (h.amsg = true → s.homeLive (.lm (tileOf l)) = true →
       exec (.amsgHandlerRun l) s =
         .next ((taken.handlerRun l h.part (handlerStart (taken.core l) h) 256 2560).reevalTile (tileOf l)))) ∧
  (∀ (s : State) (l : Nat) (a : Acc),
     let ends (t : State) (v : W64) : State := t.updCore l fun c => c.updAcc a.n fun x =>
       { x with st := .performed, data := v, cmp := 0#64 }
     let atomic (op : AtmOp) (rd : State → Nat → Nat → Nat) (wr : State → Nat → List Byte → State) : State :=
       let old := rd s a.key a.len
       if op = .join ∧ (a.data = 0#64 ∨ old < a.data.toNat) then
         s.updCore l fun c => c.updAcc a.n fun x =>
           { x with st := .performed, flt := some { code := 0x08#8, faddr := some a.va, word := a.word } }
       else
         match atmNew op a.len old a.data.toNat a.cmp.toNat with
         | none => ends s (BitVec.ofNat 64 old)
         | some v =>
           let t := wr s a.key (toBytes a.len v)
           ends (if op = .addz ∧ v = 0 then wr t (a.key + 8) (toBytes 8 (rd t (a.key + 8) 8 + 1)) else t) (BitVec.ofNat 64 old)
     (a.kind = .load → s.memDo l a =
       s.updCore l fun c => c.returned a.n { vals := [BitVec.ofNat 64 (ofBytes (s.cohBytes a.key a.len))] }) ∧
     (a.kind = .store → s.memDo l a = ends (s.cohWrite a.key (toBytes a.len a.data.toNat)) 0#64) ∧
     ∀ op, a.kind = .atomic op →
       s.memDo l a = atomic op (fun t k n => ofBytes (t.cohBytes k n)) State.cohWrite ∧
       s.doBytes l a = (atomic op (fun t k n => t.homeNat a.home k n) fun t k bs => t.setHome a.home k bs).afterWrite a.home) ∧
  (∀ (s : State) (pa : Nat) (bs : List Byte) (w : Way), s.wayOf pa = some w → w.st ≠ .pending → bs ≠ [] →
     pa % 64 + bs.length ≤ 64 →
     let byte (d : V512) (i : Nat) : Byte := BitVec.ofNat 8 (d.toNat / 2 ^ (8 * i))
     let t := s.cohWrite pa bs
     let through : Bool := (s.slotWays (sliceOf pa)).testBit w.w
     (∀ n, pa % 64 + n ≤ 64 → s.cohBytes pa n = (List.range n).map fun i => byte w.data (pa % 64 + i)) ∧
     (∃ d : V512, t.wayOf pa = some { w with st := if through then w.st else .dirty, data := d } ∧
       ∀ i < 64, byte d i = if pa % 64 ≤ i ∧ i < pa % 64 + bs.length then bs.getD (i - pa % 64) 0#8 else byte w.data i) ∧
     (through = false → t.mem = s.mem) ∧
     (through = true → s.chanFailed pa = false → t.mem = memWriteN s.mem pa bs))

/-- R53 and R57: a walk of an address of the running firing installs its translation, or the firing takes the fault at its
running word (log entry 85). R62 to R64: a TLBINV, once the writes before it are acknowledged, removes every entry it
names, and no other, from the L1 and L2 TLBs, the load-pipe TLBs and the walk caches, and its counter rises when the accesses
and copy units translated through them are performed (log entry 80). R365 and R366: the oldest CMO runs over its pages in
order, or over every line of its owner, and its counter rises; a page that faults is a deferred fault. Either is outstanding
until its counter's home takes the increment. A counter rises by one at its home; one that cannot be translated or read stays,
and the fault is deferred (log entry 109). -/
def Obligations.WalksAndMaintenanceComplete : Prop :=
  (∀ (s u : State) (l : Nat) (va : W64) (wr : Bool), (s.core l).run = true → (s.core l).holdDue = none → va.toNat < 2 ^ 48 →
     let c := s.core l
     let acc : XAcc := if wr then .write else .read
     (∀ r, s.translate l c.part c.ctx c.mode acc va.toNat = (u, .ok r) → exec (.translationWalk l va wr) s = .next u) ∧
     ∀ f, s.translate l c.part c.ctx c.mode acc va.toNat = (u, .error f) →
       exec (.translationWalk l va wr) s = .next (u.raise l { xlatFlt f acc c.ctx va with word := c.curWord } c.pc)) ∧
  (∀ (s : State) (l : Nat) (x : Maint), (s.core l).maint.find? (·.tlbinv) = some x →
     let rises (x : Maint) : Option CtrAdd := x.counter.map fun c => { core := l, op := none, part := x.part, ctx := x.ctx, mode := x.mode
                                                                       ctr := c, owner := x.owner, eng := 0#2, word := x.word }
     let lo := x.a.toNat / 2 ^ 12 % 2 ^ 36 * 4096
     let hi := lo + (x.b.toNat / 2 ^ 16 % 2 ^ 16 + 1) * 4096
     let inCtx (c : BitVec 10) : Prop := c.toNat = x.b.toNat % 2 ^ 10
     let inPart (p : BitVec 6) : Prop := p.toNat = x.b.toNat % 2 ^ 6
     let named (e : TlbE) : Prop :=
       if x.form = 8 then inCtx e.ctx ∧ e.va < hi ∧ lo < e.va + 2 ^ e.size
       else if x.form = 9 then inCtx e.ctx else inPart e.part
     let walkNamed (e : Wce) : Prop :=
       let b := if e.level = 1 then 36 else 24
       let n := match e.leaf with | some f => f.bits | none => b
       let base := e.input * 2 ^ b / 2 ^ n * 2 ^ n
       let covers : Prop := base < hi ∧ lo < base + 2 ^ n
       if x.form = 8 then e.s2 = false ∧ inCtx e.ctx ∧ covers
       else if x.form = 9 then e.s2 = false ∧ inCtx e.ctx
       else if x.form = 10 then inPart e.part ∧ (e.s2 = false ∨ covers)
       else inPart e.part
     (x.started = false → (∀ n ∈ x.waits, (s.core l).accNo n = none) →
       nextWith (exec (.tlbinvComplete l) s) fun t =>
         t = (s.tlbRemove x.form x.a x.b).updCore l (fun c => { c with maint := setMaint true (some
           { x with started := true, removed := s.namedAccs x, copies := s.namedCopies x }) c.maint }) ∧
         (∀ k e, (e ∈ (t.core k).tlb1 ↔ e ∈ (s.core k).tlb1 ∧ ¬named e) ∧ (e ∈ (t.clu k).tlb2 ↔ e ∈ (s.clu k).tlb2 ∧ ¬named e) ∧
           (e ∈ (t.clu k).tlbLp ↔ e ∈ (s.clu k).tlbLp ∧ ¬named e)) ∧
         ∀ e, e ∈ t.walkc ↔ e ∈ s.walkc ∧ ¬walkNamed e) ∧
     (x.started = false → (∃ n ∈ x.waits, (s.core l).accNo n ≠ none) → exec (.tlbinvComplete l) s = .next s) ∧
     (x.started = true → s.maintSettled x = false → exec (.tlbinvComplete l) s = .next s) ∧
     (x.started = true → s.maintSettled x = true →
       (∀ y, rises x = some y → s.homeReady x.part y.ctr.home y.ctr.key 8 = false →
         exec (.tlbinvComplete l) s = .next (s.wakeHome y.ctr.home)) ∧
       ((∀ y, rises x = some y → s.homeReady x.part y.ctr.home y.ctr.key 8 = true) → exec (.tlbinvComplete l) s =
         .next ((s.counterPost (rises x)).updCore l fun c => { c with maint := setMaint true none c.maint })))) ∧
  (∀ (s : State) (y : CtrAdd), y.op = none →
     let c := y.ctr
     let faults (t : State) (f : Flt) : State := t.deferFlt y.core y.owner y.part { f with eng := y.eng, word := y.word }
     s.counterPost none = s ∧
     (s.homeReady y.part c.home c.key 8 = true → s.counterPost (some y) = s.counterAdd y) ∧
     (s.homeReady y.part c.home c.key 8 = false → s.counterPost (some y) = { s.wakeHome c.home with addq := s.addq ++ [y] }) ∧
     (c.home ≠ .mem → ∀ t d, s.eccSpan c.key 8 = (t, d) → s.counterAdd y = match d with
       | none => (t.setHome c.home c.key (toBytes 8 (t.homeNat c.home c.key 8 + 1))).afterWrite c.home
       | some d => faults t { code := 0x0B#8, faddr := some (c.va + BitVec.ofInt 64 d) }) ∧
     (c.home = .mem → ∀ t,
       (∀ f, s.translate y.core y.part y.ctx y.mode .drayWrite (c.va.toNat % 2 ^ 48) = (t, .error f) →
         s.counterAdd y = faults t { code := 0x0A#8, faddr := some c.va, xinfo := some (f.word .drayWrite y.ctx) }) ∧
       ∀ r u bad, s.translate y.core y.part y.ctx y.mode .drayWrite (c.va.toNat % 2 ^ 48) = (t, .ok r) →
         t.hwTouch y.part y.ctx r.na true r.pa = (u, bad) →
         s.counterAdd y = if bad = true then faults u { code := 0x0B#8, faddr := some c.va }
           else u.cohWrite r.pa (toBytes 8 (ofBytes (u.cohBytes r.pa 8) + 1)))) ∧
  (∀ (s : State) (l : Nat) (x : Maint), (s.core l).maint.find? (fun k => !k.tlbinv) = some x →
     let rises (x : Maint) : Option CtrAdd := x.counter.map fun c => { core := l, op := none, part := x.part, ctx := x.ctx, mode := x.mode
                                                                       ctr := c, owner := x.owner, eng := 0#2, word := x.word }
     let op := if x.form % 8 = 6 ∧ x.mode = .partition then 5 else x.form % 8
     let va := x.a.toNat % 2 ^ 48
     let counted (v : State) : State :=
       (v.counterPost (rises x)).updCore l fun c => { c with maint := setMaint false none c.maint }
     ((∃ n ∈ x.waits, (s.core l).accNo n ≠ none) → exec (.cmoComplete l) s = .next s) ∧
     ((∀ n ∈ x.waits, (s.core l).accNo n = none) →
       ∀ y, rises x = some y → s.homeReady x.part y.ctr.home y.ctr.key 8 = false →
         exec (.cmoComplete l) s = .next (s.wakeHome y.ctr.home)) ∧
     ((∀ n ∈ x.waits, (s.core l).accNo n = none) →
       (∀ y, rises x = some y → s.homeReady x.part y.ctr.home y.ctr.key 8 = true) →
       (8 ≤ x.form → exec (.cmoComplete l) s = .next (counted (s.cmoOwner op (x.b.setWidth 6)))) ∧
       ∀ v f, x.form < 8 → s.cmoPages l op x va ((va + x.b.toNat - 1) / 4096 - va / 4096 + 1) = (v, f) →
         exec (.cmoComplete l) s = .next (match f with
           | none => counted v
           | some f => (counted v).deferFlt l x.owner x.part { f with word := x.word, late := true })))

/-- R203 to R210, R205 and R322: a message that may arrive is placed, in the buffer or the channel that its class is bound to,
or its refusal counts at the sender, which tries again, gets the reason, or takes the fault; one for a buffer that its team's save
has shut finds no room there (R406, log entry 139), and a descriptor word with an error is scrubbed first (log entry 138); R37,
R196, R197, R320: a remote write meets its checks in their order and the scoreboard, of the register in its core, which takes
the value, or of the one in its backing record; R193, R194, R323 and R324: a spawn or recruitment allocates and replies; R361: a request about a held firing abandons or resumes
it; R209: a credit; R29: a forward-end marker; R311: a handler entry. -/
def Obligations.PacketsArrive : Prop :=
  (∀ (s : State) (n : Nat) (p : Pkt), s.pkt n = some p → s.mayArrive p = true →
     (∀ cls word faddr tried u r, p.kind = .message cls word faddr tried →
       s.arriveMsg p.dst cls p.src p.part p.bytes = (u, r) →
       let v := u.countEv p.src evRefusal 1
       (r = 0 → exec (.messageArrival n) s = .next ((u.dropPkt p).remoteDone p.src p.acc 0#64 none)) ∧
       (r ≠ 0 → tried = true →
         exec (.messageArrival n) s = .next ((v.dropPkt p).remoteDone p.src p.acc (BitVec.ofNat 64 r) none)) ∧
       (r = 1 → tried = false → exec (.messageArrival n) s =
         .next (v.updCore p.src fun c => { c with sendq := c.sendq ++ [(p.n, v.time.toNat + 256)] })) ∧
       ∀ a, r ≠ 0 → r ≠ 1 → tried = false → (v.core p.src).accNo p.acc = some a → exec (.messageArrival n) s =
         .next ((v.dropPkt p).remoteDone p.src p.acc 0#64 (some { code := 0x11#8, faddr := some faddr, xinfo := some word,
                                                                   detail := BitVec.ofNat 64 r, word := a.word }))) ∧
     (∀ cls ga pc arg, p.kind = .amsg cls ga pc arg → (s.core p.dst).hq.length < 16 → exec (.messageArrival n) s =
       .next (((s.updCore p.dst fun c => { c with hq := c.hq ++ [{ src := p.src, acc := p.acc, amsg := true, pc := pc, ga := ga,
                                                                    arg := arg, part := p.part }] }).dropPkt p).remoteDone
         p.src p.acc 0#64 none)) ∧
     (∀ buf port units, p.kind = .credit buf port units →
       exec (.credit n) s = .next (((s.dropPkt p).setLm (tileOf p.dst) port 8 units).reevalTile (tileOf p.dst))) ∧
     (∀ cap i x rel tried u r, p.kind = .rput cap i x rel tried → s.remoteWrite p cap i x = (u, r) →
       (tried = true → exec (.remoteWriteArrival n) s = .next ((u.dropPkt p).remoteDone p.src p.acc
         (mkWord [(0, r), (8, if r = 6 then 0x0B else 0)]) none)) ∧
       (tried = false → r = 0 → exec (.remoteWriteArrival n) s = .next ((u.dropPkt p).remoteDone p.src p.acc 0#64 none)) ∧
       ∀ a, tried = false → r ≠ 0 → ((u.dropPkt p).core p.src).accNo p.acc = some a → exec (.remoteWriteArrival n) s =
         .next ((u.dropPkt p).remoteDone p.src p.acc 0#64 (some { code := remoteCause r, faddr := some (capAddr cap i), word := a.word }))) ∧
     (∀ w g, p.kind = .spawn w g → s.net.find? (fun q => q.dst == p.dst && s.mayArrive q &&
         (match q.kind with | .spawn _ _ => true | _ => false)) = some p →
       (∀ u k, s.retired p.dst = false → (s.dropPkt p).allocWk p.dst w g = some (u, k) →
         exec (.spawnAllocate p.dst) s = .next ((u.remoteDone p.src p.acc 1#64 none).reeval p.dst)) ∧
       (s.retired p.dst = true ∨ (s.dropPkt p).allocWk p.dst w g = none →
         exec (.spawnAllocate p.dst) s = .next ((s.dropPkt p).remoteDone p.src p.acc 0#64 none))) ∧
     (∀ h act way u r, p.kind = .tret h act way → s.net.find? (fun q => q.dst == p.dst && s.mayArrive q &&
         (match q.kind with | .tret _ _ _ => true | _ => false)) = some p →
       (s.dropPkt p).heldRequest p.dst h act = (u, r) →
         exec (.heldFiringRequest p.dst) s = .next (u.reply p.src p.acc (.got (BitVec.ofNat 64 r) 0#64)))) ∧
  (∀ (s : State) (l cls sender : Nat) (part : BitVec 6) (body : List Byte),
     let w := kget (s.core l).cls cls 0#64
     let tile := tileOf l
     let d := fld w 16 0
     let z := if fld w 61 59 = 1 ∧ d % 32 = 0 ∧ d + 32 ≤ 0x18000 then s.scrub tile d 4 else s
     let d0 := z.lm64 tile d
     let d1 := z.lm64 tile (d + 8)
     let d3 := z.lm64 tile (d + 24)
     let m := (body.length + 8 + 63) / 64
     let base := fld d0 16 0
     let units := fld d0 27 17
     let valid : Prop := d % 32 = 0 ∧ d + 32 ≤ 0x18000 ∧ 2 ≤ units ∧ units ≤ 1024 ∧ base % 64 = 0 ∧ base + 64 * units ≤ 0x18000
     let arrives := s.arriveMsg l cls sender part body
     let stranger : Prop := fld w 53 48 ≠ part.toNat ∧ bit w 62 = false
     (s.upset = false → z = s) ∧ (bit w 63 = false ∨ fld w 61 59 = 0 → arrives = (s, 3)) ∧
     (bit w 63 = true → fld w 61 59 ≠ 0 → ∀ n, s.shutBuf l cls = some n →
       (stranger → arrives = (s, 4)) ∧ (¬stranger → arrives = (s, if n - 1 < m then 2 else 1))) ∧
     (s.shutBuf l cls = none → bit w 63 = true → fld w 61 59 = 1 → ¬valid → arrives = (z, 3)) ∧
     (s.shutBuf l cls = none → bit w 63 = true → fld w 61 59 = 2 ∨ (fld w 61 59 = 1 ∧ valid) → stranger → arrives = (z, 4)) ∧
     (s.shutBuf l cls = none → bit w 63 = true → fld w 61 59 = 1 → valid → ¬stranger →
       let refused : State := z.setLm tile (d + 24) 8 (setFld d3 63 32 (satAdd (fld d3 63 32) 1 (2 ^ 32 - 1))).toNat
       let used := fld d1 42 32
       let head := if used = 0 then 0 else fld d1 9 0
       let tail := if used = 0 then 0 else fld d1 25 16
       let straight : Prop := used < units ∧
         ((head ≤ tail ∧ m ≤ units - tail) ∨ (tail < head ∧ m ≤ head - tail))
       let skips : Prop := used < units ∧ head ≤ tail ∧ units - tail < m ∧ m ≤ head
       (units - 1 < m → arrives = (refused, 2)) ∧
       (m ≤ units - 1 → z.bufClosed tile d = true ∨ (¬straight ∧ ¬skips) → arrives = (refused, 1)) ∧
       (m ≤ units - 1 → z.bufClosed tile d = false → straight ∨ skips →
         let header (skip : Nat) (len : Nat) : W64 := mkWord [(63, skip), (59, cls), (47, sender), (41, part.toNat), (0, len)]
         let put (t : State) (place filled : Nat) : State × Nat :=
           let x : State := { t with mem := memWriteN t.mem (lmKey tile (base + 64 * place))
                                       (toBytes 8 (header 0 (body.length + 8)).toNat ++ body) }
           let y := x.setLm tile (d + 8) 8 (setFld (setFld (setFld d1 9 0 head) 25 16 ((place + m) % units)) 42 32 (filled + m)).toNat
           let n := y.lm64 tile (d + 24)
           (((y.setLm tile (d + 24) 8 (setFld n 31 0 (fld n 31 0 + 1)).toNat).sendCredit tile d).reevalTile tile, 0)
         (straight → arrives = put z tail used) ∧
         (skips → arrives = put (z.setLm tile (base + 64 * tail) 8 (header 1 (64 * (units - tail))).toNat) 0
           (used + (units - tail))))) ∧
     (s.shutBuf l cls = none → bit w 63 = true → fld w 61 59 = 2 → ¬stranger →
       let q := kget (s.core l).seq.chans (fld w 58 56) []
       (body.length ≠ 64 → arrives = (s, 2)) ∧
       (body.length = 64 → 8 ≤ q.length → arrives = (s, 1)) ∧
       (body.length = 64 → q.length < 8 → arrives = (s.updCore l fun c => { c with seq := { c.seq with
         chans := kput c.seq.chans (fld w 58 56) (q ++ [(cls, BitVec.ofNat 512 (ofBytes body))]) } }, 0)))) ∧
  (∀ (c : Core) (place i : Nat) (v : W64),
     let k := wordKey place i
     (kfind c.sb k = none → c.remoteReg place i v = (c, 1)) ∧ (kfind c.sb k = some .full → c.remoteReg place i v = (c, 2)) ∧
     (kfind c.sb k = some .armed → (c.remoteReg place i v).2 = 0 ∧ kfind (c.remoteReg place i v).1.sb k = some .full ∧
       (k < 1024 ∨ (∀ e ∈ c.rc, e.key ≠ k) → (c.remoteReg place i v).1.word k = v))) ∧
  (∀ (s : State) (p : Pkt) (cap : BitVec 128) (i : Nat) (v : W64),
     let part := cap.toNat / 2 ^ 64 % 2 ^ 6
     let gives (t : State) (r : Nat) : Prop := s.remoteWrite p cap i v = (t, r)
     let code := ((sipHash (s.keyOf part) (toBytes 14 (cap.toNat % 2 ^ 112))).toNat) % 2 ^ 16
     let live : Prop := cap.toNat / 2 ^ 70 % 2 ^ 32 = s.epochOf part ∧ cap.toNat / 2 ^ 112 = code
     let admits : Prop := part = p.part.toNat ∨ cap.getLsbD 12 = true
     (s.retired p.dst = true → gives s 4) ∧ (s.retired p.dst = false → ¬live → gives s 5) ∧
     (s.retired p.dst = false → live → ¬admits → gives s 4) ∧
     (s.retired p.dst = false → live → admits →
       let holder := (s.core p.dst).dir.find? fun w => w.wsid.toNat == cap.toNat / 2 ^ 32 % 2 ^ 16
       (holder = none → gives s 3) ∧
       ∀ w, holder = some w →
         (w.part.toNat ≠ part ∨ w.gen.toNat ≠ cap.toNat / 2 ^ 20 % 2 ^ 12 → gives s 3) ∧
         (w.part.toNat = part → w.gen.toNat = cap.toNat / 2 ^ 20 % 2 ^ 12 →
           (w.allot ≤ i → gives s 1) ∧
           (i < w.allot →
             (∀ pl t, w.place = some pl → s.slotWordErr p.dst pl i = (t, true) → gives t 6) ∧
             (∀ pl t, w.place = some pl → s.slotWordErr p.dst pl i = (t, false) →
               let x := (t.core p.dst).remoteReg pl i v
               gives (t.setCore p.dst x.1) x.2) ∧
             (w.place = none →
               let at_ := s.backAddr w.part.toNat p.dst w.idx
               let read := s.hwRead w.part 0#10 false (at_ + 512) 16
               (read.2 = none → gives read.1 6) ∧
               ∀ bs, read.2 = some bs →
                 let states := ofBytes bs
                 let mine := states / 4 ^ i % 4
                 (mine = 1 → gives ((read.1.hwWrite w.part 0#10 false (at_ + 8 * i) (toBytes 8 v.toNat)).hwWrite w.part 0#10 false
                   (at_ + 512) (toBytes 16 (states + 4 ^ i))) 0) ∧
                 (mine = 2 → gives read.1 2) ∧ (mine ≠ 1 → mine ≠ 2 → gives read.1 1)))))) ∧
  (∀ (s : State) (l : Nat) (h act : W64) (w : Wk),
     (s.core l).dir.find? (fun w => w.st == .held && w.wsid == BitVec.ofNat 16 (fld h 47 32) &&
       w.gen == BitVec.ofNat 12 (fld h 31 20)) = some w →
     (fld act 1 0 = 2 → s.heldRequest l h act = (s.abandon l w.ent true, 0)) ∧
     (fld act 1 0 ≠ 2 → w.nested = true → s.heldRequest l h act = (s, 2)) ∧
     (fld act 1 0 ≠ 2 → w.nested = false →
       s.heldRequest l h act = (s.updCore l fun c => { c.updWk w.ent (fun x => { x with
           st := .queued, resumed := true, hpc := (if fld act 1 0 = 1 then w.hpc + 4#64 else w.hpc),
           hguard := { rem := fld act 9 6, sense := bit act 10, pred := bit act 11 }
           hwait := (if fld act 1 0 = 1 then .none else x.hwait), hjoin := (if fld act 1 0 = 1 then none else x.hjoin) }) with
         runq := c.runq ++ [{ pri := w.pri, ent := w.ent, since := s.time }] }, 0))) ∧
  (∀ (s : State) (l : Nat) (p : Pkt) (w : Wk) (shares : Nat) (cell : W64), p.kind = .fork w shares cell → p.src = l →
     s.net.find? (fun p => p.src == l && s.travels p && (match p.kind with | .fork _ _ _ => true | _ => false)) = some p →
     ∃ cs : List Nat, cs.length ≤ min (shares - 1) 255 ∧
       (∀ k ∈ cs, k ≠ l ∧ isClearing k = isClearing l ∧ s.holdsCore w.part.toNat k = true ∧ (s.core k).busy = false ∧
         (s.core k).runq = []) ∧
       exec (.forkRecruitment l) s = .next ((cs.zipIdx.foldl (fun (t : State) (y : Nat × Nat) =>
         match t.allocWk y.1 w [BitVec.ofNat 64 (y.2 + 1), BitVec.ofNat 64 (cs.length + 1), BitVec.ofNat 64 shares, cell] with
         | some (t, _) => t.reeval y.1
         | none => t) (s.dropPkt p)).remoteDone l p.acc (BitVec.ofNat 64 (cs.length + 1)) none)) ∧
  (∀ (s : State) (l : Nat),
     (∀ q, (s.core l).sendq.find? (fun q => decide (q.2 ≤ s.time.toNat)) = some q → exec (.sendRetry l) s =
       .next { s.updCore l (fun c => { c with sendq := c.sendq.erase q }) with
         net := (s.net.filter (·.n != q.1)) ++ (s.net.filter (·.n == q.1)).map fun p => { p with n := s.pktNext }
         pktNext := s.pktNext + 1 }) ∧
     ((∀ q ∈ (s.core l).sendq, s.time.toNat < q.2) → exec (.sendRetry l) s = .next s) ∧
     ∀ p, s.net.find? (fun p => p.kind == .forwardEnd && p.dst == l) = some p →
       exec (.forwardEndMarker l) s = .next (if s.net.any (fun q => decide (q.n < p.n) && q.dst == l && s.travels q) then s
         else s.dropPkt p))

/-- R186, R188, R383: a timer's tick evaluates readiness (log entry 85), and each ready actor enters the queue of its
priority once, which starts the exit of a retained cluster (R411); a core with nothing running starts the first firing of its queue that may start, at its entry or where it was held.
R384: a wait of 64 µs at priority 2 or 3 moves an actor up. R385: a ready actor of priority 0 interrupts a lower firing of
a Clearing core. R358: a firing past its watchdog takes cause 0x14; a resumed one counts from its resumption (log entry
26). R370: a SWAIT whose deadline has come ends. -/
def Obligations.FiringsTakeTheirTurns : Prop :=
  ∀ (s : State) (l : Nat),
    let c := s.core l
    (∀ ws, (∃ w ∈ c.dir, w.wsid.toNat = ws) →
      let rs := c.dir.filter (s.isReady l)
      let t : State := if rs = [] then s else s.setCore l { c with
        dir := c.dir.map (fun w => if s.isReady l w then { w with st := .queued } else w)
        runq := c.runq ++ rs.map fun w => { pri := w.pri, ent := w.ent, since := s.time } }
      exec (.timerTick l ws) s = .next (if (t.core l).runq = [] then t else t.wakeHome (.ws l))) ∧
    (c.run = true → exec (.firingStart l) s = .next s) ∧
    (c.run = false → s.startWakes l = true → exec (.firingStart l) s = .next (s.wakeHome (.ws l))) ∧
    (c.run = false → c.halted = false → isStation l = false → s.startWakes l = false → c.mayMove = false ∨ s.moveTarget l = none →
      let v := if c.mayMove then s.updCore l fun c => { c with mayMove := false } else s
      (∀ u e w, c.intr = [] → v.pickStart l c.queue = some (u, e) → (u.core l).wkEnt e = some w →
        nextWith (exec (.firingStart l) s) fun t =>
          (t.core l).run = true ∧ (t.core l).mode = w.mode ∧ (t.core l).held = [] ∧ (t.core l).started = s.time ∧
          (t.core l).pc = (if w.resumed then w.hpc else w.entry) ∧
          (t.core l).guard = (if w.resumed then w.hguard else {}) ∧ bit (t.core l).tstat 63 = false ∧
          (t.core l).wait = (if w.resumed then w.hwait else .none) ∧ ∀ x ∈ (t.core l).runq, x.ent ≠ e) ∧
      (c.intr = [] → v.pickStart l c.queue = none → exec (.firingStart l) s = .next v) ∧
      ∀ i rest, c.intr = i :: rest → v.pickStart l (c.runq.filter (·.pri == 0)) = none →
        exec (.firingStart l) s = .next (v.updCore l fun c => c.backFrom i)) ∧
    (let old (q : RqEnt) : Bool := decide (2 ≤ q.pri) && decide (64000 ≤ (s.time - q.since).toNat)
     exec (.runQueueAging l) s = .next (s.setCore l { c with
       runq := c.runq.filter (fun q => !(old q)) ++
         (c.runq.filter old).map fun q => { q with pri := q.pri - 1, since := s.time } })) ∧
    (∀ w u e, c.curWk = some w → c.run = true → w.pri ≠ 0 → isClearing l = true →
      s.pickStart l (c.runq.filter (·.pri == 0)) = some (u, e) →
      let k := u.core l
      exec (.priority0Interrupt l) s = .next (u.setCore l (({ k with intr := {
          ent := w.ent, pc := k.pc, guard := k.guard, tpc := k.tpc, tstat := k.tstat, inl := k.inl, held := k.held,
          parkDue := k.parkDue, wait := k.wait, joined := k.joined, holdDue := k.holdDue } :: k.intr }.updWk w.ent fun w =>
        { w with st := .interrupted }).beginFiring l s.time e))) ∧
    (∀ w, c.curWk = some w → c.run = true → c.holdDue = none →
      let limit := 100 * fld c.wdog (16 * w.wdg + 15) (16 * w.wdg)
      (limit ≠ 0 → limit < (s.time - c.started).toNat →
        exec (.watchdogExpiry l) s = .next (s.raise l { code := 0x14#8, word := c.curWord } c.pc)) ∧
      (limit = 0 ∨ (s.time - c.started).toNat ≤ limit → exec (.watchdogExpiry l) s = .next s)) ∧
    (∀ m b a d, isStation l = true → c.run = true → c.parkDue = false →
      decode (BitVec.ofNat 32 (ofBytes (memReadN s.mem (stationKey (c.pc.toNat % 2 ^ 48)) 4))) = .ok (.swait m b a d) →
      let u : State := { s with mover := { core := l, strm := .ctl } }
      u.ctlReady { least := .station, names := [b, a, d], reads := [b, a] } = true → (s.reg l a).toNat < 256 →
      let t := u.took [b, a]
      let p := s.signals &&& (s.reg l a).setWidth 8
      (s.time.toNat < (s.reg l b).toNat → exec (.swaitDeadline l) s = .next s) ∧
      ((s.reg l b).toNat ≤ s.time.toNat → p = 0#8 →
        exec (.swaitDeadline l) s = .next { (t.setReg l d 0#64).ends l m with mover := s.mover }) ∧
      ((s.reg l b).toNat ≤ s.time.toNat → p ≠ 0#8 → exec (.swaitDeadline l) s =
        .next { ({ t with signals := t.signals &&& ~~~p }.setReg l d (p.setWidth 64)).ends l m with mover := s.mover }))

/-- R118, R120 to R123: a failing channel, the two hot-mode events with the temperature reported (hot mode ends once the
channel has stayed at or below 82 °C for 1 ms), and the end of a window, whose Avail the channels report: 4,080 units at least
in hot mode; a change of F is an event. R4, R417 to R421: an estimate is kept, in which a Grove tile's draw is charged to the
partitions of its active cores in equal parts, a seized cluster's and all else to none; over a limit (the mean of 1 ms over
Cap, that of 10 µs over 1.1 times Cap, a chip over 190 W), or when the pool shrinks, one step of shedding is taken: lent power goes back,
then the common factor falls, then each partition's fastest tile slows a point; a partition's allowance is its share scaled by
the common factor, or its draw where that is less and its tiles run as its cores request, and what shedding took ends with
the next allowance (log entry 119); a core active anew keeps its owner from lending (R420). R415, R422, R423: a tile comes to its point; samples, with the limits that act on a Grove tile. R411 and R412: a
cluster that may is retained; its exit is counted, and one whose state does not check is lost: its teams complete first, then
its storage is zeroised and it serves again. -/
def Obligations.MemoryAndPowerEvents : Prop :=
  ∀ (s : State),
    (∀ c < 32, s.liveChannel c = true →
      exec (.channelFailure c) s = .next { s with failed := s.failed ||| (1#32 <<< c), why := s.why ||| 16#16 } ∧
      ∀ t : BitVec 8,
        let seen : State := { s.setCw (0xD00 + c) 0 (setFld (s.cw (0xD00 + c) 0) 55 48 t.toNat) with
          cool := if 82 < t.toInt then kdel s.cool c else kput s.cool c (kget s.cool c s.time)
          hot := if 85 < t.toInt then s.hot ||| (1#32 <<< c) else s.hot }
        exec (.hotModeEnter c t) s = .next (if 85 < t.toInt then seen else s) ∧
        exec (.hotModeExit c t) s = .next (
          if t.toInt ≤ 82 ∧ 1000000 ≤ (s.time - kget s.cool c s.time).toNat then { seen with hot := s.hot &&& ~~~(1#32 <<< c) }
          else seen) ∧
        exec (.sensorSample [(0xD00 + c, t.setWidth 64)]) s = .next seen) ∧
    (∀ av : List Nat, ∃ m : KMap Nat,
      (∀ c < 32, kget m c 4800 =
        if h : c < av.length then max (if s.hot.getLsbD c then 4080 else 0) (min av[c] 4800) else s.availOf c) ∧
      let u : State := { s with avail := m }
      exec (.dramWindowEnd av) s = .next (if u.scaleF = s.factor then u else
        { u with factor := u.scaleF }.scaledEvent u.scaleF)) ∧
    (∀ (tiles units : List (Nat × Nat)) (rest : Nat),
      let draws := tiles ++ units ++ [(0xFFF, rest)]
      let shared (k : Nat) : Bool := isGrove k && (s.clu (clusterOf k)).seized.isNone
      let drawing (k : Nat) : List Nat := (s.servedBy k).filter fun l => (s.core l).active
      ∃ e : Estim, e.time = s.time.toNat ∧ e.total = (draws.map (·.2)).sum ∧
        e.unsh = ((draws.filter fun x => !(shared x.1)).map (·.2)).sum ∧
        (∀ p, kget e.parts p 0 = ((draws.filter fun x => shared x.1).map fun x =>
          (drawing x.1).countP (fun l => (s.core l).powerPart.toNat == p) * (12 * x.2 / (drawing x.1).length)).sum) ∧
        let kept := e :: s.watts.filter fun x => decide (s.time.toNat < x.time + 1000000)
        let mean (n : Nat) (f : Estim → Nat) : Nat :=
          let es := kept.filter fun x => decide (s.time.toNat < x.time + n)
          (es.map f).sum / es.length
        let w := setFld (s.dcw 0x0E0010) 51 42 (min (mean 10000 (·.total)) 1023)
        let t : State := { s.setDcw 0x0E0010 (setFld w 41 32 (min (mean 10000 (·.unsh)) 1023)) with
          watts := kept, draw := (List.range 64).map fun p => (p, (mean 10000 fun e => kget e.parts p 0) / 12) }
        let u : State := { t with poolAt := t.pool }
        let own := if Config.packagedChip = true then mean 10000 (·.total) else Config.chipDraw s.tick
        let above : Bool := decide (u.powerCap < mean 1000000 (·.total)) || decide (u.powerCap * 11 < mean 10000 (·.total) * 10) ||
          decide (760 < own)
        let f := fld w 62 52
        let back := u.withdraw f
        let lends : Bool := (List.range 64).any fun p => u.ceilOf p != back.ceilOf p
        exec (.powerEstimate tiles units rest) s = .next (
          if !above && decide (s.poolAt ≤ t.pool) then u
          else if lends then back
          else if u.powerFactor < f then
            (u.setDcw 0x0E0010 (setFld (u.dcw 0x0E0010) 62 52 u.powerFactor)).withdraw u.powerFactor
          else if above then (List.range 64).foldl (fun t p => match t.shedTile p with
            | some x => { t with shed := kput t.shed x (min 7 (t.targetPoint x + 1)) }
            | none => t) u
          else u)) ∧
    (∀ (f p : Nat), p < 64 → (s.withdraw f).ceilOf p = max (s.ceilOf p) (s.fitPoint p (s.allowOf f p))) ∧
    (∃ (ceil : KMap Nat) (last : Nat),
      let sum := ((List.range 64).map s.shareOf).foldl (· + ·) 0
      let f := if sum = 0 then 1024 else min 1024 (s.pool * 1024 / sum)
      exec .allowanceCompute s = .next { s.setDcw 0x0E0010 (setFld (s.dcw 0x0E0010) 62 52 f) with
        shed := [], ceil := ceil, lendLast := last
        awake := (s.cores.filter fun c => isGrove c.1 && c.2.active).map fun c => c.1 } ∧
      ∀ p < 64, ∀ k < 8,
        let scaled := s.shareOf p * f / 1024
        let draw := kget s.draw p 0
        let met : Prop := ∀ c ∈ s.cores, isGrove c.1 = true → c.2.active = true → c.2.powerPart.toNat = p →
          (s.clu (clusterOf c.1)).seized = none →
          kget s.points (tileOf (s.phys c.1)) 7 ≤ fld (s.cw c.1 0x800) 2 0 ∧ c.1 ∈ s.awake
        (draw < scaled → met → Config.pointDraw s.tick p k ≤ draw → kget ceil p 0 ≤ k) ∧
        (scaled ≤ draw ∨ ¬met → Config.pointDraw s.tick p k ≤ scaled → kget ceil p 0 ≤ k)) ∧
    (∀ tile, isGrove tile = true → tile % 4 = 0 →
      exec (.opPointChange tile) s = .next { s with points := kput s.points tile (s.targetPoint tile) } ∧
      s.targetPoint tile ≤ 7 ∧ (kget s.throt tile 0 ≤ 7 → kget s.throt tile 0 ≤ s.targetPoint tile) ∧
      ((s.clu (clusterOf tile)).seized ≠ none → kget s.throt tile 0 = 0 → s.targetPoint tile = 1) ∧
      ((s.clu (clusterOf tile)).seized = none →
        (kget s.shed tile 0 ≤ 7 → kget s.shed tile 0 ≤ s.targetPoint tile) ∧
        (kget s.throt tile 0 = 0 → kget s.shed tile 0 = 0 →
          ∀ l ∈ s.servedBy tile, s.targetPoint tile ≤ s.clampedReq l))) ∧
    (∀ k < 64, ∀ v : W64, ∃ w : W64,
      exec (.sensorSample [(0xC00 + k, v)]) s = .next (s.setCw (0xC00 + k) 0x500 w) ∧
      w.setWidth 8 = v.setWidth 8 ∧ (w >>> 8).setWidth 48 = 0#48 ∧
      ((w >>> 56).setWidth 8).toInt = max ((s.cw (0xC00 + k) 0x500) >>> 56 |>.setWidth 8).toInt (v.setWidth 8).toInt) ∧
    (∀ tile, tile < 0x800 → tile % 4 = 0 → ∀ v : W64,
      let u := s.sample tile v
      let now := temp8 (fld (u.cw tile 0x900) 7 0)
      let throttle : Int := fld (s.dcw 0x0E0008) 23 16
      let critical : Int := fld (s.dcw 0x0E0008) 31 24
      let p := u.targetPoint tile
      let floor : State := { u with throt := kput u.throt tile (min 7 (p + 1)) }
      let slow : State := if p < 7 then floor.addPower 15 0 else floor
      (now ≤ throttle → now ≤ critical →
        exec (.sensorSample [(tile, v)]) s = .next { u with stopped := u.stopped.filter (· != tile) }) ∧
      (throttle < now → now ≤ critical →
        exec (.sensorSample [(tile, v)]) s = .next slow) ∧
      (throttle < now → critical < now → u.stopped.contains tile = false →
        exec (.sensorSample [(tile, v)]) s =
          .next { slow.addPower 31 16 with stopped := tile :: s.stopped })) ∧
    (∀ tile, 0 < kget s.throt tile 0 →
      temp8 (fld (s.cw tile 0x900) 7 0) ≤ (fld (s.dcw 0x0E0008) 23 16 : Int) - fld (s.dcw 0x0E0008) 7 0 →
      ((∀ x, kfind s.rises tile = some x → 100000 ≤ (s.time - x).toNat) → exec (.throttleRise tile) s =
        .next { s with throt := kput s.throt tile (kget s.throt tile 0 - 1), rises := kput s.rises tile s.time }) ∧
      ∀ x, kfind s.rises tile = some x → (s.time - x).toNat < 100000 → exec (.throttleRise tile) s = .next s) ∧
    (∀ cl,
      exec (.retentionEntry cl) s = .next (if s.mayRetain cl then
          ((State.coresOf cl).foldl (fun t l => t.updCore l Core.flushAll) s).updClu cl fun c => { c with ret := .retained }
        else s) ∧
      ((s.clu cl).ret = .active → ∀ ok, exec (.retentionExit cl ok) s = .next s) ∧
      (let serves (u : State) (lost : Bool) : State :=
         let w := u.cw (0xE00 + cl) 0x4000
         let x := setFld w 15 0 (fld w 15 0 + 1)
         let v := u.setCw (0xE00 + cl) 0x4000 (if lost then setFld x 31 16 (min (fld x 31 16 + 1) 0xFFFF) else x)
         ((State.coresOf cl).foldl (fun t l => t.reeval l)
           (v.updClu cl fun c => { c with ret := .active, idleSince := v.time })).graphStep
       let ended (u : State) : State := if u.losing cl = true then u else serves (u.wipeCluster cl) true
       ((s.clu cl).ret = .reinit → ∀ ok, exec (.retentionExit cl ok) s = .next (ended s)) ∧
       ((s.clu cl).ret ≠ .active → (s.clu cl).ret ≠ .reinit →
         exec (.retentionExit cl true) s = .next (serves s false) ∧
         exec (.retentionExit cl false) s = .next (ended (s.loseCluster cl)))))

/-- Chapters 02, 03 and 15: what the engines do on their own. R333 to R335: a copy is taken from its FIFO; a unit that
translation has reached is performed with those of its row in the same port word (R78), and each moves its bytes and, where
the copy names a sync word, counts them there (R92), whose data error is the copy's fault (log entry 74); an aligned unit of a
source in LM, a typed buffer or the mailbox memory is read at once (R71, R78, R157); the last frees the locks of a copy
that names no counter (R148); its end waits until its counter's home takes the increment, counts, frees its locks and gives its
notice, or keeps it while qd is full. R336 to R338:
a free Wain grants, and a bound ends a lease; R65 to R68, R343 and R348: a Wain takes the command at the head of a queue,
stages a step (what a step that faults leaves, log entry 103), and retires its active command, a WMMA failing on a parity error (log entry 73); R341 and R342: WMMA's sum in
each selected element; R345 and R427: renormalisation and the ramp; R330: a marker, which the core posts while it has no lease,
though counted commands wait before it (log entry 66), and a status word that a full queue leaves with its engine is the
seventeenth of its list (log entry 90); R349 to R351: a TEPI is read, then writes its rows to the first fault and retires (log
entry 68), with a status word that gives fn6 and index 0 (log entry 67); R81: a read of accumulator storage, which a lease
forbids. -/
def Obligations.EnginesRun : Prop :=
  (∀ (s : State) (l : Nat),
     let c := s.core l
     (∀ e t, c.fifo = e :: t → c.copies.length < 1024 → (∀ n ∈ e.waits, c.accNo n = none) →
       exec (.drayTakeCopy l) s =
         .next (s.setCore l { c with fifo := t, copies := c.copies ++ [{ cmd := e, sq := e.cl, total := copyTotal e.recs }] })) ∧
     (∀ sq x, c.copies.find? (·.sq == sq) = some x →
       let ends (r : State × Copy) : State := r.1.updCore l fun j =>
         let j := j.putCopy r.2
         if r.2.quiet = true ∧ r.2.cmd.ctr = none ∧ r.2.cause = none then j.freeLocks r.2.cmd.op else j
       (∀ u k row off len w, x.told = false → u < x.total → x.units.contains u = false →
         s.copyTo l x ((x.cmd.portMates u).foldl max u + 1 - x.xl) = (w, k) → k.cmd.unit u = some (row, off, len) →
         (w.updCore l fun c => c.putCopy k).unitAsleep k row off len = none →
         exec (.drayUnitPerform l sq u) s = .next (ends ((w.updCore l fun c => c.putCopy k).unitsDo k (x.cmd.portMates u)))) ∧
       (∀ u, u < x.total → x.units.contains u = true → exec (.drayUnitPerform l sq u) s = .next s) ∧
       (x.quiet = false → exec (.drayCopyComplete l sq) s = .next s) ∧
       (x.quiet = true → x.told = false → ∀ y, x.cmd.add l 1 = some y → s.homeReady y.part y.ctr.home y.ctr.key 8 = false →
         exec (.drayCopyComplete l sq) s = .next (s.wakeHome y.ctr.home)) ∧
       (x.quiet = true →
         x.told = true ∨ (∀ y, x.cmd.add l 1 = some y → s.homeReady y.part y.ctr.home y.ctr.key 8 = true) →
         let v := (s.counterPost (x.cmd.add l 1)).updCore l fun k => if x.cmd.ctr = none then k.freeLocks x.cmd.op else k
         let y : State := if x.told = true then s else match x.cause with
           | none => v
           | some f => v.deferFlt l x.cmd.owner x.cmd.part { f with eng := 1#2, word := x.cmd.word, late := true }
         let code := match x.cause with | some f => f.code.toNat | none => 0
         let asks := bit (rw x.cmd.recs 3) 37
         (asks = false → exec (.drayCopyComplete l sq) s =
           .next (y.updCore l fun k => { k with copies := k.copies.filter (·.sq != sq) })) ∧
         (asks = true → (y.core l).qd.length < 16 → exec (.drayCopyComplete l sq) s =
           .next (y.updCore l fun k => { k with
             copies := k.copies.filter (·.sq != sq)
             qd := k.qd ++ [mkWord [(63, b2n x.cause.isSome), (48, code), (0, x.sq)]] })) ∧
         (asks = true → 16 ≤ (y.core l).qd.length → exec (.drayCopyComplete l sq) s =
           .next (y.updCore l fun k => k.putCopy { x with told := true })))) ∧
     (∀ e t, e.fn = fnMarker →
       (∀ before, c.qm = before ++ e :: t → s.leaseOf l = none → (∀ y ∈ before, y.fn ≠ fnMarker) → c.qms.length ≤ 16 →
         exec (.markerPost l false) s = .next (s.setCore l { c with qm := before ++ t, qms := c.qms ++ [rw e.recs 0] })) ∧
       (c.qm = e :: t → s.leaseOf l ≠ none → (∀ x ∈ s.clusters, ∀ w ∈ x.2.wain, w.core = l → w.internal = true) →
         c.qms.length ≤ 16 →
         exec (.markerPost l false) s = .next (s.setCore l { c with qm := t, qms := c.qms ++ [rw e.recs 0] })) ∧
       (c.qe = e :: t → (∀ x ∈ s.clusters, ∀ y ∈ x.2.tender, y.core ≠ l) → c.qes.length ≤ 16 →
         exec (.markerPost l true) s = .next (s.setCore l { c with qe := t, qes := c.qes ++ [rw e.recs 0] })))) ∧
  (∀ (t : State) (k : Copy) (u : Nat) (rest : List Nat),
     t.unitsDo k [] = (t, k) ∧
     (k.total ≤ u ∨ k.units.contains u = true ∨ k.cmd.unit u = none → t.unitsDo k (u :: rest) = t.unitsDo k rest) ∧
     (∀ row off len, u < k.total → k.units.contains u = false → k.cmd.unit u = some (row, off, len) →
       let a := cpSrc k.cmd.recs row + BitVec.ofNat 64 off
       let b := cpDst k.cmd.recs row + BitVec.ofNat 64 off
       let dst := t.copyHome k row true b
       let src := t.copyHome k row false a
       let kept := t.readLines k row src.1 src.2.1 len
       let moved := t.unitWrite dst.1 dst.2.1 b (t.unitBytes kept row a len)
       let done : Copy := { kept with units := u :: kept.units }
       (cpSync k.cmd.recs = none → t.unitsDo k (u :: rest) = moved.unitsDo done rest) ∧
       ∀ x y bad, cpSync k.cmd.recs = some x → moved.eccSpan (lmKey (tileOf (fld x 59 48)) (fld x 47 0)) 16 = (y, bad) →
         let tile := tileOf (fld x 59 48)
         let target := fld (y.lm64 tile (fld x 47 0)) 47 0
         let sync := y.lm64 tile (fld x 47 0 + 8)
         (∀ d, bad = some d → t.unitsDo k (u :: rest) =
           y.unitsDo { done with
             cause := done.cause.orElse fun _ => some { code := 0x0B#8, faddr := some (x + BitVec.ofInt 64 d) }
             total := min done.total done.xl } rest) ∧
         (bad = none → ∃ gens count : Nat, min (fld sync 47 0 + len) (2 ^ 48 - 1) = gens * target + count ∧
           (target ≠ 0 → count < target) ∧ (target = 0 → gens = 0) ∧
           t.unitsDo k (u :: rest) = (((y.setLm tile (fld x 47 0 + 8) 8
             (mkWord [(48, (fld sync 63 48 + gens) % 2 ^ 16), (0, count)]).toNat).reevalTile tile).unitsDo done rest)))) ∧
  (∀ (e : EngCmd) u v row off len, e.unit u = some (row, off, len) →
     let place (o : Nat) : Nat := (cpDst e.recs row + BitVec.ofNat 64 o).toNat
     let port := if clsOf (cpDst e.recs row + BitVec.ofNat 64 off) = 3 then 256
       else if clsOf (cpDst e.recs row + BitVec.ofNat 64 off) = 4 then 128 else 64
     (v ∈ e.portMates u ↔ v ≤ u + 3 ∧ u ≤ v + 3 ∧
       ∃ o n, e.unit v = some (row, o, n) ∧ place o / port = place off / port)) ∧
  (∀ (s : State) (cl : Nat),
     let c := s.clu cl
     (∀ r, c.lease = none → c.ret = .active → c.seized = none → s.nextGrant cl = some r →
       let g := s.grantLease cl r.core r.spec
       exec (.leaseGrant cl) s = .next (g.reply r.core r.tag (.got (BitVec.ofNat 64 ((g.clu cl).holdMask r.core)) 0#64))) ∧
     (∀ x, c.lease = some x →
       exec (.leaseBoundExpiry cl) s = .next (if x.until_.toNat ≤ s.time.toNat then s.endLease cl else s)) ∧
     (∀ l (k : Core) e t, c.ret = .active →
       s.cores.find? (fun x => match x.2.qm with | e :: _ => s.mayAccept cl x.1 e | [] => false) = some (l, k) → k.qm = e :: t →
       let u := s.setCore l { k with qm := t }
       (e.fn = fnWfmt → exec (.wainCommandAccept cl) s = .next (u.setClu cl { c with fmt := kput c.fmt l e.fmt })) ∧
       (e.fn = fnWretry → exec (.wainCommandAccept cl) s = .next (u.setClu cl { c with wain := c.wain.map fun w =>
         if w.core = l ∧ w.stopped = true then { w with stopped := false, resumed := true } else w })) ∧
       ∀ x, e.fn ≠ fnWfmt → e.fn ≠ fnWretry → c.lease = some x →
         exec (.wainCommandAccept cl) s = .next (u.setClu cl { c with
           lease := some { x with accepted := x.accepted + 1 }
           wain := c.wain ++ [{ core := l, cmd := e, index := x.accepted }] })) ∧
     (∀ w k, c.active = some w → w.nextStep = some k →
       let a := w.cmd.stepAddr k
       let put (t : State) (bs : List Byte) : State :=
         t.updClu cl fun c => c.updCmd w fun x => { x with staged := kput x.staged k bs, step := k + 1 }
       (clsOf a = 0 → ∀ v bs rs, s.pipeRead w 3 a (w.cmd.stepBytes k) = (v, .ok (bs, rs)) →
         exec (.wainStageStep cl) s = .next (put (v.settleAll w.core w.cmd.part w.cmd.ctx .wainPipe rs) bs)) ∧
       (clsOf a ≠ 0 → s.homeReady w.cmd.part (s.homeOf a).1 (s.homeOf a).2 (w.cmd.stepBytes k) = true →
         ∀ v bad, s.eccSpan (s.homeOf a).2 (w.cmd.stepBytes k) = (v, bad) →
           exec (.wainStageStep cl) s = .next (match bad with
             | some d => v.failCmd cl w { code := 0x0B#8, faddr := some (a + BitVec.ofInt 64 d) }
             | none => put v ((List.range (w.cmd.stepBytes k)).map fun i => v.homeByte (s.homeOf a).1 ((s.homeOf a).2 + i)))) ∧
       ∀ v f, clsOf a = 0 → s.pipeRead w 3 a (w.cmd.stepBytes k) = (v, .error f) →
         exec (.wainStageStep cl) s = .next (if f.code = 0x0A#8 then v.stopCmd cl w k f else v.failCmd cl w f)) ∧
     (∀ w, c.active = some w → w.stopped = false → w.nextStep = none → w.internal = false →
       let ramps := cl < 0x80 ∧ 1000 ≤ (s.time - c.macAt).toNat
       let ends (t : State) : State :=
         if w.cmd.fn = fnWmma ∧ w.cmd.tiles.any (accParity t cl) = true then t.failCmd cl w { code := 0x0B#8 }
         else t.retireCmd cl w
       exec (.wainCommandRetire cl) s = .next (
         if w.cmd.fn ≠ fnWmma ∧ w.cmd.fn ≠ fnWstep then s.retireCmd cl w
         else if ¬ramps then ends (s.updClu cl fun c => { c with macAt := s.time })
         else if s.mayRamp cl = true then
           ends (s.updClu cl fun c => { c with ramp := 1, rampAt := s.time, macAt := s.time })
         else s)) ∧
     (∀ w, c.active = some w → w.internal = true →
       exec (.autoRenormalise cl) s = .next ((s.updClu cl fun c => c.dropCmd w).doWain cl w)) ∧
     (exec (.wainRampStep cl) s = .next (if c.ramp < 4 ∧ 125 ≤ (s.time - c.rampAt).toNat then
         s.updClu cl fun c => { c with ramp := c.ramp + 1, rampAt := s.time } else s)) ∧
     (∀ l e, c.ret = .active → c.tender = [] → s.tepiNext cl = some (l, e) →
       let rs := (tpPlaces e.recs).flatMap fun p => p.2.map fun x => (p.1, x, c.tepiElem e p.1 x)
       let took := s.updCore l fun k => { k with qe := k.qe.drop 1 }
       exec (.tenderCommandAccept cl) s = .next (if e.tiles.any (accParity s cl) = true then
           took.setClu cl { c with tlast := l, tender := [{ core := l, cmd := e, cause := some { code := 0x0B#8 } }] }
         else took.setClu cl { c.tepiClear e with
           tlast := l
           tender := [{ core := l, cmd := e, out := rs.map fun x => (x.1, x.2.1, x.2.2.code),
                        flags := rs.map fun x => (x.2.2.flags, x.2.2.sat) }] })) ∧
     (∀ t rest v f, c.tender = t :: rest →
       (∀ x ∈ tpSpans t.cmd.recs, clsOf x.1 ≠ 0 → s.homeReady t.cmd.part (s.homeOf x.1).1 (s.homeOf x.1).2 x.2 = true) →
       (match t.cause with
         | some d => (s, some d)
         | none => s.tepiRows t.core t ((tpPlaces t.cmd.recs).map (·.1))) = (v, f) →
       let e := t.cmd
       let told : State := (tpSpans e.recs).foldl (fun s x => if clsOf x.1 = 0 then s else s.afterWrite (s.homeOf x.1).1) v
       let out := ((((told.updClu cl fun c => { c with tender := rest, tdone := kput c.tdone t.core (kget c.tdone t.core 0#16 + 1#16) }).counterPost
         (e.add t.core 3)).countElems t.core evIntSat t.flags).updCore t.core fun c =>
           let c := if e.ctr = none then c.freeLocks e.op else c
           if e.rpt then { c with qes := c.qes ++ [statusWord (if f.isSome then 3 else 1) fnTepi 0] } else c)
       exec (.tepiRetire cl) s = .next (match f with
         | some f => out.deferFlt t.core e.owner e.part { f with eng := 3#2, word := e.word, late := true }
         | none => out)) ∧
     (cl < 0x84 → ∀ off, off < 0x10000 → off % 4 = 0 →
       (c.lease = none → exec (.accumulatorRead cl off) s = .next s ∧
         (s.ctlRead Writer.stn (0xE00 + cl) (0xC00000 + off) 4).2.toOption = some ((kget c.acc32 (off / 4) 0#32).setWidth 64)) ∧
       (c.lease ≠ none →
         exec (.accumulatorRead cl off) s = .next (s.errLog 3 0xFFF (ctlAddr (0xE00 + cl) (0xC00000 + off)))))) ∧
  (∀ (s : State) (cl i j : Nat) (w : WCmd), w.cmd.fmt.acc ≠ 2#2 → i < 32 → j < 32 →
     let fc := w.cmd.fmt
     let d := fld (w.rec_ 3) 15 7
     let kd := if d = 0 then pairK fc.a.toNat fc.b.toNat else d
     let t := fld (w.rec_ 3) 6 3
     ((s.doWmma cl w).clu cl).el32 t i j =
       if bit (w.rec_ 2) i = true ∧ bit (w.rec_ 2) (32 + j) = true then
         (mmaElem fc (w.row i) (w.row (32 + j)) kd ((s.clu cl).el32 t i j)).code
       else (s.clu cl).el32 t i j)

/-- Chapters 06, 18 and 21: the host's windows. R42, R435 and R437: locked SRAM through an aperture; R173 and R174: payload,
publication (which waits in the device for a slot), commit, read, stamp and unpin of the object that a map entry names;
whatever maps to nothing is dropped and logged, or returns nothing. R374 to R376 and R433: a notify sets the tail and a
queue slot, or a pending bit that keeps its time and whose bound is told once; R9 and R429: what W1 reads; R168: a late
MREADV returns; R175 and R437: what a mirror applies. Not the spec's own: log entries 125 (accesses across Size, a waiting MPUB,
a stale read by a function), 134 (a data error under a read of locked SRAM or of a payload), 40 (reserved bits of W1's words), 41
(a read that maps to nothing is not logged), 127 (what a mirrored MRECLAIM names) and 150 (a mirrored commit that finds no slot). -/
def Obligations.HostWindows : Prop :=
  (∀ (s : State) (fn off : Nat) (bs : List Byte) (n : Nat),
     let word (i : Nat) : W64 := s.dcw (0x0E8000 + 128 * fn + 8 * i)
     let lo (i : Nat) : Nat := 4096 * fld (word i) 13 0
     let hi (i : Nat) : Nat := 4096 * (fld (word i) 13 0 + fld (word i) 45 32)
     let reaches (len : Nat) : Prop := fn ≤ 512 ∧ off + len ≤ 0x2600000 ∧ s.holdsSram (s.fnPart fn).toNat off len = true ∧
       ∃ i < 16, bit (word i) 63 = true ∧ lo i ≤ off ∧ off + len ≤ hi i
     let mirrored : Prop := ∃ i < 16, bit (word i) 63 = true ∧ bit (word i) 62 = true ∧ off < hi i ∧ lo i < off + bs.length
     let put : State := { s with mem := memWriteN s.mem (6 * 2 ^ 60 + off) bs }
     (¬reaches bs.length → exec (.w2SramWrite fn off bs) s = .next (s.pfLog 1 fn off)) ∧
     (reaches bs.length →
       (mirrored → s.flw = true → exec (.w2SramWrite fn off bs) s = .next (s.pfLog 7 fn off)) ∧
       (mirrored → s.flw = false → s.up = true → s.firm.rdy = true →
         exec (.w2SramWrite fn off bs) s = .next { put with spareOut := s.spareOut ++ [.w2 off bs] }) ∧
       (¬mirrored ∨ (s.flw = false ∧ (s.up = false ∨ s.firm.rdy = false)) → exec (.w2SramWrite fn off bs) s = .next put)) ∧
     (¬reaches n → exec (.w2SramRead fn off n) s = .next { s with w2out := [] }) ∧
     (reaches n → ∀ t bad, s.eccSpan (6 * 2 ^ 60 + off) n = (t, bad) →
       exec (.w2SramRead fn off n) s = .next { t with
         w2out := if bad = none then memReadN t.mem (6 * 2 ^ 60 + off) n else [] }) ∧
     exec (.mirroredW2Write off bs) s = .next (if s.flw = true ∧ off + bs.length ≤ 0x2600000 then put else s) ∧
     (s.w2Maps fn off n true = false → exec (.w2UnmappedAccess fn (off, n) true) s = .next (s.pfLog 1 fn off)) ∧
     (s.w2Maps fn off n false = false → exec (.w2UnmappedAccess fn (off, n) false) s = .next { s with w2out := [] })) ∧
  (∀ (s : State) (fn j o n : Nat), o < 0x20000 →
     let maps (wr : Bool) : Bool := s.w2Maps fn (0x4000000 + j * 0x20000 + o) n wr
     (maps true = true ↔
       (∃ i k, s.mappedPub fn j = some i ∧ (s.obj i).resv = some (k, .fn fn) ∧ o < objSize (s.objCfg i)) ∨
         (o = 0x10008 ∧ s.mappedPub fn j ≠ none) ∨ (o = 0x10020 ∧ s.mappedSub fn j ≠ none)) ∧
     (maps false = true ↔
       (∃ i, s.mappedSub fn j = some i ∧ (s.obj i).pinBy fn ≠ none ∧ o + n ≤ objSize (s.objCfg i)) ∨
         (n = 8 ∧ ((o = 0x10000 ∧ s.mappedPub fn j ≠ none) ∨ ((o = 0x10010 ∨ o = 0x10018) ∧ s.mappedSub fn j ≠ none))))) ∧
  (∀ (s : State) (fn j off n : Nat) (bs : List Byte),
     let win (o : Nat) : Nat := 0x4000000 + j * 0x20000 + o
     let slotKey (i k : Nat) : Nat := mbmKey (s.objCfg i) k off
     let waits := s.w2wait.filter fun x => !(x.1 == fn && x.2.1 == j)
     (s.mappedPub fn j = none →
       exec (.w2PayloadWrite fn j off bs) s = .next (s.pfLog 1 fn (win off)) ∧
       exec (.w2Mpub fn j) s = .next { s with w2out := [], w2wait := waits } ∧
       exec (.w2Mcommit fn j) s = .next (s.pfLog 1 fn (win 0x10008))) ∧
     (∀ i, s.mappedPub fn j = some i →
       (∀ k, (s.obj i).resv = some (k, .fn fn) →
         (bs.length ≤ objSize (s.objCfg i) - off →
           exec (.w2PayloadWrite fn j off bs) s = .next { s with mem := memWriteN s.mem (slotKey i k) bs }) ∧
         (objSize (s.objCfg i) - off < bs.length →
           let below : State := { s with mem := memWriteN s.mem (slotKey i k) (bs.take (objSize (s.objCfg i) - off)) }
           exec (.w2PayloadWrite fn j off bs) s = .next (below.pfLog 1 fn (win off)))) ∧
       ((∀ k, (s.obj i).resv ≠ some (k, .fn fn)) → exec (.w2PayloadWrite fn j off bs) s = .next (s.pfLog 1 fn (win off))) ∧
       exec (.w2Mpub fn j) s = .next (match (s.obj i).pub i (objSlots (s.objCfg i)) (.fn fn) with
         | some (o, _, w) => { s.setObj i o with w2out := toBytes 8 w.toNat, w2wait := waits }
         | none => { s with w2wait := waits ++ [(fn, j, i)] }) ∧
       exec (.w2Mcommit fn j) s = .next (match (s.obj i).commit (.fn fn) s.time with
         | some o => (s.setObj i o).mirrorCommit i
         | none => s.pfLog 5 fn (win 0x10008))) ∧
     (s.mappedSub fn j = none →
       exec (.w2PayloadRead fn j off n) s = .next { s with w2out := [] } ∧
       exec (.w2Mread fn j) s = .next { s with w2out := [] } ∧ exec (.w2StampRead fn j) s = .next { s with w2out := [] } ∧
       exec (.w2Munpin fn j) s = .next (s.pfLog 1 fn (win 0x10020))) ∧
     ∀ i, s.mappedSub fn j = some i →
       (∀ k v, (s.obj i).pinBy fn = some (k, v) →
         (off + n ≤ objSize (s.objCfg i) → ∀ t bad, s.eccSpan (slotKey i k) n = (t, bad) →
           exec (.w2PayloadRead fn j off n) s = .next { t with
             w2out := if bad = none then memReadN t.mem (slotKey i k) n else [] }) ∧
         (objSize (s.objCfg i) < off + n → exec (.w2PayloadRead fn j off n) s = .next { s with w2out := [] }) ∧
         (∀ ver ts r, kfind (s.obj i).slots k = some (.committed ver ts r) →
           exec (.w2StampRead fn j) s = .next { s with w2out := toBytes 8 ts.toNat }) ∧
         exec (.w2Munpin fn j) s = .next (match (s.obj i).unpin (.fn fn) k v with
           | some o => s.setObj i o
           | none => s.pfLog 5 fn (win 0x10020))) ∧
       ((s.obj i).pinBy fn = none →
         exec (.w2PayloadRead fn j off n) s = .next { s with w2out := [] } ∧
         exec (.w2StampRead fn j) s = .next { s with w2out := toBytes 8 0 } ∧
         exec (.w2Munpin fn j) s = .next (s.pfLog 5 fn (win 0x10020))) ∧
       let o : Obj := { s.obj i with pins := (s.obj i).pins.filter fun p => p.1 != .fn fn }
       ∀ x v w st, o.settle.read (.fn fn) (objLimit (s.objCfg i)) (fld (s.dcw (0x060008 + 64 * i)) 31 0) s.time = (x, v, w, st) →
         exec (.w2Mread fn j) s = .next { s.setObj i x with w2out := toBytes 8 v.toNat }) ∧
  (∀ (s : State) (fn qi : Nat), fn ≤ 512 → qi ≤ 7 →
     let word (k : Nat) : W64 := kget s.w1 (64 * fn + 8 * qi + k) 0#64
     let put (k : Nat) (v : W64) : State := { s with w1 := kput s.w1 (64 * fn + 8 * qi + k) v }
     (∀ tail : BitVec 16,
       let t := put 3 (tail.setWidth 64)
       (bit (word 1) 63 = false ∨ s.firm.rdy = false ∨ (kfind s.resets fn).isSome = true →
         exec (.w1Notify fn qi tail) s = .next (s.pfLog 2 fn (64 * qi + 24))) ∧
       (bit (word 1) 63 = true → s.firm.rdy = true → kfind s.resets fn = none →
         ((∃ k < 256, s.slotMaps k fn qi = true) →
           exec (.w1Notify fn qi tail) s = .next { t with signals := s.signals ||| 1#8 }) ∧
         ((∀ k < 256, s.slotMaps k fn qi = false) →
           (∀ k, t.freeSlot = some k → exec (.w1Notify fn qi tail) s =
             .next { t with qslots := kput s.qslots k (mkWord [(63, 1), (52, fn), (49, qi)]), signals := s.signals ||| 1#8 }) ∧
           (t.freeSlot = none → exec (.w1Notify fn qi tail) s =
             .next { t.setDcw (0x0B1000 + 8 * fn) (s.dcw (0x0B1000 + 8 * fn) ||| (1#64 <<< qi)) with
               pendAt := kput s.pendAt (8 * fn + qi) (kget s.pendAt (8 * fn + qi) (s.time.toNat, false))
               signals := s.signals ||| 2#8 })))) ∧
     (∀ v : W64,
       (bit (word 1) 63 = false →
         exec (.w1QueueConfigWrite fn qi 0 v) s = .next (put 0 (v &&& 0xFFFF_FFFF_FFFF_FFC0#64)) ∧
         exec (.w1QueueConfigWrite fn qi 1 v) s = .next (put 1 (v &&& 0x8000_0000_0000_0F0F#64)) ∧
         exec (.w1QueueConfigWrite fn qi 2 v) s = .next (put 2 (v &&& 0xFFFF_FFFF_FFFF_FFF0#64))) ∧
       (bit (word 1) 63 = true → ∀ reg ≤ 2, exec (.w1QueueConfigWrite fn qi reg v) s = .next s) ∧
       exec (.w1QueueConfigWrite fn qi 6 v) s = .next (put 6 v) ∧
       ∀ reg, 3 ≤ reg → reg ≤ 5 → exec (.w1QueueConfigWrite fn qi reg v) s = .next s) ∧
     (∀ reg ≤ 6, s.w1Read fn (64 * qi + 8 * reg) = some (if reg = 3 then 0#64 else word reg)) ∧
     s.w1Read fn (64 * qi + 56) = none ∧
     (kfind s.pendAt (8 * fn + qi) = none → exec (.notifyBoundExpiry fn qi) s = .next s) ∧
     ∀ t told, kfind s.pendAt (8 * fn + qi) = some (t, told) →
       let bound := fld (s.dcw (0x045000 + 8 * (s.fnPart fn).toNat)) 31 0
       let r := [mkWord [(56, 0x42)], 0#64, 0#64, 0#64, 0#64, 0#64, 0#64, s.time]
       (told = true ∨ bound = 0 ∨ s.time.toNat ≤ t + 1000 * bound → exec (.notifyBoundExpiry fn qi) s = .next s) ∧
       (told = false → bound ≠ 0 → t + 1000 * bound < s.time.toNat → exec (.notifyBoundExpiry fn qi) s =
         .next { (s.postPf r).postRecord (s.fnPart fn) r with
           pendAt := kput ((s.postPf r).postRecord (s.fnPart fn) r).pendAt (8 * fn + qi) (t, true) })) ∧
  (∀ (s : State) (l : Nat) (a : Acc),
     (s.core l).acc.find? (fun a => a.kind == .mreadv && a.st == .issued && decide (a.cmp.toNat ≤ s.time.toNat)) = some a →
     (s.core l).accNo a.n = some a → a.home = .mbm → a.arr = 0 → a.grp = 0 → (s.core l).mayPerform l a = true →
     s.homeReady a.part a.home a.key a.span = true →
     let o := s.obj a.obj
     (o.version < a.data.toNat →
       exec (.mreadvDeadline l) s =
         .next (s.updCore l fun c => c.returned a.n { vals := [handleWord 3 false 0 o.version, o.stamp] })) ∧
     ∀ x v w st, a.data.toNat ≤ o.version →
       o.read (.core l) (objLimit (s.objCfg a.obj)) (fld (s.dcw (0x060008 + 64 * a.obj)) 31 0) s.time = (x, v, w, st) →
       exec (.mreadvDeadline l) s = .next ((if st then (s.setObj a.obj x).countEv l evStale 1 else s.setObj a.obj x).updCore l
         fun c => c.returned a.n { vals := [v, w] })) ∧
  (∀ (s : State) (n ver : Nat) (stamp : W64) (bs : List Byte),
     let cfg := s.objCfg n
     (s.flw = false → ∀ r, exec (.mirrorApply n r ver stamp bs) s = .next s) ∧
     (s.flw = true → n < 1024 → objEn cfg = true → bit cfg 62 = true →
       exec (.mirrorApply n true ver stamp bs) s = .next (s.setObj n ((s.obj n).reclaim ver)) ∧
       ∀ k, (s.obj n).pubSlot (objSlots cfg) = some k →
         exec (.mirrorApply n false ver stamp bs) s =
           .next ({ s with mem := memWriteN s.mem (mbmKey cfg k 0) (bs.take (objSize cfg)) }.setObj n { s.obj n with
             slots := kput (s.obj n).slots k (.committed ver stamp false), version := ver, stamp := stamp, latest := k
             valid := true })))

/-- Chapter 18: R393 and R400: at the guard the seized clusters that the next entry does not lend begin to be ceded, and no
firing starts on a common core if the holder changes; an edge charges lost time and passes the common intervals to the next
entry's owner, or to the donee that takes its lost time; R107, R392 and R394: passing them on drops the slot ways whose fillers
change, and where the holder changes makes the steps of R394 due on each common core, and the ranges to be zeroised, which
follow when what they wait for is done; the end of lost time passes them on at once; R396: an idle slot is
donated to the next donee that has not donated, or to nobody, and once running firings are done the steps are made for the donee,
which then becomes the holder; R398: the lend watchdog holds what runs. R95, R378 and R379: a completed team's workspaces go, its counter rises,
its completion entry (status, tag, version) is formed, and signal 2 is raised; launches that wait for room are tried again. Not
the spec's own: when an edge's steps are made (log entry 32), Don where there is no donee (log entry 34), where DoneAddr is
added to and the entry is formed (log entry 17), and a graph's status, its first that is not zero (log entry 24). -/
def Obligations.SlotsAndTeams : Prop :=
  (∀ a s : State, a.endCedes = s →
     (s.slotEn = true → s.edgeTime ≤ s.time.toNat →
       let new := s.nextHolder
       let i := s.nextEntry
       let lost := s.lostTime i
       let donee : Option (Nat × Nat) := match s.slotOwner i with
         | some p => if 0 < lost then ((s.donees i).zipIdx.find? fun x => x.1 != p) else none
         | none => none
       let u := if new = s.slot.holder then s else s.runningCommon.foldl (fun t x => t.overrun s.edgeTime x.1 x.2) s
       let v := match u.slotOwner i with
         | some p => u.setDcw (0x047000 + 8 * p) (setFld (u.dcw (0x047000 + 8 * p)) 31 0 (u.debtOf p - lost))
         | none => u
       let wraps := s.slot.begun = false ∨ s.slotCount ≤ s.slot.cur + 1
       let w := (v.cedeUnlent i).passTo new i donee.isSome
       (lost = 0 → new = s.slotOwner i) ∧ (lost ≠ 0 → new = donee.map (·.1)) ∧
       exec .slotEdge a = .next (a.roomMade ({ w with slot := { w.slot with
         prd := if wraps then (w.slot.prd + 1) % 2 ^ 32 else w.slot.prd
         periodAt := if wraps then BitVec.ofNat 64 s.edgeTime else w.slot.periodAt
         begun := true, served := (donee.map fun (x : Nat × Nat) => x.2 + 1).getD 0, donors := []
         debtEnd := if 0 < lost then some (BitVec.ofNat 64 (s.edgeTime + lost * 1000)) else none
         guardSeen := false } }.signal 4))) ∧
     (s.slotEn = false ∨ s.time.toNat < s.edgeTime →
       let idle : Prop := s.slot.pend = none
       let fills (h : Option Nat) : Nat := if h.isSome then s.entryWays s.slot.cur else 0
       (∀ new don, s.slot.pend = some (new, don) →
         (s.slot.step = false → s.slot.due = [] → s.slot.zero = [] →
           (s.commonCores.any fun l => (s.core l).busy) = true → exec .slotEdge a = .next (a.roomMade s)) ∧
         (s.slot.step = false → (s.commonCores.any fun l => (s.core l).busy) = false →
           let t : State := { s with slot := { s.slot with step := true } }
           exec .slotEdge a = .next (a.roomMade { t with slot := { t.slot with
             due := t.slot.due ++ t.commonCores.filter fun l => !(t.keepsSeizure (clusterOf l)) && !(t.slot.due.contains l)
             zero := (t.slot.zero ++ t.edgeRanges).eraseDups } }.edgeSteps.passDone)) ∧
         (s.slot.step = true → s.slot.due = [] → s.slot.zero = [] →
           let mask := fills s.slot.holder ||| fills new
           let t := if mask = 0 then s else s.serveQueued.dropSlotWays mask
           exec .slotEdge a = .next (a.roomMade { t with slot := { t.slot with
             holder := new, don := don, pend := none, step := false, idleSince := t.time } }))) ∧
       (idle → s.slot.due = [] → s.slot.zero = [] → exec .slotEdge a = .next (a.roomMade s)) ∧
       (idle → s.slot.due = [] → s.slot.zero ≠ [] → s.zeroReady = false → exec .slotEdge a = .next (a.roomMade s)) ∧
       (idle → s.slot.due = [] → s.slot.zero ≠ [] → s.zeroReady = true → exec .slotEdge a = .next (a.roomMade { s with
         mem := s.mem.filter fun c => !(s.slot.zero.any fun r => decide (r.1 ≤ c.1) && decide (c.1 < r.2))
         slot := { s.slot with zero := [] } })) ∧
       ∀ l, idle → s.slot.due = [l] →
         (s.edgeCoreReady l = false → s.slot.zero = [] → exec .slotEdge a = .next (a.roomMade s)) ∧
         (s.edgeCoreReady l = true → ∀ t, s.edgeCore l = t → t.slot.zero = [] → exec .slotEdge a =
           .next (a.roomMade ({ t with slot := { t.slot with due := t.slot.due.filter (· != l) } }.reeval l))))) ∧
  (∀ (s : State) (new : Option Nat) (i : Nat) (don : Bool),
     let fills (h : Option Nat) (k : Nat) : Nat := if h.isSome then s.entryWays k else 0
     let same : Bool := new == s.slot.holder && !s.slot.step
     let mask := if same then fills new s.slot.cur ^^^ fills new i else fills s.slot.holder s.slot.cur ||| fills new i
     let t := if mask = 0 then s else s.serveQueued.dropSlotWays mask
     let u : State := { t with slot := { t.slot with
       holder := new, cur := i, don := don, pend := none, step := false, idleSince := t.time } }
     (same = true → s.passTo new i don = u) ∧
     (same = false → s.passTo new i don = { u with slot := { u.slot with
       due := u.slot.due ++ u.commonCores.filter fun l => !(u.keepsSeizure (clusterOf l)) && !(u.slot.due.contains l)
       zero := (u.slot.zero ++ u.edgeRanges).eraseDups } })) ∧
  (∀ s : State, s.slotEn = true →
     (s.slot.guardSeen = true ∨ s.time.toNat + s.slotGuard < s.edgeTime → exec .slotGuardStart s = .next s) ∧
     (s.slot.guardSeen = false → s.edgeTime ≤ s.time.toNat + s.slotGuard →
       let u : State := { s with slot := { s.slot with guardSeen := true } }
       exec .slotGuardStart s = .next (s.roomMade (u.cedeUnlent u.nextEntry))) ∧
     (s.edgeTime ≤ s.time.toNat + s.slotGuard → s.nextHolder ≠ s.slot.holder →
       ∀ l w, s.isCommon l = true → s.mayStart l w = false) ∧
     (∀ t, s.slot.debtEnd = some t → exec .debtTimeEnd s = .next (if t.toNat ≤ s.time.toNat then
         let u : State := { s with slot := { s.slot with debtEnd := none } }
         s.roomMade (u.passTo (u.slotOwner u.slot.cur) u.slot.cur false)
       else s)) ∧
     (s.commonActive = true ∨ (s.time - s.slot.idleSince).toNat < 10000 ∨ s.slot.holder = none ∨ s.slot.pend ≠ none ∨
         s.edgeTime < s.time.toNat + s.slotGuard + 4000 → exec .donationIdle s = .next s) ∧
     ∀ h, s.commonActive = false → 10000 ≤ (s.time - s.slot.idleSince).toNat → s.slot.holder = some h → s.slot.pend = none →
       s.time.toNat + s.slotGuard + 4000 ≤ s.edgeTime →
       let gone := h :: s.slot.donors
       let out := if s.slot.debtEnd.isSome then (s.slotOwner s.slot.cur).toList ++ gone else gone
       exec .donationIdle s = .next (s.roomMade { s with slot :=
         match ((s.donees s.slot.cur).zipIdx.drop s.slot.served).find? fun x => !(out.contains x.1) with
         | some (p, k) => { s.slot with donors := gone, served := k + 1, pend := some (some p, true) }
         | none => { s.slot with donors := gone, pend := some (none, s.slot.don) } })) ∧
  (∀ (s : State) (cl : Nat),
     let c := s.clu cl
     let late := fld (s.dcw 0x078000) 30 23 * 100 ≤ (s.time - c.seizedAt).toNat
     (c.seized = none ∨ ¬late → exec (.seizeLendWatchdog cl) s = .next s) ∧
     (c.seized ≠ none → late → exec (.seizeLendWatchdog cl) s = .next (s.roomMade ((State.coresOf cl).foldl (fun t l =>
       if (t.core l).run then t.raise l { code := 0x14#8 } (t.core l).pc else t) s)))) ∧
  (∀ (s : State) (t : Nat), 
     (∀ x, kfind s.nops t = none → kfind s.teams t = some x →
       (s.teamDone t x = false → exec (.teamComplete t) s = .next s.pendServe) ∧
       (s.teamDone t x = true →
         let w := (s.teamWks t).foldl (fun v w => v.updCore w.1 fun c => c.freeWk w.2) s
         let u : State := { w with teams := kdel w.teams t }
         (x.graph = none → exec (.teamComplete t) s = .next ((if x.noDone = true then u.ringGone x.ring
           else u.ringDone x.ring x.status 0).graphStep.pendServe)) ∧
         ∀ g i, x.graph = some (g, i) →
           let v := if x.noDone = true then u else u.addDone x.fn x.ring.done
           exec (.teamComplete t) s = .next ({ v with
             graphs := v.graphs.map fun (y : Graph) => if y.id = g then
                 { y with done := i :: y.done, nodeSt := if y.nodeSt = 0 then x.status else y.nodeSt } else y
             signals := v.signals ||| 4#8 }.graphStep.pendServe))) ∧
     (∀ r v, kfind s.nops t = some r → s.entryReady r = (v, true) →
       exec (.teamComplete t) s = .next (({ v with nops := kdel v.nops t }.ringDone r 0 0).graphStep.pendServe)) ∧
     ∀ (r : Ring) (st ver : Nat),
       let u := s.addDone r.fn r.done
       let w := mkWord [(56, st), (32, fld r.w0 15 0), (0, ver)]
       s.ringDone r st ver = { u with
         signals := u.signals ||| 4#8
         entries := u.entries.filterMap fun (e : Entry) =>
           if e.slot = r.slot ∧ e.n = r.n ∧ e.owed.isNone then
             (if bit r.w0 27 = true then some { e with owed := some (w, u.time) } else none)
           else some e })

/-- Chapter 19: R402 to R408: a request names a team by its lead; one at a time, with a strategy forced or estimated, and
ends when it is reached; a resume brings a drained or saved team back; a save and a resume wait for clusters that are in
retention (R411). R409: a function's reset ends its launches, parks, holds and abandons what runs at 1 ms, and takes its slots,
bits, pins and translations. R410: the migration states and the two data windows; the teams saved for a migration that is
abandoned, or that a restore brings, are resumed. Not the spec's own: a request for a saved team, and which teams a migration saves (log entry 96), and how the stream
is laid out (log entry 11). -/
def Obligations.PreemptionAndMigration : Prop :=
  (∀ (s : State) (v : W64),
     let asks : List (Instr × Nat) := [(.preemptEstimate v, 0), (.preemptDrain v, 1), (.preemptDiscard v, 2), (.preemptSave v, 3)]
     (∀ p ∈ asks,
       let x := setFld (setFld v 63 63 1) 62 61 p.2
       let r : State := { s with pre := { s.pre with req := setFld x 63 63 0 } }
       (bit s.pre.status 63 = true → exec p.1 s = .next (s.errLog 1 0xFFF (ctlAddr 0xFFF 0x0C0000))) ∧
       (bit s.pre.status 63 = false →
         (s.teamOf x = none → exec p.1 s = .next { r with pre := { r.pre with status := 1#64 <<< 62 } }) ∧
         ∀ t y k miss e, s.teamOf x = some (t, y) →
           let r : State := { r with pre := { r.pre with part := some y.part } }
           r.chooseStrat t y x = (k, miss, e) →
           let w := if miss then r.missEvent (some y.part) else r
           exec p.1 s = .next (
             if k = 0 then { w with pre := { w.pre with status := mkWord [(62, 1), (61, 1)] } }
             else ({ w with pre := { w.pre with
               status := mkWord [(63, 1), (61, if miss then 1 else 0), (59, if y.st = TeamSt.ended then 0 else k), (0, min e (2 ^ 32 - 1))]
               at_ := w.time, team := t, res := false } }).preBegin t k y))) ∧
     (v &&& 0x7000_0000_FFFF_FFFF#64 = 0#64 →
       let x := setFld v 63 63 1
       (bit s.pre.status 63 = true ∨ s.teamOf x = none →
         exec (.teamResume v) s = .next (s.errLog 1 0xFFF (ctlAddr 0xFFF 0x0C0018))) ∧
       (∀ t y, s.teamOf x = some (t, y) → y.st ≠ .drained → y.st ≠ .saved →
         exec (.teamResume v) s = .next (s.errLog 1 0xFFF (ctlAddr 0xFFF 0x0C0018))) ∧
       ∀ t y, bit s.pre.status 63 = false → s.teamOf x = some (t, y) → y.st = .drained ∨ y.st = .saved →
         exec (.teamResume v) s = .next { s with pre := { s.pre with
           resume := setFld x 63 63 0, status := mkWord [(63, 1)], team := t, res := true } }.resumeGo)) ∧
  (∀ s : State,
     let t := s.pre.team
     let ends (u : State) (ok : Bool) : State := { u with pre := { u.pre with
       status := mkWord [(62, 1), (61, if ok then 0 else 1)], res := false } }
     (kfind s.teams t = none → s.resumeGo = ends s true) ∧
     ∀ y, kfind s.teams t = some y →
       (y.st ≠ .saved → y.st ≠ .drained → s.resumeGo = ends s true) ∧
       (y.st = .saved ∨ y.st = .drained →
         (s.teamAsleep t y ≠ [] → s.resumeGo = (s.teamAsleep t y).foldl State.wakeHome s) ∧
         (s.teamAsleep t y = [] → ∀ u ok, s.resumeTeam t y = (u, ok) → s.resumeGo = ends u ok))) ∧
  (∀ (s : State) (t : Nat) (y : Team) (x : W64),
     let dl := fld x 31 0 * 100
     let est (k : Nat) : Option Nat := s.estimate t y (bit x 60) k
     let fits (k : Nat) : Prop := ∃ e, est k = some e ∧ (dl = 0 ∨ e ≤ dl)
     (fld x 62 61 = 0 →
       (fits 1 → (s.chooseStrat t y x).1 = 1 ∧ (s.chooseStrat t y x).2.1 = false) ∧
       (¬fits 1 → fits 3 → (s.chooseStrat t y x).1 = 3 ∧ (s.chooseStrat t y x).2.1 = false) ∧
       (¬fits 1 → ¬fits 3 → fits 2 → (s.chooseStrat t y x).1 = 2 ∧ (s.chooseStrat t y x).2.1 = false) ∧
       (¬fits 1 → ¬fits 3 → ¬fits 2 → (s.chooseStrat t y x).2.1 = true ∧
         (s.chooseStrat t y x).1 =
           if bit x 60 = false then (if (est 2).isSome then 2 else 1)
           else if (est 3).isSome then 3 else if (est 2).isSome then 2 else 0)) ∧
     (∀ k, fld x 62 61 = k → k ≠ 0 →
       (∀ e, est k = some e → s.chooseStrat t y x = (k, false, e)) ∧ (est k = none → s.chooseStrat t y x = (0, true, 0)))) ∧
  (∀ (s : State) (t strat : Nat) (x : Team),
     let u : State := { s with teams := kput s.teams t { x with
       st := if strat = 2 then .ended else .stopping strat, status := if strat = 2 then 4 else x.status } }
     let gone := (u.teamWks t).filter fun w =>
       if strat = 2 then w.2.firing else strat = 3 && w.2.rst && (w.2.st == .running || w.2.st == .interrupted)
     let v := gone.foldl (fun v w => v.abandon w.1 w.2.ent false) u
     (x.st = .ended ∨ (x.st = .saved ∧ strat ≠ 2) → s.preBegin t strat x = s) ∧
     (x.st ≠ .ended → x.st ≠ .saved ∨ strat = 2 → s.preBegin t strat x = if strat = 1 then v else v.stripTeam t x)) ∧
  (∀ (a s : State), a.resumeBack = s →
     let dl := fld s.pre.req 31 0 * 100
     let ends (u : State) (k : Nat) : State :=
       let late := dl ≠ 0 ∧ dl < (u.time - u.pre.at_).toNat ∧ k ≠ 0
       let w := if late ∧ bit u.pre.status 61 = false then u.missEvent u.pre.part else u
       { w with pre := { w.pre with status := mkWord [(62, 1), (61, if bit u.pre.status 61 = true ∨ late then 1 else 0), (59, k),
         (0, min (fld w.pre.status 31 0) (2 ^ 32 - 1))] } }
     ((∀ t ∈ a.teams, t.2.back = false) → s = a) ∧
     (∀ t x, a.teams.filter (fun t => t.2.back) = [(t, x)] → kfind a.teams t = some x →
       let put : State := { a with teams := kput a.teams t { x with back := false } }
       (x.st ≠ .saved → x.st ≠ .drained → s = put) ∧
       (x.st = .saved ∨ x.st = .drained →
         (a.teamAsleep t x ≠ [] → s = (a.teamAsleep t x).foldl State.wakeHome a) ∧
         (a.teamAsleep t x = [] → s = (put.resumeTeam t { x with back := false }).1.graphStep))) ∧
     (bit s.pre.status 63 = true → s.pre.res = true → exec .preemptComplete a = .next s.resumeGo) ∧
     (bit s.pre.status 63 = true → s.pre.res = false →
       (kfind s.teams s.pre.team = none →
         exec .preemptComplete a = .next (ends s (if fld s.pre.status 60 59 = 2 then 2 else 0))) ∧
       ∀ t k, kfind s.teams s.pre.team = some t → t.st = .stopping k →
         (s.teamDone s.pre.team t = true ∨ s.preReached s.pre.team t k = false → exec .preemptComplete a = .next s) ∧
         (s.teamDone s.pre.team t = false → s.preReached s.pre.team t k = true →
           (k = 1 → exec .preemptComplete a = .next (ends
             { s with teams := kput s.teams s.pre.team { t with st := .drained } } 1)) ∧
           (k = 3 → s.teamAsleep s.pre.team t ≠ [] →
             exec .preemptComplete a = .next ((s.teamAsleep s.pre.team t).foldl State.wakeHome s)) ∧
           ∀ u n, k = 3 → s.teamAsleep s.pre.team t = [] →
             s.saveTeam s.pre.team t (fld s.pre.area 47 12 <<< 12) = (u, n) → u.pre = s.pre →
             exec .preemptComplete a = .next (ends u 3))) ∧
     (bit s.pre.status 63 = false →
       let calm (fn : Nat) : State := { s with teams := s.teams.map fun t =>
         if t.2.fn = fn then (t.1, { t.2 with back := false }) else t }
       let mine (fn : Nat) : List (Nat × Team) := (calm fn).teams.filter fun t => t.2.fn == fn
       (∀ t x, (s.teams.find? fun t => t.2.st == .stopping 3 && !(s.teamDone t.1 t.2) && s.preReached t.1 t.2 3) = some (t, x) →
         (s.teamAsleep t x ≠ [] → exec .preemptComplete a = .next ((s.teamAsleep t x).foldl State.wakeHome s)) ∧
         ∀ u n, s.teamAsleep t x = [] → s.saveTeam t x (s.nextArea x) = (u, n) → exec .preemptComplete a = .next u) ∧
       ((∀ t ∈ s.teams, t.2.st ≠ .stopping 3) →
         ((∀ m ∈ s.migr, m.2 ≠ 2#3) → exec .preemptComplete a = .next s) ∧
         ∀ fn, (s.migr.filter fun m => m.2 = 2#3).map (·.1) = [fn] →
           ((mine fn).all (fun t => t.2.st == .saved) = true →
             exec .preemptComplete a = .next { calm fn with migr := kput s.migr fn 3#3 }) ∧
           ((mine fn).all (fun t => t.2.st == .saved) = false →
             exec .preemptComplete a = .next (((mine fn).filter fun t => t.2.st == .placed || t.2.st == .drained).foldl
               (fun v t => v.preBegin t.1 3 t.2) (calm fn)))))) ∧
  (∀ (s : State) (fn : Nat),
     (0 < fn → fn ≤ 512 →
       let mine := s.teams.filter fun t => t.2.fn == fn
       let u : State := { s with
         resets := kput s.resets fn s.time.toNat, graphs := s.graphs.filter (·.fn != fn)
         nops := s.nops.filter (·.2.fn != fn)
         teams := s.teams.map fun t =>
           if t.2.fn = fn then (t.1, { t.2 with st := .ended, status := 4, noDone := true, ring := { fn := fn } }) else t }
       exec (.vfReset fn) s = .next (mine.foldl (fun v t =>
         ((v.teamRunning t.1).filter (·.2.rst)).foldl (fun v w => v.abandon w.1 w.2.ent false) v) u)) ∧
     (fn = 0 → exec (.vfReset fn) s = .next s) ∧
     (let slots := s.slotsOf fn
      (kfind s.resets fn = none → exec (.vfResetTimeout fn) s = .next (s.pendServeN slots.length)) ∧
      ∀ t0, kfind s.resets fn = some t0 →
        let mine := s.teams.filter fun t => t.2.fn == fn
        let running := mine.flatMap fun t => s.teamRunning t.1
        (running ≠ [] → s.time.toNat < t0 + 1000000 →
          exec (.vfResetTimeout fn) s = .next (s.pendServeN slots.length)) ∧
        (running = [] ∨ t0 + 1000000 ≤ s.time.toNat →
          let held := running.foldl (fun v w => v.resetHold w.1 w.2) s
          let parking : Prop := ∃ t ∈ mine, held.teamRunning t.1 ≠ []
          let gone := mine.foldl (fun v t => ((v.teamWks t.1).filter (·.2.firing)).foldl (fun v w => v.abandon w.1 w.2.ent false) v) held
          let u := mine.foldl (fun v t => v.teamComplete t.1) gone
          (parking → exec (.vfResetTimeout fn) s = .next (held.pendServeN slots.length)) ∧
          (¬parking → (∃ t ∈ u.teams, t.2.fn = fn) → exec (.vfResetTimeout fn) s = .next (u.pendServeN slots.length)) ∧
          (¬parking → (∀ t ∈ u.teams, t.2.fn ≠ fn) →
            exec (.vfResetTimeout fn) s = .next ((((({ u with
              resets := kdel u.resets fn, nops := u.nops.filter (·.2.fn != fn)
              entries := u.entries.filter fun e => !((u.slotsOf fn).contains e.slot)
              pendAt := u.pendAt.filter (·.1 / 8 != fn), w2wait := u.w2wait.filter (·.1 != fn)
              qslots := u.qslots.map fun (q : Nat × W64) => if fld q.2 61 52 = fn then (q.1, setFld q.2 63 63 0) else q } : State).setDcw
                (0x0B1000 + 8 * fn) 0#64).dropParty (.fn fn)).dropCtx (BitVec.ofNat 10 fn)).pendServeN slots.length))))) ∧
  (∀ (s : State) (l : Nat) (w : Wk),
     (((s.core l).intr.all fun i => i.ent != w.ent) = true →
       let r := s.raise l { code := 0x14#8 } (s.core l).pc
       s.resetHold l w = if (r.core l).holdDue = none then r else r.parkCtl l) ∧
     ∀ i, (s.core l).intr.find? (fun i => i.ent == w.ent) = some i →
       let p := s.updCore l fun c => c.parkIntr l w i
       ((∃ k ∈ (p.core l).intr, k.ent = w.ent ∧ k.held ≠ []) → s.resetHold l w = p) ∧
       ((∀ k ∈ (p.core l).intr, k.ent = w.ent → k.held = []) → s.resetHold l w =
         ((p.updCore l fun c => c.latchFault { code := 0x14#8 }).postRecord w.part (p.faultRecord l { code := 0x14#8 } (w.owner l)
           true (bit i.tstat 63) i.guard i.pc)).abandon l w.ent false)) ∧
  (∀ (s : State) (fn : Nat), fn ≤ 512 →
     let refused : State := s.pfLog 6 0 (0x150000 + 8 * fn)
     let toSt (v : BitVec 3) : State := { s with migr := kput s.migr fn v }
     let back (u : State) : State :=
       { u with teams := u.teams.map fun (t : Nat × Team) =>
           if t.2.fn = fn ∧ t.2.st = TeamSt.saved then (t.1, { t.2 with back := true }) else t }.resumeBack.graphStep
     exec (.migrationPrecopy fn) s = .next (if s.migState fn = 0#3 then
         { toSt 1#3 with streamed := kdel s.streamed fn, image := kdel s.image fn, stateSent := s.stateSent.filter (· != fn) }
       else refused) ∧
     (let calm : State := { toSt 2#3 with teams := s.teams.map fun t =>
        if t.2.fn = fn then (t.1, { t.2 with back := false }) else t }
      let mine := calm.teams.filter fun t => t.2.fn == fn
      let stops := (mine.filter fun t => t.2.st == .placed || t.2.st == .drained).foldl (fun v t => v.preBegin t.1 3 t.2) calm
      (s.migState fn ≠ 1#3 → exec (.migrationStopping fn) s = .next refused) ∧
      (s.migState fn = 1#3 →
        exec (.migrationStopping fn) s = .next (
          if mine.all fun t => t.2.st == .saved then { stops with migr := kput stops.migr fn 3#3 } else stops))) ∧
     exec (.migrationAbandon fn) s = .next (if s.migState fn = 3#3 then back (toSt 0#3) else s) ∧
     exec (.migrationResuming fn) s = .next (if s.migState fn = 0#3 then { toSt 4#3 with image := kput s.image fn [] } else refused) ∧
     exec (.migrationRestore fn) s = .next (if s.migState fn = 4#3 then
         (let b := kget s.image fn []
          let u := ((toSt 0#3).applyChunks fn b.length b).bringBack fn b
          back { u with image := kdel u.image fn })
       else s)) ∧
  (∀ (s : State) (v : W64),
     let st := s.migState s.migSel
     (st = 1#3 ∨ st = 2#3 ∨ st = 3#3 →
       let u := s.refill s.migSel
       exec .migrationDataRead s = .next { u with
         w2out := (kget u.image s.migSel []).take 8, image := kput u.image s.migSel ((kget u.image s.migSel []).drop 8) }) ∧
     (st = 0#3 ∨ st = 4#3 → exec .migrationDataRead s = .next { s with w2out := List.replicate 8 0#8 }) ∧
     exec (.migrationDataWrite v) s = .next (if st = 4#3 then
         { s with image := kput s.image s.migSel (kget s.image s.migSel [] ++ toBytes 8 v.toNat) }
       else s.pfLog 6 0 0x1000))

/-- Chapter 21: R436 to R438: heartbeats go every 100 µs and their age is kept; promotion and following; the demotes that
cross. R434: the offset an exchange finds goes by at most 50 ppm of the time that passes. R439 and R440: the Boot command
starts verification of the staged image; R441: the last nonce word makes a report. R28, R122, R440, R442, R443: what a
device reset leaves, and a loss of power. Not the spec's own: log entries 45 (which states take the Boot command), 46 (the causes
of signals 5 and 6), 47 (the age of the heartbeat at a follower's start) and 48 (what outlives a device reset). -/
def Obligations.LinkTimeAndStart : Prop :=
  (∀ s : State,
     (let due := s.up = true ∧ s.flw = false ∧ s.firm.rdy = true ∧ 100000 ≤ (s.time - s.hbSent).toNat
      (due → exec .heartbeatSend s = .next { s with spareOut := s.spareOut ++ [.heartbeat], hbSent := s.time }) ∧
      (¬due → exec .heartbeatSend s = .next s)) ∧
     exec .heartbeatArrival s = .next (if s.flw = true then { s with hbAt := s.time, hbTold := false } else s) ∧
     (s.flw = true → s.hbTold = false → 3000 < (s.time - s.hbAt).toNat / 1000 →
       exec .heartbeatTimeout s = .next { s with
         hbTold := true, msi := kput s.msi 0 (kget s.msi 0 0 + 1), signals := s.signals ||| 32#8 }) ∧
     (s.flw = false ∨ s.hbTold = true ∨ (s.time - s.hbAt).toNat / 1000 ≤ 3000 → exec .heartbeatTimeout s = .next s) ∧
     (let follow (f : Bool) : KMap Obj := s.objs.map fun o => (o.1, { o.2 with follow := f && bit (s.objCfg o.1) 62 })
      let follower : State := { s with objs := follow true, flw := true, hbAt := s.time, hbTold := false }
      (∀ at_ : W64,
        let stays := s.flw = true ∨ at_.toNat < s.promoted.toNat ∨ (at_ = s.promoted ∧ Config.rootPort = true)
        (stays → exec (.demoteArrival at_) s = .next { s with signals := s.signals ||| 32#8 }) ∧
        (¬stays → exec (.demoteArrival at_) s = .next { follower with signals := s.signals ||| 32#8 })) ∧
      exec .followerEnter s = .next (if s.flw = false ∧ s.teams = [] ∧ (∀ o ∈ s.objs, o.2.resv = none) then
          { follower with signals := s.signals ||| 64#8 } else { s with signals := s.signals ||| 64#8 }) ∧
      exec .promote s = .next (if s.flw = true then
          { s with
            objs := follow false, flw := false, promoted := s.time, signals := s.signals ||| 64#8
            spareOut := (if s.up then s.spareOut ++ [.demote s.time] else s.spareOut) }
        else { s with signals := s.signals ||| 64#8 })) ∧
     exec .spareLinkTrain s = .next { s with up := true, signals := s.signals ||| 32#8 } ∧
     (let mirrors := (∃ o ∈ s.objs, objEn (s.objCfg o.1) = true ∧ bit (s.objCfg o.1) 62 = true) ∨
        ∃ fn < 513, ∃ i < 16, bit (s.aperture fn i) 63 = true ∧ bit (s.aperture fn i) 62 = true
      let lost : State := { s with up := false, signals := s.signals ||| 32#8 }
      (s.up = true ∧ (s.flw = true ∨ mirrors) → exec .spareLinkLoss s = .next { lost with why := s.why ||| 64#16 }) ∧
      (¬(s.up = true ∧ (s.flw = true ∨ mirrors)) → exec .spareLinkLoss s = .next lost)) ∧
     (∀ host : W64,
       let due := s.firm.boot ≠ 0#3 ∧ 10000000 ≤ (s.time - s.ptmAt).toNat
       (due → exec (.ptmExchange host) s = .next
         (if Config.ptmLink then { s with ptmOff := (host.toNat : Int) - s.time.toNat, ptmAt := s.time } else s)) ∧
       (¬due → exec (.ptmExchange host) s = .next s)) ∧
     (∀ e : Nat, ∃ k : Int,
       let most : Nat := (s.slewRem + e) / 20000
       (0 : Int) ≤ most + k ∧ k ≤ most ∧ (s.ptmOff.natAbs ≤ most → k = s.ptmOff) ∧
       s.slew e = { s with
         time := BitVec.ofNat 64 (s.time.toNat + ((e : Int) + k).toNat), ptmOff := s.ptmOff - k,
         slewRem := (s.slewRem + e) % 20000 })) ∧
  (∀ (s : State) (image : List Byte) (i : Nat) (v : W64),
     exec (.bootCommand image) s = .next (if s.firm.boot = 1#3 ∨ s.firm.boot = 4#3 then
         { s with firm := { s.firm with boot := 2#3, staging := memWriteN s.firm.staging 0 image } } else s) ∧
     (let put : State := { s with firm := { s.firm with nonce := kput s.firm.nonce i v } }
      (i < 3 → exec (.attestationNonceWrite i v) s = .next put) ∧
      (i = 3 →
        let b := put.reportBody
        b.take 32 = toBytes 8 (kget s.firm.nonce 0 0#64).toNat ++ toBytes 8 (kget s.firm.nonce 1 0#64).toNat ++
          toBytes 8 (kget s.firm.nonce 2 0#64).toNat ++ toBytes 8 v.toNat ∧ b.length = 160 ∧
        exec (.attestationNonceWrite i v) s = .next { put with firm := { put.firm with
          report := b ++ toBytes 64 (Config.ed25519Sign (Config.sha512 b)).toNat, attOk := true } }))) ∧
  (∀ s : State,
     nextWith (exec .deviceReset s) (fun t =>
       t.time = 0#64 ∧ t.why = s.why ∧ t.crashes = s.crashes ∧ t.crashCount = s.crashCount ∧ t.failed = s.failed ∧
       t.retiredWays = s.retiredWays ∧
       t.firm = { store := s.firm.store } ∧ (∀ a, a >>> 60 ≠ 8 → memRead t.mem a = 0#8) ∧ t.cores = [] ∧ t.clusters = [] ∧
       t.objs = [] ∧ t.teams = [] ∧ t.sets = [] ∧ t.memCfg = false ∧ ∀ l < 0x840, t.retired l = s.retired l) ∧
     exec .powerLoss s = .next { State.reset with tick := s.tick })

/-- R9, R20, R21 and R463, with the rule of each word: a write of a control word from outside the cores: reserved bits
refuse it, the word's own check refuses and counts it, and else every field that its writer may write takes its value; a
write that ends an ownership (R41), or disables an object (R160), waits while admitted work is there. A write by a thread's
class 0x7 store does the same, with the privilege or reserved-field fault as its answer; one of 4 bytes is one write of the
whole word whose other half writes back its RW fields and 0 to W1C bits, and two 32-bit entries are written each under its own
check. Not the spec's own: log entries 113 (a key's low half), 121, 122, 40 (a proxied write of reserved bits is logged; other
words drop them), 92 (an event whose reserved bits fail writes nothing), 145 (a write of a word that only the PF writes) and 146
(reserved bits of the retired-way words). -/
def Obligations.ControlSpaceWrites : Prop :=
  (∀ (s : State) (v : W64),
     let put (target off : Nat) (rw : W64) : W64 := (s.cw target off &&& ~~~rw) ||| (v &&& rw)
     let word (e : Instr) (target off : Nat) (res rw : W64) (owns : Bool) (ok : W64 → Bool) : Prop :=
       let n := put target off rw
       (v &&& res ≠ 0#64 → exec e s = .next s) ∧
       (v &&& res = 0#64 → ok n = true →
         exec e s = .next (if (owns && s.ctlWaits none target off 8 v) = true then s else s.setCw target off n)) ∧
       (v &&& res = 0#64 → ok n = false → exec e s = .next (s.errLog 1 0xFFF (ctlAddr target off)))
     (∀ n ≤ 512, word (.contextEntryWrite n v) 0xFFF (0x020000 + 8 * n) 0x7FC0_0000_0000_FFFE#64 0x803F_FFFF_FFFF_0001#64
       false fun _ => true) ∧
     (∀ p < 64, ∀ i < 4, word (.lockedSramRangeWrite p i v) 0xFFF (0x041000 + 32 * p + 8 * i) 0x7FFF_FFFF_FC00_FC00#64
       0x8000_0000_03FF_03FF#64 true (s.sramOk (0x041000 + 32 * p + 8 * i))) ∧
     (∀ p < 64, word (.limitWrite p v) 0xFFF (0x040000 + 8 * p) 0xFC00_0000_0FC0_FFFF#64 0x03FF_FFFF_F03F_0000#64 false fun n =>
       decide (16 ≤ fld n 57 49 ∧ fld n 57 49 ≤ 256 ∧ 1 ≤ fld n 48 44 ∧ fld n 48 44 ≤ 16 ∧ fld n 43 36 ≤ 64 ∧
         fld n 35 28 ≤ 128 ∧ fld n 21 16 ≤ 24)) ∧
     (∀ p < 64, word (.dramShareWrite p v) 0xFFF (0x050000 + 8 * p) 0xFFFF_FFFF_FFFF_F800#64 0x7FF#64
       false (s.dramOk (0x050000 + 8 * p))) ∧
     (∀ k < 15, word (.routeWordWrite k v) 0xFFF (0x070000 + 8 * k) 0xFFFF_FFFF_FFFF_FFFC#64 3#64 false fun _ => true) ∧
     (∀ off, inArr off 0x046000 8 128 = true ∨ inArr off 0x078040 8 4 = true → off % 8 = 0 →
       word (.intervalWrite off v) 0xFFF off 0x7FFF_FFFF_F000_F000#64 0x8000_0000_0FFF_0FFF#64 true
         (s.ivalOk off)) ∧
     (∀ sl < 64,
       (∀ p < 64, word (.wayMaskWrite sl p v) (0xC00 + sl) (8 * p) 0xFFFF_FFFF_FFFF_0000#64 0xFFFF#64 false fun n =>
         fld n 15 0 &&& s.slotWays sl == 0) ∧
       (v &&& 0xFFFF_FFFF_FFFF_0000#64 = 0#64 → (∀ p < 64, fld (s.cw (0xC00 + sl) (8 * p)) 15 0 &&&
           (v.toNat &&& (0xFFFF ^^^ s.slotWays sl)) = 0) → s.cw (0xC00 + sl) 0x208 &&& 0xFFFF_FFFF_FFFF_0000#64 = 0#64 →
         exec (.slotWayWrite sl v) s = .next (s.setSlotWays (0xC00 + sl) v))) ∧
     (∀ t off, t < 0x840 → t % 4 = 0 → inArr off 0x1000 8 4 = true → off % 8 = 0 →
       word (.windowWrite t off v) t off 0x3FC0_FFFF_FF00_FF00#64 0xC03F_0000_00FF_00FF#64 true
       (s.windowOk t off)) ∧
     word (.thermalLimitsWrite v) 0xFFF 0x0E0008 0xFFFF_FF00_0000_0000#64 0xFF_FFFF_FFFF#64 false fun n =>
       decide (fld n 15 8 < fld n 23 16 ∧ fld n 23 16 < fld n 31 24 ∧ fld n 31 24 ≤ 125)) ∧
  (∀ (s : State) (v : W64),
     (∀ p < 64, nextWith (exec (.capabilityKeyInstall p v) s) fun t =>
       t.keyOf p = v ++ kget s.keyLow p 0#64 ∧ t.epochOf p = (s.epochOf p + 1) % 2 ^ 32 ∧
       ∀ q < 64, q ≠ p → t.keyOf q = s.keyOf q ∧ t.epochOf q = s.epochOf q) ∧
     (∀ l, exec (.coreRetire l) s = .next (if l < 0x840 ∧ s.retired l = false then
         (s.setDcw (0x010000 + 4 * l) (setFld (setFld (s.dcw (0x010000 + 4 * l)) 30 30 1) 31 31 0)).setWhy
           (if s.firm.boot = 3#3 then 1 else 0)
       else s)) ∧
     exec .errorLogClear s = .next (s.setDcw 0x052000 (setFld (s.dcw 0x052000) 63 32 0)) ∧
     exec .pfErrorLogClear s = .next { s with pfCount := 0#32 } ∧
     (v &&& 0xF00F_FFFF#64 = 0#64 →
       (s.memCfg = false → exec (.memoryConfigWrite v) s = .next { s.setDcw 0x051008
         ((s.dcw 0x051008 &&& 0xF00F_FFFF#64) ||| v) with memCfg := true }) ∧
       (s.memCfg = true → exec (.memoryConfigWrite v) s = .next (s.errLog 1 0xFFF (ctlAddr 0xFFF 0x051008)))) ∧
     (exec (.powerStatusClear v) s = .next (s.setDcw 0x0E0010
       (((s.dcw 0x0E0010 &&& 0xFFFF_FFFF_0000_0000#64) ||| (v &&& 0xFFFF_FFFF#64)) &&& ~~~(v &&& 0x8000_0000_0000_0000#64)))) ∧
     (∀ fn ≤ 512, ∀ i < 16,
       let off := 0x0E8000 + 128 * fn + 8 * i
       let n := (s.dcw off &&& 0x3FFF_C000_FFFF_C000#64) ||| (v &&& 0xC000_3FFF_0000_3FFF#64)
       exec (.apertureWrite fn i v) s = .next (
         if v &&& 0x3FFF_C000_FFFF_C000#64 ≠ 0#64 then s.pfLog 3 0 off
         else if s.apertureOk off n = true then s.setDcw off n else s.pfLog 4 0 off)) ∧
     (∀ fn ≤ 512, ∀ j < 64, ∀ w : W32,
       let off := 0x080000 + 256 * fn + 4 * j
       let cfg := s.objCfg (w.toNat % 2 ^ 10)
       exec (.objectMapWrite fn j w) s = .next (
         if w &&& 0x1FFF_FC00#32 ≠ 0#32 then s.pfLog 3 0 off
         else if w.getLsbD 31 = true ∧ (objEn cfg = false ∨ objPart cfg ≠ (s.fnPart fn).toNat) then s.pfLog 4 0 off
         else s.setDcw off (w.setWidth 64))) ∧
     (∀ n < 1024,
       let off := 0x060000 + 64 * n
       let x (b : Nat) : W64 := (s.dcw off &&& 0x3FC0_0000_0FFE_0000#64) ||| (setFld v 63 63 b &&& 0xC03F_FFFF_F001_FFFF#64)
       (v &&& 0x3FC0_0000_0FFE_0000#64 = 0#64 →
         exec (.objectEnable n v) s = .next (if s.objOk off (s.dcw off) (x 1) = true then s.setObjCfg n (s.dcw off) (x 1)
           else s.errLog 1 0xFFF (ctlAddr 0xFFF off)) ∧
         exec (.objectDisable n v) s = .next (if s.objOk off (s.dcw off) (x 0) = true then
             (if objEn (s.dcw off) = true ∧ s.objBusy none n = true then s else s.setObjCfg n (s.dcw off) (x 0))
           else s.errLog 1 0xFFF (ctlAddr 0xFFF off))) ∧
       exec (.clearPins n) s = .next (s.setObj n ({ s.obj n with pins := [] } : Obj).settle) ∧
       ((s.obj n).resv = none → exec (.cancelReservation n) s = .next (s.setObj n (s.obj n))) ∧
       ∀ k h, (s.obj n).resv = some (k, h) →
         exec (.cancelReservation n) s = .next (s.setObj n { s.obj n with resv := none, slots := kdel (s.obj n).slots k })) ∧
     (let old := s.dcw 0x078000
      let x (b : Nat) : W64 := (old &&& 0x7F00_0000_007F_FFFF#64) ||| (setFld v 63 63 b &&& 0x80FF_FFFF_FF80_0000#64)
      let set (n : W64) : State := if s.slotCtlOk old n = true then s.setSlotCtl old n else s.errLog 1 0xFFF (ctlAddr 0xFFF 0x078000)
      v &&& 0x7F00_0000_007F_FFFF#64 = 0#64 →
        exec (.slotTableEnable v) s = .next (set (x 1)) ∧ exec (.slotTableDisable v) s = .next (set (x 0))) ∧
     (let st := fld v 63 62
      let woken := s.clusters.map fun (c : Nat × Cluster) =>
        if c.2.ret = .retained then (c.1, { c.2 with ret := .exiting }) else c
      let put : State := { s.setDcw 0x0E0000 v with clusters := if st = 0 then woken else s.clusters }
      (s.devState ≠ 2 ∨ st = 2 → s.setPower v = put) ∧
      (s.devState = 2 → st ≠ 2 →
        (∀ a, a >>> 60 = 1 → isGrove ((a >>> 48) % 4096) = true → memRead (s.setPower v).mem a = 0#8) ∧
        (∀ a, a >>> 60 ≠ 1 → a >>> 60 ≠ 3 → a >>> 60 ≠ 4 → memRead (s.setPower v).mem a = memRead s.mem a) ∧
        (s.setPower v).cores = s.cores.map fun c => if isGrove c.1 then (c.1, c.2.zeroSlots) else c)) ∧
     (let x (st : Nat) : W64 := (s.dcw 0x0E0000 &&& 0x3FFF_FFFF_FFFF_FC00#64) ||| (setFld v 63 62 st &&& 0xC000_0000_0000_03FF#64)
      let set (n : W64) : State := if 160 ≤ fld n 9 0 ∧ fld n 9 0 ≤ 960 ∧ ¬(fld n 63 62 = 2 ∧ s.groveTeams = true) then s.setPower n
        else s.errLog 1 0xFFF (ctlAddr 0xFFF 0x0E0000)
      v &&& 0x3FFF_FFFF_FFFF_FC00#64 = 0#64 →
        exec (.deviceStateRun v) s = .next (set (x 0)) ∧ exec (.deviceStateRetain v) s = .next (set (x 1)) ∧
        exec (.deviceStateGroveoff v) s = .next (set (x 2))) ∧
     (∀ target off, ctlMap target off = none → isCw target off = false → isAccum target off = false → isEntry target off = false →
       (target ≠ 0xFFF → exec (.controlWordWrite 0 target off v) s = .next (s.errLog 2 0xFFF (ctlAddr target off)).pendServe ∧
         exec (.controlWordWrite 1 target off v) s = .next (s.errLog 2 0xFFF (ctlAddr target off)).pendServe) ∧
       exec (.controlWordWrite 2 target off v) s = .next (s.pfLog 3 0 off).pendServe) ∧
     (exec (.controlWordWrite 3 0 0x28 v) s = .next ({ s with migSel := fld v 9 0 } : State).pendServe ∧
       exec (.controlWordWrite 3 0 0x10 v) s = .next ({ s with pfQueue := v &&& 0x800F_FFFF_FFFF_F000#64 } : State).pendServe ∧
       ∀ fn off, fn ≠ 0 → off ≠ 0 → off ≠ 8 → off ≠ 0x18 → exec (.controlWordWrite 3 fn off v) s = .next (s.pfLog 1 fn off).pendServe)) ∧
  (∀ (s : State) (w : Writer) (target off : Nat) (v : W64) (m : CwMap), ctlMap target off = some m →
     isEntry target off = false → isCw target off = false → isAccum target off = false →
     let addr : Nat := 7 * 2 ^ 60 + target * 2 ^ 48 + off
     let out (hi : Bool) : State × Option Flt := s.ctlWrite64 { w with hi := hi } target off v
     let may : Prop := if w.proxy = true then m.pf = true
       else if w.mode = .station then m.sta = true else m.hyp = true ∧ w.mode = .hypervisor
     let new := m.apply w.mode (s.ctlWord target off) v
     let writable : W64 := if w.mode = .station then m.rw ||| m.stn else m.rw
     (∀ i < 64, new.getLsbD i =
       (!(v.getLsbD i && m.w1c.getLsbD i) && if writable.getLsbD i then v.getLsbD i else (s.ctlWord target off).getLsbD i)) ∧
     (w.proxy = true → ¬may ∨ v &&& m.res ≠ 0#64 → out false = (s.pfLog 3 0 off, none)) ∧
     (w.proxy = false → ∀ hi,
       let at_ := BitVec.ofNat 64 (addr + if hi then 4 else 0)
       (¬may → out hi = (s, some { code := 0x03#8, faddr := some at_ })) ∧
       (may → v &&& m.res ≠ 0#64 → out hi = (s, some { code := 0x04#8, faddr := some at_ }))) ∧
     (may → v &&& m.res = 0#64 → (target, off) ≠ (0xFFF, 0x051008) →
       (s.ctlOk target off (s.ctlWord target off) new = true →
         ∀ hi, out hi = (s.ctlDo target off (s.ctlWord target off) v new, none)) ∧
       (s.ctlOk target off (s.ctlWord target off) new = false → ¬(target = 0xFFF ∧ inArr off 0x0E8000 8 8208 = true) →
         ∀ hi, out hi = (s.errLog 1 w.src (addr + if hi then 4 else 0), none)))) ∧
  (∀ (s : State) (target off : Nat) (old v new : W64),
     let plain : List (Nat × Nat) := [(0x020000, 513), (0x030000, 64), (0x040000, 64), (0x041000, 256), (0x042000, 64),
       (0x043000, 64), (0x044000, 128), (0x045000, 64), (0x046000, 128), (0x047000, 64), (0x050000, 64), (0x070000, 16),
       (0x078008, 1), (0x078040, 4), (0x078100, 256), (0x0E0008, 1), (0x0E0010, 1), (0x0E0100, 64), (0x0E8000, 8208)]
     (target = 0xFFF → (plain.any fun x => inArr off x.1 8 x.2) = true → s.ctlDo target off old v new = s.setDcw off new) ∧
     (target < 0x840 → s.ctlDo target off old v new = s.setCw target off new) ∧
     (0xC00 ≤ target → target < 0xC40 → off ≤ 0x200 ∨ off = 0x500 → s.ctlDo target off old v new = s.setCw target off new) ∧
     (0xD00 ≤ target → target < 0xD20 →
       s.ctlDo target off old v new = s.setCw target 0 (setFld (s.cw target 0) 23 0 (fld new 23 0))) ∧
     (0xE00 ≤ target → target < 0xE84 → off < 0x4000 → s.ctlDo target off old v new = s.setCw target off new)) ∧
  (∀ (s : State) (w : Writer) (target off : Nat) (v : W64), isEntry target off = false →
     s.ctlWrite w target off 8 v = s.ctlWrite64 { w with hi := false } target off v ∧
     ∀ hi : Bool, off % 8 = (if hi then 4 else 0) →
       ∃ x : W64, s.ctlWrite w target off 4 v = s.ctlWrite64 { w with hi := hi } target (off / 8 * 8) x ∧
         (if hi then fld x 63 32 else fld x 31 0) = fld v 31 0 ∧
         ∀ m, (if isCw target (off / 8 * 8) = true then m = cwMap (off / 8) else ctlMap target (off / 8 * 8) = some m) →
           ∀ i < 64, decide (32 ≤ i) = !hi → x.getLsbD i =
             ((s.ctlWord target (off / 8 * 8)).getLsbD i && !(m.w1c.getLsbD i) && !(m.res.getLsbD i))) ∧
  (∀ (s : State) (w : Writer) (off : Nat) (v : W64), isEntry 0xFFF off = true →
     s.ctlWrite w 0xFFF off 4 v = s.entryWrite w off (fld v 31 0) ∧
     ∀ t u f g, s.entryWrite w off (fld v 31 0) = (t, f) → t.entryWrite w (off + 4) (fld v 63 32) = (u, g) →
       s.ctlWrite w 0xFFF off 8 v = (u, f.orElse fun _ => g)) ∧
  (∀ (s t : State) (l : Nat) (a : Acc) (f : Option Flt),
     (s.core l).accNo a.n = some a → a.st = .issued → a.arr = 0 → a.grp = 0 → a.home = .ctl → a.kind = .store →
     (s.core l).mayPerform l a = true → s.homeReady a.part a.home a.key a.span = true →
     let w : Writer := { src := l, mode := if a.obj = 3 then .station else if a.obj = 2 then .hypervisor else .partition, part := a.part }
     let target := fld a.va 59 48
     let off := fld a.va 47 0
     (s.ctlWaits (some (l, a.n)) target off a.len a.data = true → exec (.accessPerform l a.n false) s = .next s.pendServe) ∧
     (s.ctlWaits (some (l, a.n)) target off a.len a.data = false → s.ctlWrite w target off a.len a.data = (t, f) →
       exec (.accessPerform l a.n false) s = .next (match f with
         | none => t.updCore l fun c => c.updAcc a.n fun x => { x with st := .performed, data := 0#64, cmp := 0#64 }
         | some f => t.updCore l fun c => c.updAcc a.n fun x =>
           { x with st := .performed, flt := some { f with faddr := some a.va, word := a.word } }).pendServe))

/-! ### Words that complete -/

/-- What the rules of chapters 06, 11 and 14 to 16 say of a word that meets its own conditions: it completes, and what its
effect then is. Every condition is on the state and the operands alone: the word issues (R229, R196, R217), its operands
name what its partition may use (R43, R39 to R41), nothing it needs is full, and it asks for no counter where it may have one.
Words: DEAD and the hints; the atomics; the mailbox words; copies and leases; Wain and Tender words; traps and returns;
control words; SEIZE, CEDE and YIELDSLOT; the Station's words. Not the spec's own: log entries 126 (what MUNPIN looks at), 71
(a WSTEP with a Dec of any alignment), 18, 19 and 23 (the entry that SPOST finishes, the function of a record that no RFETCH
wrote, the alignment of SPOST's entry). -/
def Obligations.WordsComplete : Prop :=
  let done (i : Instr) (s : State) (p : State → Prop) : Prop :=
    ∃ t, exec i s = .next t ∧ t.own.pc = s.own.pc + 4#64 ∧ p t
  let grows (s t : State) (p : Acc → Prop) : Prop := ∃ x : Acc, t.own.acc = s.own.acc ++ [x] ∧ x.n = s.own.accNext ∧ p x
  -- hints and DEAD
  (∀ (s : State) (m : Bool) (i : BitVec 12) (a : R6),
     (s.mover.strm = .ctl → s.own.guard.rem = 0 →
       let kept (t : State) : Prop := ∀ r, t.reg s.me r = s.reg s.me r
       (∀ h : BitVec 6, done (.nop m i a h) s kept) ∧ done (.prefR m i a) s kept ∧ done (.prefW m i a) s kept) ∧
     ∀ n : R6, s.ctlReady { names := [a + n] } = true → a.toNat + n.toNat ≤ 63 →
       done (.dead m n a) s fun t => ∀ r : R6, r.toNat < a.toNat ∨ a.toNat + n.toNat < r.toNat → t.reg s.me r = s.reg s.me r) ∧
  -- atomics
  (∀ (s : State) (m : Bool) (r : BitVec 2) (w : BitVec 1) (b a d : R6) (sc : BitVec 3),
     ∀ p ∈ ([(Instr.atmSwap m r w b a d sc, .swap), (Instr.atmAdd m r w b a d sc, .add), (Instr.atmAddz m r b a d sc, .addz),
         (Instr.atmAnd m r w b a d sc, .and), (Instr.atmOr m r w b a d sc, .or), (Instr.atmXor m r w b a d sc, .xor),
         (Instr.atmMax m r w b a d sc, .max), (Instr.atmCas m r w b a d sc, .cas)] : List (Instr × AtmOp)),
       let reads := if p.2 = .cas then [a, b, d] else [a, b]
       let n := if p.2 ≠ .addz ∧ w = 1#1 then 4 else 8
       let va := s.reg s.me a
       let u := s.took reads
       s.ctlReady { long := true, names := [d, a, b], reads := reads } = true → clsOf va = 1 ∨ clsOf va = 6 →
       u.checkClass s.me s.own.part s.own.mode .thread true va n = none →
       va.toNat % (if p.2 = .addz then 16 else n) = 0 → s.own.rangeHit va n true = false → s.own.out < 4096 →
       (r.getLsbD 1 = true → u.relBlocked s.me (u.homeOf va).1 (u.homeOf va).2 = false) →
       done p.1 s fun t => t.own.held.length = s.own.held.length + 1 ∧ grows s t fun x =>
         x.kind = .atomic p.2 ∧ x.home = (u.homeOf va).1 ∧ x.key = (u.homeOf va).2 ∧
           x.acq = (if r.getLsbD 0 then some sc else none) ∧ x.rel = if r.getLsbD 1 then some sc else none) ∧
  -- mailbox words
  (∀ (s : State) (m : Bool) (b a d : R6),
     let n := (s.reg s.me a).toNat
     let asks (i : Instr) (k : AccKind) : Prop := done i s fun t => grows s t fun x => x.kind = k ∧ x.obj = n
     n < 1024 → s.objCheck s.own.part s.own.mode n = none → s.own.out < 4096 →
     (s.ctlReady { long := true, names := [a, d, pairHi d], reads := [a] } = true →
       asks (.mpub m a d) .mpub ∧ asks (.mread m a d) .mread) ∧
     (s.ctlReady { long := true, names := [a, d, pairHi d, b, pairHi b], reads := [a, b, pairHi b] } = true →
       asks (.mreadv m b a d) .mreadv) ∧
     (s.ctlReady { names := [a], reads := [a] } = true → s.own.relFull = false → asks (.mcommit m a) .mcommit) ∧
     (s.ctlReady { names := [a, b], reads := [a, b] } = true →
       asks (.munpin m b a) .munpin ∧ ((s.reg s.me b).toNat < 2 ^ 48 → asks (.mreclaim m b a) .mreclaim))) ∧
  -- copies and leases
  (∀ (s : State) (m : Bool) (a d : R6),
     (let blk := blockRegs a 4
      let r := s.block s.me a 4
      let u := s.took blk
      let srcs := (List.range (cpRows r)).map (cpSrc r)
      let dsts := (List.range (cpRows r)).map (cpDst r)
      cpBad r = false → cpSync r = none → bit (rw r 3) 33 = false →
      (∀ x ∈ srcs ++ dsts, clsOf x < 9 ∧ u.wellFormed x (cpLen r) = true) →
      (∀ x ∈ srcs, u.checkRow s.me x (cpLen r) false = none ∧ u.unpinned s.me x = false) →
      (∀ y ∈ dsts, u.checkRow s.me y (cpLen r) true = none ∧ ∀ x ∈ srcs, rowsMeet x y (cpLen r) = false) →
      s.own.fifo.length < 16 → s.own.rlk.length + 2 ≤ 128 →
      let copied (t : State) : Prop := t.own.dseq = s.own.dseq + 1#32 ∧ ∃ e, t.own.fifo = s.own.fifo ++ [e] ∧ e.recs = r
      (s.ctlReady { array := true, names := blk, reads := blk } = true → done (.copy m a) s copied) ∧
      (s.ctlReady { array := true, names := d :: blk, reads := blk } = true →
        done (.copyt m a d) s fun t => copied t ∧ t.reg s.me d = 0#64)) ∧
     (s.ctlReady { array := true, names := [a, d], reads := [a] } = true →
       (∀ x y, s.own.wait = .got x y → s.gives (.wlease m a d) s.own m [a] d x) ∧
       let u := s.took [a]
       let v := s.reg s.me a
       let cl := v.toNat % 2 ^ 12
       (u.checkLease s.me v = none → (u.clu cl).seized = none → (u.clu cl).lease = none → (u.clu cl).waiters = [] →
         exec (.wleaset m a d) s = .next (((u.grantLease cl s.me v).setReg s.me d
           (BitVec.ofNat 64 (((u.grantLease cl s.me v).clu cl).holdMask s.me))).ends s.me m))) ∧
     (s.ctlReady { array := true, names := [a], reads := [a] } = true → (s.reg s.me a).toNat < 2 ^ 16 →
       let u := s.took [a]
       let g := match u.leaseOf s.me with
         | some (cl, _) => u.endLease cl
         | none => u
       exec (.wrel m a) s = .next ((match (g.core s.me).wlast with
         | some cl => g.updClu cl fun c => c.freeTiles s.me (s.reg s.me a).toNat
         | none => g).ends s.me m))) ∧
  -- Wain and Tender words
  (∀ (s : State) (m : Bool) (b a d : R6),
     let ready (n : Nat) : Prop := s.ctlReady { array := true, names := blockRegs a n, reads := blockRegs a n } = true
     let u (n : Nat) := s.took (blockRegs a n)
     let r (n : Nat) := s.block s.me a n
     let cmd (n fn : Nat) : EngCmd := (u n).wainCmd s.me fn (r n)
     let tagOk (w : W64) : Prop := tagBad w false = false ∧ bit w 14 = false
     let joins (i : Instr) (fn : Nat) (recs : List W64) : Prop :=
       done i s fun t => ∃ e, t.own.qm = s.own.qm ++ [e] ∧ e.fn = fn ∧ e.recs = recs
     s.own.qm.length < 16 → s.own.rlk.length + 2 ≤ 128 →
     (ready 5 →
       let e := cmd 5 fnWmma
       let w := rw (r 5) 3
       (u 5).leaseBad s.me e.tiles = false → fld w 2 0 = 0 → fld w 15 7 ≤ pairK e.fmt.a.toNat e.fmt.b.toNat →
       (e.fmt.acc = 2#2 → bit w 6 = false) → tagOk (rw (r 5) 4) → (rw (r 5) 0).toNat % 32 = 0 →
       (rw (r 5) 1).toNat % 32 = 0 → fld w 63 40 % 32 = 0 → fld w 39 16 % 32 = 0 →
       (u 5).spanFault s.me .wain false e.spans = none →
       joins (.wmma m a) fnWmma (r 5)) ∧
     (ready 2 →
       (let e := cmd 2 fnWzero
        (u 2).leaseBad s.me e.tiles = false → fld (rw (r 2) 0) 63 24 = 0 →
        (if e.fmt.acc = 2#2 then ∀ t < 8, bit (rw (r 2) 0) (2 * t) = bit (rw (r 2) 0) (2 * t + 1)
          else fld (rw (r 2) 0) 23 16 = 0) →
        tagOk (rw (r 2) 1) → joins (.wzero m a) fnWzero (r 2)) ∧
       ((u 2).leaseBad s.me (cmd 2 fnWnorm).tiles = false → fld (rw (r 2) 0) 63 35 = 0 → tagOk (rw (r 2) 1) →
         joins (.wnorm m a) fnWnorm (r 2))) ∧
     (ready 3 →
       let e := cmd 3 fnWstep
       let w := rw (r 3) 1
       (u 3).leaseBad s.me e.tiles = false → bit w 39 = false → fld w 35 33 ≠ fld w 38 36 → tagOk (rw (r 3) 2) →
       fld w 63 40 % 32 = 0 → (u 3).spanFault s.me .wain false e.spans = none → e.fmt.acc = 2#2 →
       joins (.wstep m a) fnWstep (r 3)) ∧
     (s.ctlReady { array := true, names := [a, b], reads := [a, b] } = true →
       ∀ cl y, fmtBad (s.reg s.me a) (s.reg s.me b) = false → (s.took [a, b]).leaseOf s.me = some (cl, y) → cl < 0x80 →
       joins (.wfmt m b a) fnWfmt [s.reg s.me a, s.reg s.me b]) ∧
     (s.ctlReady { array := true } = true →
       ∀ cl y, (s.took []).leaseOf s.me = some (cl, y) → bit s.own.rowprog 63 = true →
         (∃ w ∈ (s.clu cl).wain, w.stopped = true ∧ w.core = s.me) → joins (.wretry m) fnWretry []) ∧
     (ready 5 →
       let cl := fld (rw (r 5) 4) 27 16
       let fmt := (u 5).nextFmt s.me cl
       tpBad (r 5) fmt = false → bit (rw (r 5) 4) 14 = false → (rw (r 5) 0).toNat % 4 = 0 → fld (rw (r 5) 3) 63 40 % 4 = 0 →
       (u 5).spanFault s.me .tender true (tpSpans (r 5)) = none → (u 5).mayCommand s.me cl = true →
       (∀ t ∈ (((u 5).core s.me).command s.me fnTepi (r 5) cl fmt none).tiles, kfind ((u 5).clu cl).holder t = some s.me) →
       s.own.qe.length < 16 →
       done (.tepi m a) s fun t => ∃ e, t.own.qe = s.own.qe ++ [e] ∧ e.fn = fnTepi ∧ e.recs = r 5) ∧
     (s.ctlReady { array := true, names := [d] } = true →
       s.gives (.tstat m d) s.own m [] d ((s.took []).tstatWordOf s.me) ∧
       s.gives (.wstat m d) { s.own with wdrop := false } m [] d ((s.took []).wstatWord s.me))) ∧
  -- traps and control words
  (∀ (s : State) (m : Bool) (b a d : R6) (n : R6),
     (s.ctlReady { names := [a], reads := [a] } = true → s.own.mode ≠ .station → s.own.wait = .none →
       bit s.own.tstat 63 = false → ∀ w, s.own.curWk = some w → w.trap ≠ 0#64 →
       ∃ t, exec (.trap m a) s = .next t ∧ t.own.pc = w.trap ∧ t.own.tpc = s.own.pc + 4#64 ∧ t.own.xinfo = s.reg s.me a ∧
         bit t.own.tstat 63 = true ∧ t.own.mode = s.own.mode) ∧
     (s.ctlReady { park := true } = true → bit s.own.tstat 63 = true →
       ∃ t, exec (.tret m) s = .next t ∧ t.own.pc = s.own.tpc ∧ bit t.own.tstat 63 = false ∧ t.own.mode = s.own.mode) ∧
     (s.ctlReady { least := .partition, park := true, names := [a, b, d], reads := [a, b] } = true →
       ∀ v w, s.own.wait = .got v w → s.gives (.tretHeld m b a d) s.own m [a, b] d v) ∧
     (s.ctlReady { least := cwReadMode n.toNat, names := [a] } = true →
       ∀ v, (s.took []).cwRead s.me n.toNat = some v → s.gives (.cwr m n a) s.own m [] a v) ∧
     (s.ctlReady { names := [a], reads := [a] } = true → n = 10#6 ∨ n = 12#6 →
       done (.cww m n a) s fun t => t.cwRead s.me n.toNat = some (s.reg s.me a))) ∧
  -- seizure, donation and the Station
  (∀ (s : State) (m : Bool) (b a d : R6),
     (s.ctlReady { names := [a, pairHi a, d], reads := [a, pairHi a] } = true → isClearing s.me = true →
       let u := s.took [a, pairHi a]
       let cs := maskClusters (s.reg s.me a) (s.reg s.me (pairHi a))
       let q := s.own.part.toNat
       cs ≠ [] → u.devState ≠ 2 → (∀ c ∈ cs, u.lendable q c = true) →
       (∀ c ∈ cs, (u.clu c).seized = none ∨ (u.clu c).seized = some q) →
       exec (.seize m a d) s =
         .next (((cs.foldl (fun t c => (t.seizeCluster q c).wakeHome (.wbuf c)) u).setReg s.me d 0#64).ends s.me m)) ∧
     (s.ctlReady { names := [a, pairHi a], reads := [a, pairHi a] } = true → isClearing s.me = true →
       let u := s.took [a, pairHi a]
       let cs := (maskClusters (s.reg s.me a) (s.reg s.me (pairHi a))).filter (u.seizedBy s.own.part.toNat)
       (∀ c ∈ cs, u.clearingWork c = false) →
       exec (.cede m a) s = .next ((cs.foldl State.cedeCluster u).graphStep.ends s.me m)) ∧
     (s.ctlReady { least := .partition } = true → (s.took []).isCommon s.me = true →
       s.slot.holder = some s.own.part.toNat →
       exec (.yieldslot m) s = .next ((s.took []).donate.graphStep.ends s.me m)) ∧
     (s.ctlReady { least := .station, names := [b, a, d], reads := [b, a] } = true →
       let t := s.took [b, a]
       let va := s.reg s.me b
       let x := s.reg s.me a
       (∀ k u g, t.slotNamed x = some k → clsOf va = 0 →
         t.check s.me { acc := .write, n := 64, align := 64 } va = (u, .ok g) →
         (u.core s.me).stillOut g.home g.key 64 = false → u.ringEmpty k = false → u.hostBad = false →
         let e := u.hostRead false ((u.w1Word (u.slotFn k) (u.slotQi k) 0).toNat / 64 * 64 +
           64 * (u.ringHead (u.slotFn k) (u.slotQi k) % u.ringSize (u.slotFn k) (u.slotQi k))) 64
         exec (.rfetch m b a d) s =
           .next (((((u.fetched k g.key).hwWrite (u.core s.me).part (u.core s.me).ctx g.na g.key e).copyEntry s.me (u.slotFn k)
             g.key e).setReg s.me d 0#64).ends s.me m)) ∧
       (x.toNat < 256 → t.signals &&& x.setWidth 8 ≠ 0#8 →
         exec (.swait m b a d) s = .next (({ t with signals := t.signals &&& ~~~(x.setWidth 8) }.setReg s.me d
           ((t.signals &&& x.setWidth 8).setWidth 64)).ends s.me m)) ∧
       (va.toNat < 2 → ∀ u key e, t.stationRecord s.me x = (u, some (some (key, e))) →
         let slot := (kget u.qrec key (256, 0)).1
         let n := (kget u.qrec key (256, 0)).2
         let r := u.dispatch s.me (if slot < 256 then u.slotFn slot else 0) slot n key e (va == 1#64)
         r.2 ≠ placeWaits → exec (.dispatch m b a d) s = .next (((r.1.dispatched (ringOf (if slot < 256 then u.slotFn slot else 0) slot n e)
           r.2).setReg s.me d (BitVec.ofNat 64 r.2)).ends s.me m)) ∧
       ∀ k u ps v bs, t.slotNamed x = some k → t.checkSpan s.me { acc := .read, n := 16, align := 8 } va = (u, .ok ps) →
         (∀ g ∈ ps, (u.core s.me).stillOut g.1.home g.1.key g.2 = false) → u.cqFull (u.slotFn k) (u.slotQi k) = false →
         u.stationReads s.me ps = (v, some bs) → v.hostBad = false →
         let n := v.w1Word (u.slotFn k) (u.slotQi k) 5
         exec (.spost m b a d) s = .next (((((v.hostWrite false (fld (v.w1Word (u.slotFn k) (u.slotQi k) 2) 63 4 * 16 +
           16 * (n.toNat % v.cqSize (u.slotFn k) (u.slotQi k))) bs).setW1 (u.slotFn k) (u.slotQi k) 5 (n + 1#64)).posted
             k).setReg s.me d 0#64).ends s.me m)))
end

