-- ==== Sys2Proof/Laws/Maps.lean ====
section
/-! SUPPORT. Laws of the finite maps: what a read gives after a write, and that a later write of a key covers an earlier
one. They hold of every list, sorted or not. -/

namespace Sys2Proof.Machine

theorem kfind_kput {α : Type} (m : KMap α) (k : Nat) (v : α) (q : Nat) :
    kfind (kput m k v) q = if k = q then some v else kfind m q := by
  induction m with
  | nil => simp [kput, kfind]
  | cons x t ih =>
    obtain ⟨k', v'⟩ := x
    simp only [kput]
    split
    · simp [kfind]
    · split
      · subst_vars; simp only [kfind]; split <;> simp_all
      · simp only [kfind, ih]; split
        · subst_vars; simp_all
        · rfl

@[simp] theorem kfind_kput_self {α : Type} (m : KMap α) (k : Nat) (v : α) : kfind (kput m k v) k = some v := by
  simp [kfind_kput]

@[simp] theorem kget_kput_self {α : Type} (m : KMap α) (k : Nat) (v d : α) : kget (kput m k v) k d = v := by
  simp [kget]

theorem kget_kput_ne {α : Type} (m : KMap α) {k q : Nat} (v d : α) (h : k ≠ q) :
    kget (kput m k v) q d = kget m q d := by
  simp [kget, kfind_kput, h]

@[simp] theorem kput_kput {α : Type} (m : KMap α) (k : Nat) (v w : α) : kput (kput m k v) k w = kput m k w := by
  induction m with
  | nil => simp [kput]
  | cons x t ih =>
    obtain ⟨k', v'⟩ := x
    simp only [kput]
    split
    · simp [kput]
    · split
      · simp [kput]
      · rename_i h1 h2; simp [kput, h1, h2, ih]

@[simp] theorem kfind_kdel_self {α : Type} (m : KMap α) (k : Nat) : kfind (kdel m k) k = none := by
  induction m with
  | nil => rfl
  | cons x t ih =>
    obtain ⟨k', v'⟩ := x
    simp only [kdel]
    split
    · exact ih
    · rename_i h; simp [kfind, ih, Ne.symm h]

theorem kfind_kdel_ne {α : Type} (m : KMap α) {k q : Nat} (h : k ≠ q) : kfind (kdel m k) q = kfind m q := by
  induction m with
  | nil => rfl
  | cons x t ih =>
    obtain ⟨k', v'⟩ := x
    simp only [kdel]
    split
    · subst_vars; simp [kfind, h, ih]
    · simp only [kfind, ih]

end Sys2Proof.Machine
end

