-- ==== Sys2Proof/Laws/State.lean ====
section
/-! SUPPORT. One lemma for each field of the state and each update of a core, a cluster or a control word: the fields that
the update leaves, so that no proof unfolds a record update; and what is read back after the update. -/

namespace Sys2Proof.Machine

/-! ### `setCore` -/

@[simp] theorem State.setCore_time (s : State) (l : Nat) (c : Core) : (s.setCore l c).time = s.time := rfl
@[simp] theorem State.setCore_ptmOff (s : State) (l : Nat) (c : Core) : (s.setCore l c).ptmOff = s.ptmOff := rfl
@[simp] theorem State.setCore_ptmAt (s : State) (l : Nat) (c : Core) : (s.setCore l c).ptmAt = s.ptmAt := rfl
@[simp] theorem State.setCore_slewRem (s : State) (l : Nat) (c : Core) : (s.setCore l c).slewRem = s.slewRem := rfl
@[simp] theorem State.setCore_mem (s : State) (l : Nat) (c : Core) : (s.setCore l c).mem = s.mem := rfl
@[simp] theorem State.setCore_ctl (s : State) (l : Nat) (c : Core) : (s.setCore l c).ctl = s.ctl := rfl
@[simp] theorem State.setCore_clusters (s : State) (l : Nat) (c : Core) : (s.setCore l c).clusters = s.clusters := rfl
@[simp] theorem State.setCore_keys (s : State) (l : Nat) (c : Core) : (s.setCore l c).keys = s.keys := rfl
@[simp] theorem State.setCore_keyLow (s : State) (l : Nat) (c : Core) : (s.setCore l c).keyLow = s.keyLow := rfl
@[simp] theorem State.setCore_sets (s : State) (l : Nat) (c : Core) : (s.setCore l c).sets = s.sets := rfl
@[simp] theorem State.setCore_retiredWays (s : State) (l : Nat) (c : Core) : (s.setCore l c).retiredWays = s.retiredWays := rfl
@[simp] theorem State.setCore_wayCorr (s : State) (l : Nat) (c : Core) : (s.setCore l c).wayCorr = s.wayCorr := rfl
@[simp] theorem State.setCore_lost (s : State) (l : Nat) (c : Core) : (s.setCore l c).lost = s.lost := rfl
@[simp] theorem State.setCore_tileCorr (s : State) (l : Nat) (c : Core) : (s.setCore l c).tileCorr = s.tileCorr := rfl
@[simp] theorem State.setCore_walkc (s : State) (l : Nat) (c : Core) : (s.setCore l c).walkc = s.walkc := rfl
@[simp] theorem State.setCore_memCfg (s : State) (l : Nat) (c : Core) : (s.setCore l c).memCfg = s.memCfg := rfl
@[simp] theorem State.setCore_objs (s : State) (l : Nat) (c : Core) : (s.setCore l c).objs = s.objs := rfl
@[simp] theorem State.setCore_teams (s : State) (l : Nat) (c : Core) : (s.setCore l c).teams = s.teams := rfl
@[simp] theorem State.setCore_teamNext (s : State) (l : Nat) (c : Core) : (s.setCore l c).teamNext = s.teamNext := rfl
@[simp] theorem State.setCore_net (s : State) (l : Nat) (c : Core) : (s.setCore l c).net = s.net := rfl
@[simp] theorem State.setCore_pktNext (s : State) (l : Nat) (c : Core) : (s.setCore l c).pktNext = s.pktNext := rfl
@[simp] theorem State.setCore_slot (s : State) (l : Nat) (c : Core) : (s.setCore l c).slot = s.slot := rfl
@[simp] theorem State.setCore_pre (s : State) (l : Nat) (c : Core) : (s.setCore l c).pre = s.pre := rfl
@[simp] theorem State.setCore_qslots (s : State) (l : Nat) (c : Core) : (s.setCore l c).qslots = s.qslots := rfl
@[simp] theorem State.setCore_w1 (s : State) (l : Nat) (c : Core) : (s.setCore l c).w1 = s.w1 := rfl
@[simp] theorem State.setCore_qfetch (s : State) (l : Nat) (c : Core) : (s.setCore l c).qfetch = s.qfetch := rfl
@[simp] theorem State.setCore_qrec (s : State) (l : Nat) (c : Core) : (s.setCore l c).qrec = s.qrec := rfl
@[simp] theorem State.setCore_gcopy (s : State) (l : Nat) (c : Core) : (s.setCore l c).gcopy = s.gcopy := rfl
@[simp] theorem State.setCore_entries (s : State) (l : Nat) (c : Core) : (s.setCore l c).entries = s.entries := rfl
@[simp] theorem State.setCore_nops (s : State) (l : Nat) (c : Core) : (s.setCore l c).nops = s.nops := rfl
@[simp] theorem State.setCore_pendAt (s : State) (l : Nat) (c : Core) : (s.setCore l c).pendAt = s.pendAt := rfl
@[simp] theorem State.setCore_lastServed (s : State) (l : Nat) (c : Core) : (s.setCore l c).lastServed = s.lastServed := rfl
@[simp] theorem State.setCore_graphs (s : State) (l : Nat) (c : Core) : (s.setCore l c).graphs = s.graphs := rfl
@[simp] theorem State.setCore_graphNext (s : State) (l : Nat) (c : Core) : (s.setCore l c).graphNext = s.graphNext := rfl
@[simp] theorem State.setCore_migr (s : State) (l : Nat) (c : Core) : (s.setCore l c).migr = s.migr := rfl
@[simp] theorem State.setCore_image (s : State) (l : Nat) (c : Core) : (s.setCore l c).image = s.image := rfl
@[simp] theorem State.setCore_streamed (s : State) (l : Nat) (c : Core) : (s.setCore l c).streamed = s.streamed := rfl
@[simp] theorem State.setCore_stateSent (s : State) (l : Nat) (c : Core) : (s.setCore l c).stateSent = s.stateSent := rfl
@[simp] theorem State.setCore_resets (s : State) (l : Nat) (c : Core) : (s.setCore l c).resets = s.resets := rfl
@[simp] theorem State.setCore_migSel (s : State) (l : Nat) (c : Core) : (s.setCore l c).migSel = s.migSel := rfl
@[simp] theorem State.setCore_points (s : State) (l : Nat) (c : Core) : (s.setCore l c).points = s.points := rfl
@[simp] theorem State.setCore_throt (s : State) (l : Nat) (c : Core) : (s.setCore l c).throt = s.throt := rfl
@[simp] theorem State.setCore_shed (s : State) (l : Nat) (c : Core) : (s.setCore l c).shed = s.shed := rfl
@[simp] theorem State.setCore_ceil (s : State) (l : Nat) (c : Core) : (s.setCore l c).ceil = s.ceil := rfl
@[simp] theorem State.setCore_draw (s : State) (l : Nat) (c : Core) : (s.setCore l c).draw = s.draw := rfl
@[simp] theorem State.setCore_watts (s : State) (l : Nat) (c : Core) : (s.setCore l c).watts = s.watts := rfl
@[simp] theorem State.setCore_stopped (s : State) (l : Nat) (c : Core) : (s.setCore l c).stopped = s.stopped := rfl
@[simp] theorem State.setCore_lendLast (s : State) (l : Nat) (c : Core) : (s.setCore l c).lendLast = s.lendLast := rfl
@[simp] theorem State.setCore_awake (s : State) (l : Nat) (c : Core) : (s.setCore l c).awake = s.awake := rfl
@[simp] theorem State.setCore_poolAt (s : State) (l : Nat) (c : Core) : (s.setCore l c).poolAt = s.poolAt := rfl
@[simp] theorem State.setCore_rises (s : State) (l : Nat) (c : Core) : (s.setCore l c).rises = s.rises := rfl
@[simp] theorem State.setCore_hot (s : State) (l : Nat) (c : Core) : (s.setCore l c).hot = s.hot := rfl
@[simp] theorem State.setCore_cool (s : State) (l : Nat) (c : Core) : (s.setCore l c).cool = s.cool := rfl
@[simp] theorem State.setCore_factor (s : State) (l : Nat) (c : Core) : (s.setCore l c).factor = s.factor := rfl
@[simp] theorem State.setCore_failed (s : State) (l : Nat) (c : Core) : (s.setCore l c).failed = s.failed := rfl
@[simp] theorem State.setCore_avail (s : State) (l : Nat) (c : Core) : (s.setCore l c).avail = s.avail := rfl
@[simp] theorem State.setCore_pfCount (s : State) (l : Nat) (c : Core) : (s.setCore l c).pfCount = s.pfCount := rfl
@[simp] theorem State.setCore_pfKind (s : State) (l : Nat) (c : Core) : (s.setCore l c).pfKind = s.pfKind := rfl
@[simp] theorem State.setCore_pfFn (s : State) (l : Nat) (c : Core) : (s.setCore l c).pfFn = s.pfFn := rfl
@[simp] theorem State.setCore_pfOff (s : State) (l : Nat) (c : Core) : (s.setCore l c).pfOff = s.pfOff := rfl
@[simp] theorem State.setCore_pfQueue (s : State) (l : Nat) (c : Core) : (s.setCore l c).pfQueue = s.pfQueue := rfl
@[simp] theorem State.setCore_why (s : State) (l : Nat) (c : Core) : (s.setCore l c).why = s.why := rfl
@[simp] theorem State.setCore_up (s : State) (l : Nat) (c : Core) : (s.setCore l c).up = s.up := rfl
@[simp] theorem State.setCore_flw (s : State) (l : Nat) (c : Core) : (s.setCore l c).flw = s.flw := rfl
@[simp] theorem State.setCore_hbAt (s : State) (l : Nat) (c : Core) : (s.setCore l c).hbAt = s.hbAt := rfl
@[simp] theorem State.setCore_hbTold (s : State) (l : Nat) (c : Core) : (s.setCore l c).hbTold = s.hbTold := rfl
@[simp] theorem State.setCore_hbSent (s : State) (l : Nat) (c : Core) : (s.setCore l c).hbSent = s.hbSent := rfl
@[simp] theorem State.setCore_spareOut (s : State) (l : Nat) (c : Core) : (s.setCore l c).spareOut = s.spareOut := rfl
@[simp] theorem State.setCore_promoted (s : State) (l : Nat) (c : Core) : (s.setCore l c).promoted = s.promoted := rfl
@[simp] theorem State.setCore_firm (s : State) (l : Nat) (c : Core) : (s.setCore l c).firm = s.firm := rfl
@[simp] theorem State.setCore_crashes (s : State) (l : Nat) (c : Core) : (s.setCore l c).crashes = s.crashes := rfl
@[simp] theorem State.setCore_crashCount (s : State) (l : Nat) (c : Core) : (s.setCore l c).crashCount = s.crashCount := rfl
@[simp] theorem State.setCore_msi (s : State) (l : Nat) (c : Core) : (s.setCore l c).msi = s.msi := rfl
@[simp] theorem State.setCore_signals (s : State) (l : Nat) (c : Core) : (s.setCore l c).signals = s.signals := rfl
@[simp] theorem State.setCore_w2out (s : State) (l : Nat) (c : Core) : (s.setCore l c).w2out = s.w2out := rfl
@[simp] theorem State.setCore_w2wait (s : State) (l : Nat) (c : Core) : (s.setCore l c).w2wait = s.w2wait := rfl
@[simp] theorem State.setCore_hostMem (s : State) (l : Nat) (c : Core) : (s.setCore l c).hostMem = s.hostMem := rfl
@[simp] theorem State.setCore_agenda (s : State) (l : Nat) (c : Core) : (s.setCore l c).agenda = s.agenda := rfl
@[simp] theorem State.setCore_mover (s : State) (l : Nat) (c : Core) : (s.setCore l c).mover = s.mover := rfl
@[simp] theorem State.setCore_tick (s : State) (l : Nat) (c : Core) : (s.setCore l c).tick = s.tick := rfl
@[simp] theorem State.setCore_upset (s : State) (l : Nat) (c : Core) : (s.setCore l c).upset = s.upset := rfl
@[simp] theorem State.setCore_addq (s : State) (l : Nat) (c : Core) : (s.setCore l c).addq = s.addq := rfl
@[simp] theorem State.setCore_countq (s : State) (l : Nat) (c : Core) : (s.setCore l c).countq = s.countq := rfl

/-! ### `setClu` -/

@[simp] theorem State.setClu_time (s : State) (n : Nat) (c : Cluster) : (s.setClu n c).time = s.time := rfl
@[simp] theorem State.setClu_ptmOff (s : State) (n : Nat) (c : Cluster) : (s.setClu n c).ptmOff = s.ptmOff := rfl
@[simp] theorem State.setClu_ptmAt (s : State) (n : Nat) (c : Cluster) : (s.setClu n c).ptmAt = s.ptmAt := rfl
@[simp] theorem State.setClu_slewRem (s : State) (n : Nat) (c : Cluster) : (s.setClu n c).slewRem = s.slewRem := rfl
@[simp] theorem State.setClu_mem (s : State) (n : Nat) (c : Cluster) : (s.setClu n c).mem = s.mem := rfl
@[simp] theorem State.setClu_ctl (s : State) (n : Nat) (c : Cluster) : (s.setClu n c).ctl = s.ctl := rfl
@[simp] theorem State.setClu_cores (s : State) (n : Nat) (c : Cluster) : (s.setClu n c).cores = s.cores := rfl
@[simp] theorem State.setClu_keys (s : State) (n : Nat) (c : Cluster) : (s.setClu n c).keys = s.keys := rfl
@[simp] theorem State.setClu_keyLow (s : State) (n : Nat) (c : Cluster) : (s.setClu n c).keyLow = s.keyLow := rfl
@[simp] theorem State.setClu_sets (s : State) (n : Nat) (c : Cluster) : (s.setClu n c).sets = s.sets := rfl
@[simp] theorem State.setClu_retiredWays (s : State) (n : Nat) (c : Cluster) : (s.setClu n c).retiredWays = s.retiredWays := rfl
@[simp] theorem State.setClu_wayCorr (s : State) (n : Nat) (c : Cluster) : (s.setClu n c).wayCorr = s.wayCorr := rfl
@[simp] theorem State.setClu_lost (s : State) (n : Nat) (c : Cluster) : (s.setClu n c).lost = s.lost := rfl
@[simp] theorem State.setClu_tileCorr (s : State) (n : Nat) (c : Cluster) : (s.setClu n c).tileCorr = s.tileCorr := rfl
@[simp] theorem State.setClu_walkc (s : State) (n : Nat) (c : Cluster) : (s.setClu n c).walkc = s.walkc := rfl
@[simp] theorem State.setClu_memCfg (s : State) (n : Nat) (c : Cluster) : (s.setClu n c).memCfg = s.memCfg := rfl
@[simp] theorem State.setClu_objs (s : State) (n : Nat) (c : Cluster) : (s.setClu n c).objs = s.objs := rfl
@[simp] theorem State.setClu_teams (s : State) (n : Nat) (c : Cluster) : (s.setClu n c).teams = s.teams := rfl
@[simp] theorem State.setClu_teamNext (s : State) (n : Nat) (c : Cluster) : (s.setClu n c).teamNext = s.teamNext := rfl
@[simp] theorem State.setClu_net (s : State) (n : Nat) (c : Cluster) : (s.setClu n c).net = s.net := rfl
@[simp] theorem State.setClu_pktNext (s : State) (n : Nat) (c : Cluster) : (s.setClu n c).pktNext = s.pktNext := rfl
@[simp] theorem State.setClu_slot (s : State) (n : Nat) (c : Cluster) : (s.setClu n c).slot = s.slot := rfl
@[simp] theorem State.setClu_pre (s : State) (n : Nat) (c : Cluster) : (s.setClu n c).pre = s.pre := rfl
@[simp] theorem State.setClu_qslots (s : State) (n : Nat) (c : Cluster) : (s.setClu n c).qslots = s.qslots := rfl
@[simp] theorem State.setClu_w1 (s : State) (n : Nat) (c : Cluster) : (s.setClu n c).w1 = s.w1 := rfl
@[simp] theorem State.setClu_qfetch (s : State) (n : Nat) (c : Cluster) : (s.setClu n c).qfetch = s.qfetch := rfl
@[simp] theorem State.setClu_qrec (s : State) (n : Nat) (c : Cluster) : (s.setClu n c).qrec = s.qrec := rfl
@[simp] theorem State.setClu_gcopy (s : State) (n : Nat) (c : Cluster) : (s.setClu n c).gcopy = s.gcopy := rfl
@[simp] theorem State.setClu_entries (s : State) (n : Nat) (c : Cluster) : (s.setClu n c).entries = s.entries := rfl
@[simp] theorem State.setClu_nops (s : State) (n : Nat) (c : Cluster) : (s.setClu n c).nops = s.nops := rfl
@[simp] theorem State.setClu_pendAt (s : State) (n : Nat) (c : Cluster) : (s.setClu n c).pendAt = s.pendAt := rfl
@[simp] theorem State.setClu_lastServed (s : State) (n : Nat) (c : Cluster) : (s.setClu n c).lastServed = s.lastServed := rfl
@[simp] theorem State.setClu_graphs (s : State) (n : Nat) (c : Cluster) : (s.setClu n c).graphs = s.graphs := rfl
@[simp] theorem State.setClu_graphNext (s : State) (n : Nat) (c : Cluster) : (s.setClu n c).graphNext = s.graphNext := rfl
@[simp] theorem State.setClu_migr (s : State) (n : Nat) (c : Cluster) : (s.setClu n c).migr = s.migr := rfl
@[simp] theorem State.setClu_image (s : State) (n : Nat) (c : Cluster) : (s.setClu n c).image = s.image := rfl
@[simp] theorem State.setClu_streamed (s : State) (n : Nat) (c : Cluster) : (s.setClu n c).streamed = s.streamed := rfl
@[simp] theorem State.setClu_stateSent (s : State) (n : Nat) (c : Cluster) : (s.setClu n c).stateSent = s.stateSent := rfl
@[simp] theorem State.setClu_resets (s : State) (n : Nat) (c : Cluster) : (s.setClu n c).resets = s.resets := rfl
@[simp] theorem State.setClu_migSel (s : State) (n : Nat) (c : Cluster) : (s.setClu n c).migSel = s.migSel := rfl
@[simp] theorem State.setClu_points (s : State) (n : Nat) (c : Cluster) : (s.setClu n c).points = s.points := rfl
@[simp] theorem State.setClu_throt (s : State) (n : Nat) (c : Cluster) : (s.setClu n c).throt = s.throt := rfl
@[simp] theorem State.setClu_shed (s : State) (n : Nat) (c : Cluster) : (s.setClu n c).shed = s.shed := rfl
@[simp] theorem State.setClu_ceil (s : State) (n : Nat) (c : Cluster) : (s.setClu n c).ceil = s.ceil := rfl
@[simp] theorem State.setClu_draw (s : State) (n : Nat) (c : Cluster) : (s.setClu n c).draw = s.draw := rfl
@[simp] theorem State.setClu_watts (s : State) (n : Nat) (c : Cluster) : (s.setClu n c).watts = s.watts := rfl
@[simp] theorem State.setClu_stopped (s : State) (n : Nat) (c : Cluster) : (s.setClu n c).stopped = s.stopped := rfl
@[simp] theorem State.setClu_lendLast (s : State) (n : Nat) (c : Cluster) : (s.setClu n c).lendLast = s.lendLast := rfl
@[simp] theorem State.setClu_awake (s : State) (n : Nat) (c : Cluster) : (s.setClu n c).awake = s.awake := rfl
@[simp] theorem State.setClu_poolAt (s : State) (n : Nat) (c : Cluster) : (s.setClu n c).poolAt = s.poolAt := rfl
@[simp] theorem State.setClu_rises (s : State) (n : Nat) (c : Cluster) : (s.setClu n c).rises = s.rises := rfl
@[simp] theorem State.setClu_hot (s : State) (n : Nat) (c : Cluster) : (s.setClu n c).hot = s.hot := rfl
@[simp] theorem State.setClu_cool (s : State) (n : Nat) (c : Cluster) : (s.setClu n c).cool = s.cool := rfl
@[simp] theorem State.setClu_factor (s : State) (n : Nat) (c : Cluster) : (s.setClu n c).factor = s.factor := rfl
@[simp] theorem State.setClu_failed (s : State) (n : Nat) (c : Cluster) : (s.setClu n c).failed = s.failed := rfl
@[simp] theorem State.setClu_avail (s : State) (n : Nat) (c : Cluster) : (s.setClu n c).avail = s.avail := rfl
@[simp] theorem State.setClu_pfCount (s : State) (n : Nat) (c : Cluster) : (s.setClu n c).pfCount = s.pfCount := rfl
@[simp] theorem State.setClu_pfKind (s : State) (n : Nat) (c : Cluster) : (s.setClu n c).pfKind = s.pfKind := rfl
@[simp] theorem State.setClu_pfFn (s : State) (n : Nat) (c : Cluster) : (s.setClu n c).pfFn = s.pfFn := rfl
@[simp] theorem State.setClu_pfOff (s : State) (n : Nat) (c : Cluster) : (s.setClu n c).pfOff = s.pfOff := rfl
@[simp] theorem State.setClu_pfQueue (s : State) (n : Nat) (c : Cluster) : (s.setClu n c).pfQueue = s.pfQueue := rfl
@[simp] theorem State.setClu_why (s : State) (n : Nat) (c : Cluster) : (s.setClu n c).why = s.why := rfl
@[simp] theorem State.setClu_up (s : State) (n : Nat) (c : Cluster) : (s.setClu n c).up = s.up := rfl
@[simp] theorem State.setClu_flw (s : State) (n : Nat) (c : Cluster) : (s.setClu n c).flw = s.flw := rfl
@[simp] theorem State.setClu_hbAt (s : State) (n : Nat) (c : Cluster) : (s.setClu n c).hbAt = s.hbAt := rfl
@[simp] theorem State.setClu_hbTold (s : State) (n : Nat) (c : Cluster) : (s.setClu n c).hbTold = s.hbTold := rfl
@[simp] theorem State.setClu_hbSent (s : State) (n : Nat) (c : Cluster) : (s.setClu n c).hbSent = s.hbSent := rfl
@[simp] theorem State.setClu_spareOut (s : State) (n : Nat) (c : Cluster) : (s.setClu n c).spareOut = s.spareOut := rfl
@[simp] theorem State.setClu_promoted (s : State) (n : Nat) (c : Cluster) : (s.setClu n c).promoted = s.promoted := rfl
@[simp] theorem State.setClu_firm (s : State) (n : Nat) (c : Cluster) : (s.setClu n c).firm = s.firm := rfl
@[simp] theorem State.setClu_crashes (s : State) (n : Nat) (c : Cluster) : (s.setClu n c).crashes = s.crashes := rfl
@[simp] theorem State.setClu_crashCount (s : State) (n : Nat) (c : Cluster) : (s.setClu n c).crashCount = s.crashCount := rfl
@[simp] theorem State.setClu_msi (s : State) (n : Nat) (c : Cluster) : (s.setClu n c).msi = s.msi := rfl
@[simp] theorem State.setClu_signals (s : State) (n : Nat) (c : Cluster) : (s.setClu n c).signals = s.signals := rfl
@[simp] theorem State.setClu_w2out (s : State) (n : Nat) (c : Cluster) : (s.setClu n c).w2out = s.w2out := rfl
@[simp] theorem State.setClu_w2wait (s : State) (n : Nat) (c : Cluster) : (s.setClu n c).w2wait = s.w2wait := rfl
@[simp] theorem State.setClu_hostMem (s : State) (n : Nat) (c : Cluster) : (s.setClu n c).hostMem = s.hostMem := rfl
@[simp] theorem State.setClu_agenda (s : State) (n : Nat) (c : Cluster) : (s.setClu n c).agenda = s.agenda := rfl
@[simp] theorem State.setClu_mover (s : State) (n : Nat) (c : Cluster) : (s.setClu n c).mover = s.mover := rfl
@[simp] theorem State.setClu_tick (s : State) (n : Nat) (c : Cluster) : (s.setClu n c).tick = s.tick := rfl
@[simp] theorem State.setClu_upset (s : State) (n : Nat) (c : Cluster) : (s.setClu n c).upset = s.upset := rfl
@[simp] theorem State.setClu_addq (s : State) (n : Nat) (c : Cluster) : (s.setClu n c).addq = s.addq := rfl
@[simp] theorem State.setClu_countq (s : State) (n : Nat) (c : Cluster) : (s.setClu n c).countq = s.countq := rfl

/-! ### `setCw` -/

@[simp] theorem State.setCw_time (s : State) (target off : Nat) (v : W64) : (s.setCw target off v).time = s.time := rfl
@[simp] theorem State.setCw_ptmOff (s : State) (target off : Nat) (v : W64) : (s.setCw target off v).ptmOff = s.ptmOff := rfl
@[simp] theorem State.setCw_ptmAt (s : State) (target off : Nat) (v : W64) : (s.setCw target off v).ptmAt = s.ptmAt := rfl
@[simp] theorem State.setCw_slewRem (s : State) (target off : Nat) (v : W64) : (s.setCw target off v).slewRem = s.slewRem := rfl
@[simp] theorem State.setCw_mem (s : State) (target off : Nat) (v : W64) : (s.setCw target off v).mem = s.mem := rfl
@[simp] theorem State.setCw_cores (s : State) (target off : Nat) (v : W64) : (s.setCw target off v).cores = s.cores := rfl
@[simp] theorem State.setCw_clusters (s : State) (target off : Nat) (v : W64) : (s.setCw target off v).clusters = s.clusters := rfl
@[simp] theorem State.setCw_keys (s : State) (target off : Nat) (v : W64) : (s.setCw target off v).keys = s.keys := rfl
@[simp] theorem State.setCw_keyLow (s : State) (target off : Nat) (v : W64) : (s.setCw target off v).keyLow = s.keyLow := rfl
@[simp] theorem State.setCw_sets (s : State) (target off : Nat) (v : W64) : (s.setCw target off v).sets = s.sets := rfl
@[simp] theorem State.setCw_retiredWays (s : State) (target off : Nat) (v : W64) : (s.setCw target off v).retiredWays = s.retiredWays := rfl
@[simp] theorem State.setCw_wayCorr (s : State) (target off : Nat) (v : W64) : (s.setCw target off v).wayCorr = s.wayCorr := rfl
@[simp] theorem State.setCw_lost (s : State) (target off : Nat) (v : W64) : (s.setCw target off v).lost = s.lost := rfl
@[simp] theorem State.setCw_tileCorr (s : State) (target off : Nat) (v : W64) : (s.setCw target off v).tileCorr = s.tileCorr := rfl
@[simp] theorem State.setCw_walkc (s : State) (target off : Nat) (v : W64) : (s.setCw target off v).walkc = s.walkc := rfl
@[simp] theorem State.setCw_memCfg (s : State) (target off : Nat) (v : W64) : (s.setCw target off v).memCfg = s.memCfg := rfl
@[simp] theorem State.setCw_objs (s : State) (target off : Nat) (v : W64) : (s.setCw target off v).objs = s.objs := rfl
@[simp] theorem State.setCw_teams (s : State) (target off : Nat) (v : W64) : (s.setCw target off v).teams = s.teams := rfl
@[simp] theorem State.setCw_teamNext (s : State) (target off : Nat) (v : W64) : (s.setCw target off v).teamNext = s.teamNext := rfl
@[simp] theorem State.setCw_net (s : State) (target off : Nat) (v : W64) : (s.setCw target off v).net = s.net := rfl
@[simp] theorem State.setCw_pktNext (s : State) (target off : Nat) (v : W64) : (s.setCw target off v).pktNext = s.pktNext := rfl
@[simp] theorem State.setCw_slot (s : State) (target off : Nat) (v : W64) : (s.setCw target off v).slot = s.slot := rfl
@[simp] theorem State.setCw_pre (s : State) (target off : Nat) (v : W64) : (s.setCw target off v).pre = s.pre := rfl
@[simp] theorem State.setCw_qslots (s : State) (target off : Nat) (v : W64) : (s.setCw target off v).qslots = s.qslots := rfl
@[simp] theorem State.setCw_w1 (s : State) (target off : Nat) (v : W64) : (s.setCw target off v).w1 = s.w1 := rfl
@[simp] theorem State.setCw_qfetch (s : State) (target off : Nat) (v : W64) : (s.setCw target off v).qfetch = s.qfetch := rfl
@[simp] theorem State.setCw_qrec (s : State) (target off : Nat) (v : W64) : (s.setCw target off v).qrec = s.qrec := rfl
@[simp] theorem State.setCw_gcopy (s : State) (target off : Nat) (v : W64) : (s.setCw target off v).gcopy = s.gcopy := rfl
@[simp] theorem State.setCw_entries (s : State) (target off : Nat) (v : W64) : (s.setCw target off v).entries = s.entries := rfl
@[simp] theorem State.setCw_nops (s : State) (target off : Nat) (v : W64) : (s.setCw target off v).nops = s.nops := rfl
@[simp] theorem State.setCw_pendAt (s : State) (target off : Nat) (v : W64) : (s.setCw target off v).pendAt = s.pendAt := rfl
@[simp] theorem State.setCw_lastServed (s : State) (target off : Nat) (v : W64) : (s.setCw target off v).lastServed = s.lastServed := rfl
@[simp] theorem State.setCw_graphs (s : State) (target off : Nat) (v : W64) : (s.setCw target off v).graphs = s.graphs := rfl
@[simp] theorem State.setCw_graphNext (s : State) (target off : Nat) (v : W64) : (s.setCw target off v).graphNext = s.graphNext := rfl
@[simp] theorem State.setCw_migr (s : State) (target off : Nat) (v : W64) : (s.setCw target off v).migr = s.migr := rfl
@[simp] theorem State.setCw_image (s : State) (target off : Nat) (v : W64) : (s.setCw target off v).image = s.image := rfl
@[simp] theorem State.setCw_streamed (s : State) (target off : Nat) (v : W64) : (s.setCw target off v).streamed = s.streamed := rfl
@[simp] theorem State.setCw_stateSent (s : State) (target off : Nat) (v : W64) : (s.setCw target off v).stateSent = s.stateSent := rfl
@[simp] theorem State.setCw_resets (s : State) (target off : Nat) (v : W64) : (s.setCw target off v).resets = s.resets := rfl
@[simp] theorem State.setCw_migSel (s : State) (target off : Nat) (v : W64) : (s.setCw target off v).migSel = s.migSel := rfl
@[simp] theorem State.setCw_points (s : State) (target off : Nat) (v : W64) : (s.setCw target off v).points = s.points := rfl
@[simp] theorem State.setCw_throt (s : State) (target off : Nat) (v : W64) : (s.setCw target off v).throt = s.throt := rfl
@[simp] theorem State.setCw_shed (s : State) (target off : Nat) (v : W64) : (s.setCw target off v).shed = s.shed := rfl
@[simp] theorem State.setCw_ceil (s : State) (target off : Nat) (v : W64) : (s.setCw target off v).ceil = s.ceil := rfl
@[simp] theorem State.setCw_draw (s : State) (target off : Nat) (v : W64) : (s.setCw target off v).draw = s.draw := rfl
@[simp] theorem State.setCw_watts (s : State) (target off : Nat) (v : W64) : (s.setCw target off v).watts = s.watts := rfl
@[simp] theorem State.setCw_stopped (s : State) (target off : Nat) (v : W64) : (s.setCw target off v).stopped = s.stopped := rfl
@[simp] theorem State.setCw_lendLast (s : State) (target off : Nat) (v : W64) : (s.setCw target off v).lendLast = s.lendLast := rfl
@[simp] theorem State.setCw_awake (s : State) (target off : Nat) (v : W64) : (s.setCw target off v).awake = s.awake := rfl
@[simp] theorem State.setCw_poolAt (s : State) (target off : Nat) (v : W64) : (s.setCw target off v).poolAt = s.poolAt := rfl
@[simp] theorem State.setCw_rises (s : State) (target off : Nat) (v : W64) : (s.setCw target off v).rises = s.rises := rfl
@[simp] theorem State.setCw_hot (s : State) (target off : Nat) (v : W64) : (s.setCw target off v).hot = s.hot := rfl
@[simp] theorem State.setCw_cool (s : State) (target off : Nat) (v : W64) : (s.setCw target off v).cool = s.cool := rfl
@[simp] theorem State.setCw_factor (s : State) (target off : Nat) (v : W64) : (s.setCw target off v).factor = s.factor := rfl
@[simp] theorem State.setCw_failed (s : State) (target off : Nat) (v : W64) : (s.setCw target off v).failed = s.failed := rfl
@[simp] theorem State.setCw_avail (s : State) (target off : Nat) (v : W64) : (s.setCw target off v).avail = s.avail := rfl
@[simp] theorem State.setCw_pfCount (s : State) (target off : Nat) (v : W64) : (s.setCw target off v).pfCount = s.pfCount := rfl
@[simp] theorem State.setCw_pfKind (s : State) (target off : Nat) (v : W64) : (s.setCw target off v).pfKind = s.pfKind := rfl
@[simp] theorem State.setCw_pfFn (s : State) (target off : Nat) (v : W64) : (s.setCw target off v).pfFn = s.pfFn := rfl
@[simp] theorem State.setCw_pfOff (s : State) (target off : Nat) (v : W64) : (s.setCw target off v).pfOff = s.pfOff := rfl
@[simp] theorem State.setCw_pfQueue (s : State) (target off : Nat) (v : W64) : (s.setCw target off v).pfQueue = s.pfQueue := rfl
@[simp] theorem State.setCw_why (s : State) (target off : Nat) (v : W64) : (s.setCw target off v).why = s.why := rfl
@[simp] theorem State.setCw_up (s : State) (target off : Nat) (v : W64) : (s.setCw target off v).up = s.up := rfl
@[simp] theorem State.setCw_flw (s : State) (target off : Nat) (v : W64) : (s.setCw target off v).flw = s.flw := rfl
@[simp] theorem State.setCw_hbAt (s : State) (target off : Nat) (v : W64) : (s.setCw target off v).hbAt = s.hbAt := rfl
@[simp] theorem State.setCw_hbTold (s : State) (target off : Nat) (v : W64) : (s.setCw target off v).hbTold = s.hbTold := rfl
@[simp] theorem State.setCw_hbSent (s : State) (target off : Nat) (v : W64) : (s.setCw target off v).hbSent = s.hbSent := rfl
@[simp] theorem State.setCw_spareOut (s : State) (target off : Nat) (v : W64) : (s.setCw target off v).spareOut = s.spareOut := rfl
@[simp] theorem State.setCw_promoted (s : State) (target off : Nat) (v : W64) : (s.setCw target off v).promoted = s.promoted := rfl
@[simp] theorem State.setCw_firm (s : State) (target off : Nat) (v : W64) : (s.setCw target off v).firm = s.firm := rfl
@[simp] theorem State.setCw_crashes (s : State) (target off : Nat) (v : W64) : (s.setCw target off v).crashes = s.crashes := rfl
@[simp] theorem State.setCw_crashCount (s : State) (target off : Nat) (v : W64) : (s.setCw target off v).crashCount = s.crashCount := rfl
@[simp] theorem State.setCw_msi (s : State) (target off : Nat) (v : W64) : (s.setCw target off v).msi = s.msi := rfl
@[simp] theorem State.setCw_signals (s : State) (target off : Nat) (v : W64) : (s.setCw target off v).signals = s.signals := rfl
@[simp] theorem State.setCw_w2out (s : State) (target off : Nat) (v : W64) : (s.setCw target off v).w2out = s.w2out := rfl
@[simp] theorem State.setCw_w2wait (s : State) (target off : Nat) (v : W64) : (s.setCw target off v).w2wait = s.w2wait := rfl
@[simp] theorem State.setCw_hostMem (s : State) (target off : Nat) (v : W64) : (s.setCw target off v).hostMem = s.hostMem := rfl
@[simp] theorem State.setCw_agenda (s : State) (target off : Nat) (v : W64) : (s.setCw target off v).agenda = s.agenda := rfl
@[simp] theorem State.setCw_mover (s : State) (target off : Nat) (v : W64) : (s.setCw target off v).mover = s.mover := rfl
@[simp] theorem State.setCw_tick (s : State) (target off : Nat) (v : W64) : (s.setCw target off v).tick = s.tick := rfl
@[simp] theorem State.setCw_upset (s : State) (target off : Nat) (v : W64) : (s.setCw target off v).upset = s.upset := rfl
@[simp] theorem State.setCw_addq (s : State) (target off : Nat) (v : W64) : (s.setCw target off v).addq = s.addq := rfl
@[simp] theorem State.setCw_countq (s : State) (target off : Nat) (v : W64) : (s.setCw target off v).countq = s.countq := rfl

/-! ### Reads after updates -/

@[simp] theorem State.core_setCore_self (s : State) (l : Nat) (c : Core) : (s.setCore l c).core l = c := by
  simp [State.core, State.setCore]

theorem State.core_setCore_ne (s : State) {l k : Nat} (c : Core) (h : l ≠ k) : (s.setCore l c).core k = s.core k := by
  simp [State.core, State.setCore, kget, kfind_kput, h]

@[simp] theorem State.setCore_setCore (s : State) (l : Nat) (c d : Core) : (s.setCore l c).setCore l d = s.setCore l d := by
  simp [State.setCore]

@[simp] theorem State.clu_setCore (s : State) (l : Nat) (c : Core) (n : Nat) : (s.setCore l c).clu n = s.clu n := rfl
@[simp] theorem State.cw_setCore (s : State) (l : Nat) (c : Core) (t o : Nat) : (s.setCore l c).cw t o = s.cw t o := rfl
@[simp] theorem State.dcw_setCore (s : State) (l : Nat) (c : Core) (o : Nat) : (s.setCore l c).dcw o = s.dcw o := rfl
@[simp] theorem State.core_setClu (s : State) (n : Nat) (c : Cluster) (l : Nat) : (s.setClu n c).core l = s.core l := rfl
@[simp] theorem State.cw_setClu (s : State) (n : Nat) (c : Cluster) (t o : Nat) : (s.setClu n c).cw t o = s.cw t o := rfl
@[simp] theorem State.core_setCw (s : State) (t o : Nat) (v : W64) (l : Nat) : (s.setCw t o v).core l = s.core l := rfl
@[simp] theorem State.clu_setCw (s : State) (t o : Nat) (v : W64) (n : Nat) : (s.setCw t o v).clu n = s.clu n := rfl

@[simp] theorem State.clu_setClu_self (s : State) (n : Nat) (c : Cluster) : (s.setClu n c).clu n = c := by
  simp [State.clu, State.setClu]

theorem State.clu_setClu_ne (s : State) {n k : Nat} (c : Cluster) (h : n ≠ k) : (s.setClu n c).clu k = s.clu k := by
  simp [State.clu, State.setClu, kget, kfind_kput, h]

@[simp] theorem State.cw_setCw_self (s : State) (t o : Nat) (v : W64) : (s.setCw t o v).cw t o = v := by
  simp [State.cw, State.setCw]

@[simp] theorem State.dcw_setDcw_self (s : State) (o : Nat) (v : W64) : (s.setDcw o v).dcw o = v := by
  simp [State.dcw, State.setDcw]

@[simp] theorem State.core_updCore_self (s : State) (l : Nat) (f : Core → Core) : (s.updCore l f).core l = f (s.core l) := by
  simp [State.updCore]

theorem State.core_updCore_ne (s : State) {l k : Nat} (f : Core → Core) (h : l ≠ k) :
    (s.updCore l f).core k = s.core k := State.core_setCore_ne s _ h

theorem State.updCore_eq (s : State) (l : Nat) (f : Core → Core) : s.updCore l f = s.setCore l (f (s.core l)) := rfl

end Sys2Proof.Machine
end

