-- ==== Sys2Proof/Laws/Regs.lean ====
section
/-! SUPPORT. Laws of the register words: what a read through the cache and a write do, and that they touch nothing but the
cache, the slot words and the scoreboard (R177, R180, R196). -/

namespace Sys2Proof.Machine

theorem find_filter_ne (l : List RcEnt) {k q : Nat} (h : q ≠ k) :
    (l.filter (·.key != k)).find? (·.key == q) = l.find? (·.key == q) := by
  induction l with
  | nil => rfl
  | cons x t ih =>
    by_cases hx : x.key = k
    · have : ¬ k = q := fun e => h e.symm
      simp [hx, this, ih]
    · by_cases hq : x.key = q
      · subst hq; simp [hx]
      · simp [hx, hq, ih]

theorem cacheClean_iff (c : Core) :
    c.cacheClean = true ↔
      (c.rc.map (·.key)).Nodup ∧ (∀ e ∈ c.rc, e.key < 1024) ∧
        ∀ e ∈ c.rc, e.dirty = true ∨ kget c.rf e.key 0#64 = e.val := by
  simp [Core.cacheClean, List.all_eq_true, forall_and]

/-- The word that a lookup in a list of cached words over slot words gives. -/
def wordIn (l : List RcEnt) (rf : KMap W64) (q : Nat) : W64 :=
  match l.find? (·.key == q) with
  | some e => e.val
  | none => kget rf q 0#64

theorem word_eq (c : Core) (q : Nat) : c.word q = wordIn c.rc c.rf q := rfl

/-- Dropping the last cached word changes no word, when it is written back if dirty and is clean otherwise. -/
theorem wordIn_dropLast (l : List RcEnt) (o : RcEnt) (rf : KMap W64) (q : Nat)
    (h : o.dirty = true ∨ kget rf o.key 0#64 = o.val) :
    wordIn l (if o.dirty then kput rf o.key o.val else rf) q = wordIn (l ++ [o]) rf q := by
  simp only [wordIn, List.find?_append]
  cases hd : l.find? (·.key == q) with
  | some x => rfl
  | none =>
    by_cases ho : o.key = q
    · subst ho
      rcases h with h | h
      · simp [h]
      · cases hd' : o.dirty <;> simp [h]
    · have : (o.key == q) = false := by simpa using ho
      cases o.dirty <;> simp [this, kget_kput_ne _ _ _ ho]

theorem wordIn_cons (e : RcEnt) (l : List RcEnt) (rf : KMap W64) (q : Nat) :
    wordIn (e :: l) rf q = if q = e.key then e.val else wordIn l rf q := by
  by_cases hq : q = e.key
  · subst hq; simp [wordIn]
  · have : (e.key == q) = false := by simpa using fun x => hq x.symm
    simp only [wordIn, List.find?_cons, this, if_neg hq]

/-- What the cache does when an entry becomes its most recent: that word has its value, every other word keeps its own. -/
theorem word_rcPut (c : Core) (e : RcEnt) (h : c.cacheClean = true) (q : Nat) :
    (c.rcPut e).word q = if q = e.key then e.val else c.word q := by
  rw [cacheClean_iff] at h
  have hw : q ≠ e.key → wordIn (c.rc.filter (·.key != e.key)) c.rf q = wordIn c.rc c.rf q := fun hq => by
    simp only [wordIn, find_filter_ne c.rc hq]
  have key : (c.rcPut e).word q = if q = e.key then e.val else wordIn (c.rc.filter (·.key != e.key)) c.rf q := by
    generalize hl : c.rc.filter (·.key != e.key) = l
    simp only [Core.rcPut, hl, word_eq]
    split
    · exact wordIn_cons ..
    · split
      · rename_i o ho
        have hl' := List.dropLast_append_getLast? o ho
        have hm : o ∈ c.rc := by
          have : o ∈ c.rc.filter (·.key != e.key) := by rw [hl, ← hl']; simp
          exact (List.mem_filter.mp this).1
        rw [wordIn_cons, wordIn_dropLast _ _ _ _ (h.2.2 o hm), hl']
      · rename_i ho
        have : l = [] := List.getLast?_eq_none_iff.mp ho
        rw [this]
        exact wordIn_cons ..
  rw [key]
  split
  · rfl
  · rename_i hq; exact hw hq

/-- The fields of a core that register reads and writes leave alone. -/
def Core.sameBut (c k : Core) : Prop := k = { c with rc := k.rc, rf := k.rf, sb := k.sb }

theorem rcPut_same (c : Core) (e : RcEnt) : c.sameBut (c.rcPut e) ∧ (c.rcPut e).sb = c.sb := by
  simp only [Core.rcPut, Core.sameBut]
  split
  · exact ⟨rfl, rfl⟩
  · split <;> exact ⟨rfl, rfl⟩

theorem cacheClean_rcPut (c : Core) (e : RcEnt) (h : c.cacheClean = true) (hk : e.key < 1024)
    (he : e.dirty = true ∨ (kget c.rf e.key 0#64 = e.val)) : (c.rcPut e).cacheClean = true := by
  obtain ⟨hn, hs, h'⟩ := (cacheClean_iff c).mp h
  have hsub : ((c.rc.filter (·.key != e.key)).map (·.key)).Nodup := hn.sublist (List.filter_sublist.map _)
  have hnot : e.key ∉ (c.rc.filter (·.key != e.key)).map (·.key) := by simp
  have hmem : ∀ x ∈ c.rc.filter (·.key != e.key), x ∈ c.rc := fun x hx => (List.mem_filter.mp hx).1
  rw [cacheClean_iff]
  generalize hl : c.rc.filter (·.key != e.key) = l at hsub hnot hmem
  simp only [Core.rcPut, hl]
  split
  · refine ⟨by simp [hsub]; simpa using hnot, ?_, ?_⟩
    · intro x hx
      rcases List.mem_cons.mp hx with rfl | hx
      · exact hk
      · exact hs x (hmem x hx)
    intro x hx
    rcases List.mem_cons.mp hx with rfl | hx
    · exact he
    · exact h' x (hmem x hx)
  · split
    · rename_i o ho
      have hl' := List.dropLast_append_getLast? o ho
      have hnd : ((l.dropLast ++ [o]).map (·.key)).Nodup := by rw [hl']; exact hsub
      have hd : (l.dropLast.map (·.key)).Nodup := hnd.sublist (by simp)
      have hin : ∀ x ∈ l.dropLast, x ∈ l := fun x hx => List.dropLast_subset _ hx
      have hne : ∀ x ∈ l.dropLast, o.key ≠ x.key := by
        intro x hx hk
        rw [List.map_append, List.nodup_append] at hnd
        exact hnd.2.2 x.key (List.mem_map_of_mem hx) o.key (by simp) hk.symm
      have heo : o.key ≠ e.key := by
        intro hk
        exact hnot (hk ▸ List.mem_map_of_mem (f := (·.key)) (List.mem_of_mem_getLast? ho))
      refine ⟨?_, ?_, ?_⟩
      · rw [List.map_cons, List.nodup_cons]
        exact ⟨fun hx => hnot (List.map_subset _ hin hx), hd⟩
      · intro x hx
        rcases List.mem_cons.mp hx with rfl | hx
        · exact hk
        · exact hs x (hmem x (hin x hx))
      · intro x hx
        rcases List.mem_cons.mp hx with rfl | hx
        · cases o.dirty
          · exact he
          · simpa [kget_kput_ne _ _ _ heo] using he
        · have := h' x (hmem x (hin x hx))
          cases o.dirty
          · exact this
          · simpa [kget_kput_ne _ _ _ (hne x hx)] using this
    · refine ⟨by simp, by simpa using hk, ?_⟩
      intro x hx
      rcases List.mem_cons.mp hx with rfl | hx
      · exact he
      · simp at hx

theorem Core.sameBut_refl (c : Core) : c.sameBut c := rfl

theorem Core.sameBut_trans {a b c : Core} (h : a.sameBut b) (g : b.sameBut c) : a.sameBut c := by
  unfold Core.sameBut at *
  rw [g, h]

/-! ### Reads of operands -/

theorem touch_law (c : Core) (k : Nat) (h : c.cacheClean = true) :
    (∀ q, (c.touch k).word q = c.word q) ∧ (c.touch k).cacheClean = true ∧ c.sameBut (c.touch k) ∧
      (c.touch k).sb = c.sb := by
  simp only [Core.touch]
  split
  · exact ⟨fun _ => rfl, h, rfl, rfl⟩
  · rename_i hlt
    have hlt : k < 1024 := by omega
    have h' := (cacheClean_iff c).mp h
    split
    · rename_i e he
      have hk : e.key = k := by simpa using List.find?_some he
      refine ⟨fun q => ?_, cacheClean_rcPut c e h (hk ▸ hlt) (h'.2.2 e (List.mem_of_find?_eq_some he)), rcPut_same c e⟩
      rw [word_rcPut c e h]
      split
      · rename_i hq; rw [hq, hk, Core.word, he]
      · rfl
    · rename_i he
      refine ⟨fun q => ?_, cacheClean_rcPut c _ h hlt (Or.inr rfl), rcPut_same c _⟩
      rw [word_rcPut c _ h]
      split
      · rename_i hq; rw [hq, Core.word, he]
      · rfl

/-- A read of an operand changes no register and no other mark; it leaves a full register plain (R196). -/
theorem consume_law (c : Core) (r : R6) (h : c.cacheClean = true) :
    (∀ q, (c.consume r).word q = c.word q) ∧ (c.consume r).cacheClean = true ∧ c.sameBut (c.consume r) ∧
      (∀ q, q ≠ wordKey c.cur r.toNat → kfind (c.consume r).sb q = kfind c.sb q) := by
  simp only [Core.consume]
  split
  · exact ⟨fun _ => rfl, h, rfl, fun _ _ => rfl⟩
  · obtain ⟨h1, h2, h3, h4⟩ := touch_law c (wordKey c.cur r.toNat) h
    split
    · refine ⟨h1, h2, ?_, fun q hq => ?_⟩
      · exact Core.sameBut_trans h3 rfl
      · rw [h4]; exact kfind_kdel_ne _ (Ne.symm hq)
    · exact ⟨h1, h2, h3, fun q _ => by rw [h4]⟩

theorem sameBut_cur {c k : Core} (h : c.sameBut k) : k.cur = c.cur := by rw [h]

/-- Reads of several operands. -/
theorem consumes_law (rs : List R6) (c : Core) (h : c.cacheClean = true) :
    (∀ q, (rs.foldl Core.consume c).word q = c.word q) ∧ (rs.foldl Core.consume c).cacheClean = true ∧
      c.sameBut (rs.foldl Core.consume c) ∧
      (∀ q, q ∉ rs.map c.keyOf → kfind (rs.foldl Core.consume c).sb q = kfind c.sb q) := by
  induction rs generalizing c with
  | nil => exact ⟨fun _ => rfl, h, rfl, fun _ _ => rfl⟩
  | cons r t ih =>
    obtain ⟨h1, h2, h3, h4⟩ := consume_law c r h
    obtain ⟨i1, i2, i3, i4⟩ := ih (c.consume r) h2
    refine ⟨fun q => (i1 q).trans (h1 q), i2, Core.sameBut_trans h3 i3, fun q hq => ?_⟩
    have hk : (c.consume r).keyOf = c.keyOf := by funext x; simp [Core.keyOf, sameBut_cur h3]
    simp only [List.map_cons, List.mem_cons, not_or] at hq
    rw [List.foldl_cons, i4 q (by rw [hk]; exact hq.2), h4 q hq.1]

/-! ### Writes -/

theorem putWord_law (c : Core) (k : Nat) (v : W64) (h : c.cacheClean = true) :
    (∀ q, (c.putWord k v).word q = if q = k then v else c.word q) ∧ (c.putWord k v).cacheClean = true ∧
      c.sameBut (c.putWord k v) ∧ (c.putWord k v).sb = c.sb := by
  obtain ⟨hn, hs, hc⟩ := (cacheClean_iff c).mp h
  simp only [Core.putWord]
  split
  · rename_i hk
    have hne : ∀ e ∈ c.rc, k ≠ e.key := fun e he hx => by have := hs e he; omega
    refine ⟨fun q => ?_, ?_, rfl, rfl⟩
    · simp only [Core.word]
      split
      · rename_i e he
        have : e.key = q := by simpa using List.find?_some he
        rw [if_neg (fun hq : q = k => hne e (List.mem_of_find?_eq_some he) (hq.symm.trans this.symm))]
      · rename_i he
        split
        · rename_i hq; subst hq; simp
        · rename_i hq; rw [kget_kput_ne _ _ _ (fun x => hq x.symm)]
    · rw [cacheClean_iff]
      exact ⟨hn, hs, fun e he => by rw [kget_kput_ne _ _ _ (hne e he)]; exact hc e he⟩
  · rename_i hk
    exact ⟨fun q => word_rcPut c _ h q, cacheClean_rcPut c _ h (by show k < 1024; omega) (Or.inl rfl), rcPut_same c _⟩

/-- A register write: the register has the value and is plain, or, for g0, nothing is written (R177, R196). -/
theorem setReg_law (c : Core) (d : R6) (v : W64) (h : c.cacheClean = true) :
    (∀ q, (c.setReg d v).word q = if d ≠ 0#6 ∧ q = c.keyOf d then v else c.word q) ∧
      (c.setReg d v).cacheClean = true ∧ c.sameBut (c.setReg d v) ∧
      (d ≠ 0#6 → kfind (c.setReg d v).sb (c.keyOf d) = none) ∧
      (∀ q, q ≠ c.keyOf d → kfind (c.setReg d v).sb q = kfind c.sb q) := by
  simp only [Core.setReg]
  split
  · rename_i hd; simp [hd, h, Core.sameBut]
  · rename_i hd
    obtain ⟨h1, h2, h3, h4⟩ := putWord_law c (wordKey c.cur d.toNat) v h
    refine ⟨fun q => ?_, h2, Core.sameBut_trans h3 rfl, fun _ => kfind_kdel_self _ _, fun q hq => ?_⟩
    · have hd' : d ≠ 0#6 := hd
      simp only [ne_eq, hd', not_false_eq_true, true_and, Core.keyOf]
      exact h1 q
    · exact (kfind_kdel_ne _ (Ne.symm hq)).trans (by rw [h4])

/-- A register of the running firing after a register write. -/
theorem reg_setReg (c : Core) (d r : R6) (v : W64) (h : c.cacheClean = true) :
    (c.setReg d v).reg r = if r = 0#6 then 0#64 else if r = d then v else c.reg r := by
  obtain ⟨h1, _, h3, _⟩ := setReg_law c d v h
  simp only [Core.reg, sameBut_cur h3]
  split
  · rfl
  · rename_i hr
    rw [h1]
    by_cases hrd : r = d
    · subst hrd; simp [Core.keyOf, hr]
    · have : wordKey c.cur r.toNat ≠ c.keyOf d := by
        simp only [wordKey, Core.keyOf, ne_eq, Nat.add_left_cancel_iff]
        exact fun hx => hrd (BitVec.eq_of_toNat_eq hx)
      rw [if_neg (fun x => this x.2), if_neg hrd]

end Sys2Proof.Machine
end

