-- ==== Sys2Proof/Laws/Issue.lean ====
section
/-! SUPPORT. Laws of issue: a word that is ready comes to its own effect, and what the end of a word that writes one
register leaves (R212, R215, R219, R229). -/

namespace Sys2Proof.Machine

@[simp] theorem State.me_setCore (s : State) (l : Nat) (c : Core) : (s.setCore l c).me = s.me := rfl
@[simp] theorem State.own_setCore_me (s : State) (c : Core) : (s.setCore s.me c).own = c := by
  simp [State.own]

/-! ### Operands out of the register cache -/

theorem eccWords_keeps (n : Nat) (s : State) (k : Nat) : ∃ q, (s.eccWords k n).1 = { s with tileCorr := q } := by
  induction n generalizing s k with
  | zero => exact ⟨s.tileCorr, rfl⟩
  | succ n ih =>
    simp only [State.eccWords]
    split
    · exact ⟨s.tileCorr, rfl⟩
    · split
      · obtain ⟨q, hq⟩ := ih (s.countFixed k) (k + 8)
        refine ⟨q, ?_⟩
        rw [hq]
        simp only [State.countFixed]
      · exact ih s (k + 8)

/-- Register-cache fills change the counts of corrected errors of tiles and nothing else (R72). -/
theorem fillRegs_keeps (l : Nat) (rs : List R6) (s : State) :
    ∃ q, (s.fillRegs l rs).1 = { s with tileCorr := q } := by
  induction rs generalizing s with
  | nil => exact ⟨s.tileCorr, rfl⟩
  | cons r t ih =>
    simp only [State.fillRegs]
    split
    · exact ih s
    · rename_i a _
      obtain ⟨q, hq⟩ := eccWords_keeps 1 s a
      split
      · rename_i h; exact ⟨q, by rw [← hq, h]⟩
      · rename_i u h
        obtain ⟨p, hp⟩ := ih u
        refine ⟨p, ?_⟩
        have : u = { s with tileCorr := q } := by rw [← hq, h]
        rw [hp, this]

theorem filled_keeps (s : State) (rs : List R6) : ∃ q, s.filled rs = { s with tileCorr := q } := by
  obtain ⟨q, hq⟩ := fillRegs_keeps s.me rs s
  refine ⟨q, ?_⟩
  simp only [State.filled, State.operands]
  split <;> simp_all

@[simp] theorem core_filled (s : State) (rs : List R6) (l : Nat) : (s.filled rs).core l = s.core l := by
  obtain ⟨q, hq⟩ := filled_keeps s rs
  rw [hq]; rfl

@[simp] theorem me_filled (s : State) (rs : List R6) : (s.filled rs).me = s.me := by
  obtain ⟨q, hq⟩ := filled_keeps s rs
  rw [hq]; rfl

@[simp] theorem mover_filled (s : State) (rs : List R6) : (s.filled rs).mover = s.mover := by
  obtain ⟨q, hq⟩ := filled_keeps s rs
  rw [hq]

theorem operands_ready {s : State} {rs : List R6} (h : (s.operands s.me rs).2.isNone = true) :
    s.operands s.me rs = (s.filled rs, none) :=
  Prod.ext rfl (Option.isNone_iff_eq_none.mp h)

/-- A word of the control thread that is ready comes to its effect, on its operands as read. -/
theorem issueWord_ready (i : Issue) (m : Bool) (s : State) (body : State → Nat → Out) (h : s.ctlReady i = true) :
    issueWord i m s body = endCtl s.me m (body (s.took i.reads) s.me) := by
  simp only [State.ctlReady, Bool.and_eq_true, beq_iff_eq, State.own, State.me] at h
  obtain ⟨⟨⟨⟨⟨⟨⟨⟨⟨⟨h0, h1⟩, h2⟩, h3⟩, h4⟩, h5⟩, h6⟩, h7⟩, h8⟩, -⟩, h9⟩ := h
  have e9 := operands_ready h9
  have e2 : (i.array && isStation s.mover.core) = false := by simpa only [Bool.not_eq_true'] using h2
  have e4 : (i.names.any fun r => decide ((s.core s.mover.core).allot ≤ r.toNat)) = false := by
    rw [List.any_eq_false]
    intro r hr
    have := of_decide_eq_true (List.all_eq_true.mp h4 r hr)
    simpa using this
  have e8 : i.reads.any (s.core s.mover.core).isArmed = false := by
    rw [List.any_eq_false]
    intro r hr
    have := List.all_eq_true.mp h8 r hr
    simpa using this
  have e5 : (decide (0 < (s.core s.mover.core).guard.rem) &&
      (s.core s.mover.core).guard.pred != (s.core s.mover.core).guard.sense) = false := by
    rcases Bool.or_eq_true _ _ |>.mp h5 with h | h
    · have : (s.core s.mover.core).guard.rem = 0 := by simpa using h
      simp [this]
    · have : (s.core s.mover.core).guard.pred = (s.core s.mover.core).guard.sense := by simpa using h
      simp [this]
  have e6 : (i.long && decide (32 ≤ (s.core s.mover.core).held.length)) = false := by
    cases hl : i.long
    · rfl
    · simp only [hl, Bool.not_true, Bool.false_or] at h6
      have := of_decide_eq_true h6
      simp; omega
  have e7 : (i.park && !(s.core s.mover.core).held.isEmpty) = false := by
    cases hl : i.park
    · rfl
    · simpa [hl] using h7
  simp only [State.me] at e9
  simp only [issueWord, issueCheck, h0, h1, e2, e4, h3, runCtl, e5, e6, e7, e8, e9, State.took, State.own, State.me]
  simp [State.updCore]

/-- A ready word of the sequencer comes to its effect (R296). -/
theorem issueWord_seqReady (i : Issue) (m : Bool) (s : State) (body : State → Nat → Out)
    (h : s.seqReady i = true) : issueWord i m s body = endSeq s.me m (body (s.filled i.reads) s.me) := by
  simp only [State.seqReady, Bool.and_eq_true, beq_iff_eq, State.own, State.me] at h
  obtain ⟨⟨⟨⟨⟨⟨⟨hs, h1⟩, h2⟩, h3⟩, h4⟩, h6⟩, h7⟩, h9⟩ := h
  have e9 := operands_ready h9
  have e2 : (i.array && isStation s.mover.core) = false := by simpa only [Bool.not_eq_true'] using h2
  have e4 : (i.names.any fun r => decide ((s.core s.mover.core).allot ≤ r.toNat)) = false := by
    rw [List.any_eq_false]
    intro r hr
    have := of_decide_eq_true (List.all_eq_true.mp h4 r hr)
    simpa using this
  have e6 : (i.long && decide (32 ≤ (s.core s.mover.core).seq.held.length)) = false := by
    cases hl : i.long
    · rfl
    · simp only [hl, Bool.not_true, Bool.false_or] at h6
      have := of_decide_eq_true h6
      simp; omega
  have e7 : (i.park && !(s.core s.mover.core).seq.held.isEmpty) = false := by
    cases hl : i.park
    · rfl
    · simpa [hl] using h7
  simp only [State.me] at e9
  simp only [issueWord, issueCheck, h1, hs, e2, e4, h3, runSeq, e6, e7, e9, State.me]
  simp

theorem ctlReady_clean {i : Issue} {s : State} (h : s.ctlReady i = true) : s.own.cacheClean = true := by
  simp only [State.ctlReady, Bool.and_eq_true] at h
  exact h.1.2

/-- Reading operands changes no register. -/
theorem reg_took (s : State) (rs : List R6) (h : s.own.cacheClean = true) (r : R6) :
    (s.took rs).reg s.me r = s.reg s.me r := by
  obtain ⟨h1, _, h3, _⟩ := consumes_law rs s.own h
  simp only [State.took, State.reg, State.core_setCore_self, Core.reg, sameBut_cur h3, h1]
  rfl

/-- What a word that reads operands, writes one register and does nothing else leaves, wherever it goes next. -/
theorem ended_setReg (s : State) (rs : List R6) (m jumped : Bool) (pc : W64) (d : R6) (v : W64)
    (h : s.own.cacheClean = true) :
    Ended s (s.filled rs) (((s.took rs).setReg s.me d v).updCore s.me fun c => c.finish m jumped pc) s.own m jumped pc rs d v := by
  obtain ⟨c1, c2, c3, c4⟩ := consumes_law rs s.own h
  obtain ⟨w1, w2, w3, w4, w5⟩ := setReg_law (rs.foldl Core.consume s.own) d v c2
  have hk : (rs.foldl Core.consume s.own).keyOf = s.own.keyOf := by funext x; simp [Core.keyOf, sameBut_cur c3]
  have hown : (((s.took rs).setReg s.me d v).updCore s.me fun c => c.finish m jumped pc).own =
      ((rs.foldl Core.consume s.own).setReg d v).finish m jumped pc := by
    simp [State.own, State.me, State.updCore, State.setReg, State.took]
  generalize ht : (((s.took rs).setReg s.me d v).updCore s.me fun c => c.finish m jumped pc) = t at hown
  have hme : t.me = s.me := by subst ht; simp [State.me, State.updCore, State.setReg, State.took]
  have hsame := Core.sameBut_trans c3 w3
  refine ⟨?_, ?_, ?_, ?_, ?_, ?_⟩
  · have : t.reg s.me d = ((rs.foldl Core.consume s.own).setReg d v).reg d := by
      rw [← hme]
      show t.own.reg d = _
      rw [hown]; rfl
    rw [this, reg_setReg _ _ _ _ c2]
    split <;> simp
  · intro hd
    rw [hown, ← hk]
    exact w4 hd
  · refine ⟨fun q hq => ?_, fun q hq hr => ?_⟩
    · rw [hown]
      show ((rs.foldl Core.consume s.own).setReg d v).word q = _
      rw [w1, if_neg, c1]
      rintro ⟨hd, rfl⟩
      simp [hd, hk] at hq
    · rw [hown]
      show kfind ((rs.foldl Core.consume s.own).setReg d v).sb q = _
      by_cases hd : d = 0#6
      · subst hd
        simp only [Core.setReg, if_true]
        exact c4 q hr
      · rw [w5 q (by simpa [hd, hk] using hq)]
        exact c4 q hr
  · rw [hown]
    unfold Core.sameBut at hsame
    rw [hsame]
    rfl
  · subst ht
    simp [State.own, State.me, State.updCore, State.setReg, State.took]
  · rw [hown]
    exact w2

theorem pc_setReg_took (s : State) (rs : List R6) (d : R6) (v : W64) (h : s.own.cacheClean = true) :
    (((s.took rs).setReg s.me d v).core s.me).pc = s.own.pc := by
  obtain ⟨_, c2, c3, _⟩ := consumes_law rs s.own h
  obtain ⟨_, _, w3, _⟩ := setReg_law (rs.foldl Core.consume s.own) d v c2
  have hsame := Core.sameBut_trans c3 w3
  have : ((s.took rs).setReg s.me d v).core s.me = (rs.foldl Core.consume s.own).setReg d v := by
    simp [State.setReg, State.took]
  rw [this, hsame]

/-- The same for a word that goes on to the next one. -/
theorem wrote_setReg (s : State) (rs : List R6) (m : Bool) (d : R6) (v : W64) (h : s.own.cacheClean = true) :
    Wrote s (endCtl s.me m (.done ((s.took rs).setReg s.me d v))) s.own m rs d v := by
  have := ended_setReg s rs m false (s.own.pc + 4#64) d v h
  simpa only [endCtl, State.updCore, pc_setReg_took s rs d v h] using this

end Sys2Proof.Machine
end

