-- ==== Sys2Proof/Laws/Memory.lean ====
section
/-! SUPPORT. Laws of the byte memory: every operation on it keeps the canonical form, a write is what a read gives, and the
memory after reset has the form. -/

namespace Sys2Proof.Machine

/-- The canonical form by its first entry: it lists no zero, and what follows is canonical and lies above it. -/
theorem wf_cons (x : Host.Cell) (t : List Host.Cell) :
    Memory.wf (x :: t) = true ↔ x.2 ≠ 0#8 ∧ (∀ y ∈ t, x.1 < y.1) ∧ Memory.wf t = true := by
  induction t generalizing x with
  | nil => obtain ⟨k, v⟩ := x; simp [Memory.wf]
  | cons y t ih =>
    obtain ⟨k, v⟩ := x
    obtain ⟨k', v'⟩ := y
    have := ih (k', v')
    simp only [Memory.wf, Bool.and_eq_true, bne_iff_ne, ne_eq, decide_eq_true_eq, List.mem_cons, forall_eq_or_imp]
    constructor
    · rintro ⟨⟨h1, h2⟩, h3⟩
      refine ⟨h1, ⟨h2, fun z hz => lt_trans h2 ((this.mp h3).2.1 z hz)⟩, h3⟩
    · rintro ⟨h1, ⟨h2, _⟩, h3⟩
      exact ⟨⟨h1, h2⟩, h3⟩

/-- A part of a canonical memory, in its order, is canonical: zeroising keeps the form. -/
theorem wf_filter (p : Host.Cell → Bool) (m : List Host.Cell) (h : Memory.wf m = true) : Memory.wf (m.filter p) = true := by
  induction m with
  | nil => exact h
  | cons x t ih =>
    obtain ⟨h1, h2, h3⟩ := (wf_cons x t).mp h
    rw [List.filter_cons]
    split
    · exact (wf_cons _ _).mpr ⟨h1, fun y hy => h2 y (List.mem_of_mem_filter hy), ih h3⟩
    · exact ih h3

theorem mem_memWrite {m : List Host.Cell} {a : Nat} {b : Byte} {y : Host.Cell} (h : y ∈ memWrite m a b) :
    y ∈ m ∨ y.1 = a := by
  induction m with
  | nil =>
    simp only [memWrite] at h
    split at h <;> simp_all
  | cons x t ih =>
    obtain ⟨k, v⟩ := x
    simp only [memWrite] at h
    repeat' split at h
    all_goals simp only [List.mem_cons] at h ⊢
    · exact .inl h
    · rcases h with rfl | h
      · exact .inr rfl
      · exact .inl h
    · exact .inl (.inr h)
    · rcases h with rfl | h
      · exact .inr rfl
      · exact .inl (.inr h)
    · rcases h with rfl | h
      · exact .inl (.inl rfl)
      · exact (ih h).imp .inr id

/-- Writing one byte keeps the form. -/
theorem wf_memWrite (m : List Host.Cell) (a : Nat) (b : Byte) (h : Memory.wf m = true) : Memory.wf (memWrite m a b) = true := by
  induction m with
  | nil =>
    simp only [memWrite]
    split <;> simp_all [Memory.wf]
  | cons x t ih =>
    obtain ⟨k, v⟩ := x
    obtain ⟨h1, h2, h3⟩ := (wf_cons _ t).mp h
    simp only [memWrite]
    repeat' split
    · exact h
    · rename_i hk hb
      refine (wf_cons _ _).mpr ⟨hb, fun y hy => ?_, h⟩
      rcases List.mem_cons.mp hy with rfl | hy
      · exact hk
      · exact lt_trans hk (h2 y hy)
    · exact h3
    · rename_i hk hb
      subst hk
      exact (wf_cons _ _).mpr ⟨hb, h2, h3⟩
    · rename_i hlt hne
      refine (wf_cons _ _).mpr ⟨h1, fun y hy => ?_, ih h3⟩
      rcases mem_memWrite hy with hy | hy
      · exact h2 y hy
      · show k < y.1
        omega

/-- Writing bytes keeps the form. -/
theorem wf_memWriteN (bs : List Byte) (m : List Host.Cell) (a : Nat) (h : Memory.wf m = true) :
    Memory.wf (memWriteN m a bs) = true := by
  induction bs generalizing m a with
  | nil => exact h
  | cons b t ih => exact ih _ _ (wf_memWrite m a b h)

/-- Zeroising keeps the form. -/
theorem wf_memZero (m : List Host.Cell) (a n : Nat) (h : Memory.wf m = true) : Memory.wf (memZero m a n) = true :=
  wf_filter _ m h

/-- Zeroising ranges one after another keeps the form. -/
theorem wf_memZeros {α : Type} (f : α → Nat × Nat) (xs : List α) (m : List Host.Cell) (h : Memory.wf m = true) :
    Memory.wf (xs.foldl (fun m x => memZero m (f x).1 (f x).2) m) = true := by
  induction xs generalizing m with
  | nil => exact h
  | cons x t ih => exact ih _ (wf_memZero m _ _ h)

/-- A read of one byte after a write of one byte. -/
theorem memRead_memWrite (m : List Host.Cell) (a : Nat) (b : Byte) (q : Nat) (h : Memory.wf m = true) :
    memRead (memWrite m a b) q = if a = q then b else memRead m q := by
  have out : ∀ (t : List Host.Cell) (q : Nat), (∀ y ∈ t, q < y.1) → memRead t q = 0#8 := by
    intro t q ht
    induction t with
    | nil => rfl
    | cons y t ih =>
      obtain ⟨k, v⟩ := y
      have : q < k := ht _ List.mem_cons_self
      simp only [memRead]
      rw [if_neg (by omega), ih fun z hz => ht z (List.mem_cons_of_mem _ hz)]
  induction m with
  | nil =>
    simp only [memWrite]
    split <;> simp_all [memRead]
  | cons x t ih =>
    obtain ⟨k, v⟩ := x
    obtain ⟨h1, h2, h3⟩ := (wf_cons _ t).mp h
    simp only [memWrite]
    repeat' split
    · rename_i hk hb hq
      subst hq hb
      simp only [memRead]
      rw [if_neg (by omega), out t a fun y hy => lt_trans hk (h2 y hy)]
    · rfl
    · rename_i hk hb hq
      subst hq
      simp [memRead]
    · rename_i hk hb hq
      simp [memRead, hq]
    · rename_i hk hka hb hq
      subst hq hka hb
      exact out t _ h2
    · rename_i hk hka hb hq
      subst hka
      simp [memRead, hq]
    · rename_i hk hka hb hq
      subst hq hka
      simp [memRead]
    · rename_i hk hka hb hq
      subst hka
      simp [memRead, hq]
    · rename_i hk hka hq
      subst hq
      simp only [memRead, ih h3]
      rw [if_neg (by omega)]
      simp
    · rename_i hk hka hq
      simp only [memRead, ih h3, if_neg hq]

/-- The memory after reset has the form. -/
theorem reset_memOk : State.reset.memOk = true := rfl

end Sys2Proof.Machine
end

