-- ==== Sys2Proof/Tests/Slice0.lean ====
section
/-! SUPPORT. The model's own tests: ill-formed terms that the checks refuse, a word of each instruction written out from its
encoding, one-step results worked by hand from the spec, and for each statement states and operands that meet its
hypotheses. -/

namespace Sys2Proof.Tests

-- one theorem at a time: each is a long kernel evaluation, and too many at once exhaust the threads
set_option Elab.async false

open Sys2Proof Sys2Proof.Machine

/-! ### Well-formedness: for each check of R229 a term that it refuses -/

/-- R259, R261: a field or a run that passes bit 63. -/
theorem test_wf_runs : ∀ i ∈ ([.bfx true 60#6 4#6 1#6 1#6, .bfxs true 63#6 1#6 1#6 1#6, .bfi true 1#6 63#6 1#6 1#6,
    .btst true 63#6 1#3 1#6 1#6, .bset true 57#6 7#3 1#6 1#6, .bclr true 60#6 4#3 1#6 1#6, .binv true 62#6 2#3 1#6 1#6] :
    List Instr), i.wf = false := by decide

/-- R127, R222: reserved scopes; a sign-extended doubleword. -/
theorem test_wf_scopes : ∀ i ∈ ([.lda false 0#2 0#1 6#3 1#6 1#6, .lda false 3#2 1#1 0#3 1#6 1#6, .stl false 0#2 7#3 1#6 1#6,
    .atmSwap false 0#2 0#1 1#6 1#6 1#6 6#3, .atmAdd false 0#2 0#1 1#6 1#6 1#6 7#3, .atmAddz false 0#2 1#6 1#6 1#6 6#3,
    .atmAnd false 0#2 0#1 1#6 1#6 1#6 7#3, .atmOr false 0#2 0#1 1#6 1#6 1#6 6#3, .atmXor false 0#2 0#1 1#6 1#6 1#6 7#3,
    .atmMax false 0#2 0#1 1#6 1#6 1#6 6#3, .atmCas false 0#2 0#1 1#6 1#6 1#6 7#3, .waitge false 6#3 1#6 1#6,
    .fence false 15#4 7#3, .rput false 1#1 6#3 1#6 2#6 1#6, .rputt false 0#1 1#3 1#6 2#6 1#6] : List Instr),
    i.wf = false := by decide

/-- R223: rounding modes 4 to 7, and conversions from a code to itself or between integers. -/
theorem test_wf_conversions : ∀ i ∈ ([.frint false 0#1 4#3 1#6 1#6, .fcvt false 1#3 1#3 0#3 1#6 1#6,
    .fcvt false 4#3 6#3 0#3 1#6 1#6, .fcvt false 0#3 4#3 5#3 1#6 1#6, .vcvt false 2#3 2#3 0#3 1#6 1#6,
    .vcvt false 1#3 2#3 4#3 1#6 1#6] : List Instr), i.wf = false := by decide

/-- R214: a vector source of 40 or above, a channel as a destination. -/
theorem test_wf_vector_fields : ∀ i ∈ ([.vadd false 40#6 1#6 1#6 0#2, .vsub false 1#6 40#6 1#6 0#2, .vmul false 1#6 1#6 32#6 0#2,
    .vmulh false 63#6 1#6 1#6 0#2, .vand false 1#6 1#6 39#6 0#2, .vor false 40#6 1#6 1#6 0#2, .vxor false 1#6 40#6 1#6 0#2,
    .vsll false 1#6 1#6 32#6 0#2, .vsrl false 40#6 1#6 1#6 0#2, .vsra false 1#6 40#6 1#6 0#2, .vmin false 1#6 1#6 32#6 0#2,
    .vmax false 40#6 1#6 1#6 0#2, .vminn false 1#6 40#6 1#6 0#2, .vmaxn false 1#6 1#6 32#6 0#2, .vadds false 40#6 1#6 1#6 0#2,
    .vsubs false 1#6 40#6 1#6 0#2, .vceq false 1#6 1#6 32#6 0#2, .vclt false 40#6 1#6 1#6 0#2, .vcltn false 1#6 40#6 1#6 0#2,
    .vsel false 1#6 1#6 32#6 0#2, .vfadd false 0#1 40#6 1#6 1#6 0#1, .vfsub false 0#1 1#6 40#6 1#6 0#1,
    .vfmul false 0#1 1#6 1#6 32#6 0#1, .vfdiv false 0#1 40#6 1#6 1#6 0#1, .vfsqrt false 0#1 40#6 1#6 0#1,
    .vfmin false 0#1 1#6 40#6 1#6 0#1, .vfmax false 0#1 1#6 1#6 32#6 0#1, .vfmac false 0#1 40#6 1#6 1#6 0#1,
    .vfneg false 0#1 40#6 1#6 0#1, .vfabs false 0#1 1#6 32#6 0#1, .vfeq false 0#1 1#6 40#6 1#6 0#1,
    .vflt false 0#1 1#6 1#6 32#6 0#1, .vfle false 0#1 40#6 1#6 1#6 0#1, .vfrint false 0#1 40#6 1#6 0#1,
    .vfexp2f false 0#1 1#6 32#6 0#1, .vfscale false 0#1 1#6 40#6 1#6 0#1, .vcvt false 1#3 2#3 0#3 40#6 1#6,
    .vld false 0#2 40#6 1#6, .vlds false 0#2 40#6 1#6 1#6, .vgath false 0#2 1#6 40#6 1#6, .vst false 0#2 1#6 32#6,
    .vsts false 0#2 40#6 1#6 1#6, .vscat false 0#2 1#6 1#6 32#6, .vredAdd false 0#2 40#6 1#6, .vredMin false 0#2 1#6 32#6,
    .vredMax false 0#2 40#6 1#6, .vredMinn false 0#2 1#6 32#6, .vredMaxn false 0#2 40#6 1#6, .vredFadd false 0#1 1#6 32#6,
    .vperm false 0#2 40#6 1#6 1#6, .vrev false 0#2 40#6 1#6, .vbcast false 0#2 1#6 32#6, .vslide false 0#2 1#6 40#6 1#6,
    .vqpop false 0#3 32#6, .vqpush false 0#3 32#6, .vloop false 0#12 32#6] : List Instr), i.wf = false := by decide

/-- R214, R328: odd pairs and pairs below 2, blocks that start at g0 or pass g63. -/
theorem test_wf_pairs_and_blocks : ∀ i ∈ ([.mintc false 1#6 3#6, .amsg false 0#6 1#6 0#6, .rput false 0#1 0#3 1#6 5#6 1#6,
    .rputt false 0#1 0#3 1#6 0#6 1#6, .mpub false 1#6 1#6, .mread false 1#6 0#6, .mreadv false 3#6 1#6 2#6,
    .mreadv false 2#6 1#6 5#6, .seize false 1#6 1#6, .cede false 0#6, .copy false 0#6, .copyt false 61#6 1#6,
    .wlease false 0#6 1#6, .wleaset false 0#6 1#6, .wrel false 0#6, .wfmt false 1#6 0#6, .wmma false 60#6, .wzero false 63#6,
    .wstep false 62#6, .wnorm false 0#6, .tepi false 60#6] : List Instr), i.wf = false := by decide

/-- The other checks on the values of fields: register ranges (R181, R318), numbers (R292, R326, R362), hints and TRET. -/
theorem test_wf_numbers : ∀ i ∈ ([.dead false 7#6 60#6, .arm false 0#3 0#6, .armK false 3#3 61#6, .amsg false 2#6 1#6 15#6,
    .maskc false 15#6, .unmaskc false 63#6, .qpush false 1#6 1#6, .qpop false 4#6 1#6, .flgset false 16#6, .flgclr false 16#6,
    .flgtst false 16#6 1#6, .tretHeld false 1#6 0#6 1#6, .cwr false 48#6 1#6, .cww false 48#6 1#6, .nop false 0#12 0#6 1#6,
    .nop false 0#12 0#6 2#6] : List Instr), i.wf = false := by decide

/-- An event is no instruction word. -/
theorem test_wf_events : ∀ i ∈ ([.park 0 false, .deviceReset, .slotEdge, .acknowledgement 0 0] : List Instr),
    i.wf = false := by decide

/-- The same fields at their last good values pass. -/
theorem test_wf_bounds : ∀ i ∈ ([.bfx true 60#6 3#6 1#6 1#6, .btst true 62#6 1#3 1#6 1#6, .dead false 3#6 60#6,
    .lda false 3#2 0#1 5#3 1#6 1#6, .copy false 60#6, .tepi false 59#6, .cwr false 47#6 1#6, .maskc false 14#6,
    .vadd false 39#6 39#6 31#6 3#2, .mintc false 1#6 62#6, .rput false 0#1 0#3 1#6 2#6 1#6] : List Instr),
    i.wf = true := by decide

/-- R255, R256: words written out from the encodings, with every operand field set. -/
theorem test_decode_integer : ∀ p ∈ ([
    (0x8050C201, .add true 10#6 6#6 4#6), (0x8250C201, .sub true 10#6 6#6 4#6), (0x8450C201, .and true 10#6 6#6 4#6),
    (0x8650C201, .or true 10#6 6#6 4#6), (0x8850C201, .xor true 10#6 6#6 4#6), (0x8A50C201, .andn true 10#6 6#6 4#6),
    (0x8C50C201, .sll true 10#6 6#6 4#6), (0x8E50C201, .srl true 10#6 6#6 4#6), (0x9050C201, .sra true 10#6 6#6 4#6),
    (0x9250C201, .ror true 10#6 6#6 4#6), (0x9450C201, .slt true 10#6 6#6 4#6),
    (0x9650C201, .sltn true 10#6 6#6 4#6), (0x9850C201, .seq true 10#6 6#6 4#6),
    (0x9A50C201, .min true 10#6 6#6 4#6), (0x9C50C201, .max true 10#6 6#6 4#6),
    (0x9E50C201, .minn true 10#6 6#6 4#6), (0xA050C201, .maxn true 10#6 6#6 4#6),
    (0xA250C201, .mul true 10#6 6#6 4#6), (0xA450C201, .mulh true 10#6 6#6 4#6),
    (0xA650C201, .mulhn true 10#6 6#6 4#6), (0xA850C201, .div true 10#6 6#6 4#6),
    (0xAA50C201, .divn true 10#6 6#6 4#6), (0xAC50C201, .rem true 10#6 6#6 4#6),
    (0xAE50C201, .remn true 10#6 6#6 4#6), (0xB000C201, .clz true 6#6 4#6), (0xB200C201, .ctz true 6#6 4#6),
    (0xB400C201, .popc true 6#6 4#6), (0xB650C201, .adds true 10#6 6#6 4#6), (0xB850C201, .subs true 10#6 6#6 4#6),
    (0xBA50C201, .selz true 10#6 6#6 4#6), (0xBC50C201, .selnz true 10#6 6#6 4#6), (0xBE00C201, .bswap true 6#6 4#6)] : List (Nat × Instr)),
    decodeTableWord 32 p.1 = some p.2 := by decide +kernel

/-- R257, R258, R260: words written out from the encodings, with every operand field set. -/
theorem test_decode_immediate : ∀ p ∈ ([
    (0xFD28C202, .addi true 4005#12 6#6 4#6), (0xFD28C203, .andi true 4005#12 6#6 4#6),
    (0xFD28C204, .ori true 4005#12 6#6 4#6), (0xFD28C205, .xori true 4005#12 6#6 4#6),
    (0xFD28C206, .slti true 4005#12 6#6 4#6), (0xFD28C207, .sltni true 4005#12 6#6 4#6),
    (0x8048C208, .slli true 9#6 6#6 4#6), (0x8248C208, .srli true 9#6 6#6 4#6), (0x8448C208, .srai true 9#6 6#6 4#6),
    (0x8648C208, .rori true 9#6 6#6 4#6), (0xB4B8620C, .lui true 1#2 42435#16 4#6),
    (0xDF4A220D, .adpc true 195153#18 4#6)] : List (Nat × Instr)),
    decodeTableWord 32 p.1 = some p.2 := by decide +kernel

/-- R219, R259, R261: words written out from the encodings, with every operand field set. -/
theorem test_decode_bit_field : ∀ p ∈ ([
    (0x8218C209, .bfx true 1#6 3#6 6#6 4#6), (0x8218C20A, .bfxs true 1#6 3#6 6#6 4#6),
    (0x8218C20B, .bfi true 1#6 3#6 6#6 4#6), (0x9280C00E, .grd true 9#6 2#3 6#6),
    (0x9288C00E, .grdn true 9#6 2#3 6#6), (0x9290C20E, .btst true 9#6 2#3 6#6 4#6),
    (0x9298C20E, .bset true 9#6 2#3 6#6 4#6), (0x92A0C20E, .bclr true 9#6 2#3 6#6 4#6),
    (0x92A8C20E, .binv true 9#6 2#3 6#6 4#6)] : List (Nat × Instr)),
    decodeTableWord 32 p.1 = some p.2 := by decide +kernel

/-- R262 to R266: words written out from the encodings, with every operand field set. -/
theorem test_decode_control_flow : ∀ p ∈ ([
    (0xFC50D290, .beq true 4005#12 10#6 6#6), (0xFC50D291, .bne true 4005#12 10#6 6#6),
    (0xFC50D292, .blt true 4005#12 10#6 6#6), (0xFC50D293, .bge true 4005#12 10#6 6#6),
    (0xFC50D294, .bltn true 4005#12 10#6 6#6), (0xFC50D295, .bgen true 4005#12 10#6 6#6),
    (0xFC48D296, .bbs true 4005#12 9#6 6#6), (0xFC48D297, .bbc true 4005#12 9#6 6#6),
    (0xD5E6F798, .j true 11259375#24), (0xD5E6F799, .jl true 11259375#24), (0xFD28C21A, .jlr true 4005#12 6#6 4#6),
    (0x8000001B, .endF true), (0x8200001B, .yield true)] : List (Nat × Instr)),
    decodeTableWord 32 p.1 = some p.2 := by decide +kernel

/-- R181, R228, R267, R271: words written out from the encodings, with every operand field set. -/
theorem test_decode_load_store : ∀ p ∈ ([
    (0xFD28C220, .ldB true 4005#12 6#6 4#6), (0xFD28C221, .ldBS true 4005#12 6#6 4#6),
    (0xFD28C222, .ldH true 4005#12 6#6 4#6), (0xFD28C223, .ldHS true 4005#12 6#6 4#6),
    (0xFD28C224, .ldW true 4005#12 6#6 4#6), (0xFD28C225, .ldWS true 4005#12 6#6 4#6),
    (0xFD28C226, .ldD true 4005#12 6#6 4#6), (0xB400C227, .lda true 1#2 1#1 2#3 6#6 4#6),
    (0xFC50D2A8, .stB true 4005#12 10#6 6#6), (0xFC50D2A9, .stH true 4005#12 10#6 6#6),
    (0xFC50D2AA, .stW true 4005#12 10#6 6#6), (0xFC50D2AB, .stD true 4005#12 10#6 6#6),
    (0xC650C02C, .stl true 2#2 3#3 10#6 6#6), (0x8048C02E, .dead true 9#6 6#6),
    (0xFD28C07F, .nop true 4005#12 6#6 0#6), (0xFD28C0FF, .prefR true 4005#12 6#6),
    (0xFD28C17F, .prefW true 4005#12 6#6)] : List (Nat × Instr)),
    decodeTableWord 32 p.1 = some p.2 := by decide +kernel

/-- R223, R287: words written out from the encodings, with every operand field set. -/
theorem test_decode_scalar_float : ∀ p ∈ ([
    (0xC050C230, .fadd true 1#1 10#6 6#6 4#6), (0xC250C230, .fsub true 1#1 10#6 6#6 4#6),
    (0xC450C230, .fmul true 1#1 10#6 6#6 4#6), (0xC650C230, .fdiv true 1#1 10#6 6#6 4#6),
    (0xC800C230, .fsqrt true 1#1 6#6 4#6), (0xCA50C230, .fmin true 1#1 10#6 6#6 4#6),
    (0xCC50C230, .fmax true 1#1 10#6 6#6 4#6), (0xCE50C230, .fmac true 1#1 10#6 6#6 4#6),
    (0xD050C230, .fmsc true 1#1 10#6 6#6 4#6), (0xD200C230, .fneg true 1#1 6#6 4#6),
    (0xD400C230, .fabs true 1#1 6#6 4#6), (0xD650C230, .fcps true 1#1 10#6 6#6 4#6),
    (0xD850C230, .feq true 1#1 10#6 6#6 4#6), (0xDA50C230, .flt true 1#1 10#6 6#6 4#6),
    (0xDC50C230, .fle true 1#1 10#6 6#6 4#6), (0xDE00C230, .fclass true 1#1 6#6 4#6),
    (0xE008C230, .frint true 1#1 1#3 6#6 4#6), (0xE200C230, .fexp2f true 1#1 6#6 4#6),
    (0xE450C230, .fscale true 1#1 10#6 6#6 4#6), (0x9810C231, .fcvt true 1#3 4#3 2#3 6#6 4#6)] : List (Nat × Instr)),
    decodeTableWord 32 p.1 = some p.2 := by decide +kernel

/-- R298: words written out from the encodings, with every operand field set. -/
theorem test_decode_vector_integer : ∀ p ∈ ([
    (0x8050C23A, .vadd true 10#6 6#6 4#6 2#2), (0x8250C23A, .vsub true 10#6 6#6 4#6 2#2),
    (0x8450C23A, .vmul true 10#6 6#6 4#6 2#2), (0x8650C23A, .vmulh true 10#6 6#6 4#6 2#2),
    (0x8850C23A, .vand true 10#6 6#6 4#6 2#2), (0x8A50C23A, .vor true 10#6 6#6 4#6 2#2),
    (0x8C50C23A, .vxor true 10#6 6#6 4#6 2#2), (0x8E50C23A, .vsll true 10#6 6#6 4#6 2#2),
    (0x9050C23A, .vsrl true 10#6 6#6 4#6 2#2), (0x9250C23A, .vsra true 10#6 6#6 4#6 2#2),
    (0x9450C23A, .vmin true 10#6 6#6 4#6 2#2), (0x9650C23A, .vmax true 10#6 6#6 4#6 2#2),
    (0x9850C23A, .vminn true 10#6 6#6 4#6 2#2), (0x9A50C23A, .vmaxn true 10#6 6#6 4#6 2#2),
    (0x9C50C23A, .vadds true 10#6 6#6 4#6 2#2), (0x9E50C23A, .vsubs true 10#6 6#6 4#6 2#2),
    (0xA050C23A, .vceq true 10#6 6#6 4#6 2#2), (0xA250C23A, .vclt true 10#6 6#6 4#6 2#2),
    (0xA450C23A, .vcltn true 10#6 6#6 4#6 2#2), (0xA650C23A, .vsel true 10#6 6#6 4#6 2#2)] : List (Nat × Instr)),
    decodeTableWord 32 p.1 = some p.2 := by decide +kernel

/-- R299, R300: words written out from the encodings, with every operand field set. -/
theorem test_decode_vector_float : ∀ p ∈ ([
    (0xC050C23D, .vfadd true 1#1 10#6 6#6 4#6 1#1), (0xC250C23D, .vfsub true 1#1 10#6 6#6 4#6 1#1),
    (0xC450C23D, .vfmul true 1#1 10#6 6#6 4#6 1#1), (0xC650C23D, .vfdiv true 1#1 10#6 6#6 4#6 1#1),
    (0xC800C23D, .vfsqrt true 1#1 6#6 4#6 1#1), (0xCA50C23D, .vfmin true 1#1 10#6 6#6 4#6 1#1),
    (0xCC50C23D, .vfmax true 1#1 10#6 6#6 4#6 1#1), (0xCE50C23D, .vfmac true 1#1 10#6 6#6 4#6 1#1),
    (0xD000C23D, .vfneg true 1#1 6#6 4#6 1#1), (0xD200C23D, .vfabs true 1#1 6#6 4#6 1#1),
    (0xD450C23D, .vfeq true 1#1 10#6 6#6 4#6 1#1), (0xD650C23D, .vflt true 1#1 10#6 6#6 4#6 1#1),
    (0xD850C23D, .vfle true 1#1 10#6 6#6 4#6 1#1), (0xDA00C23D, .vfrint true 1#1 6#6 4#6 1#1),
    (0xDC00C23D, .vfexp2f true 1#1 6#6 4#6 1#1), (0xDE50C23D, .vfscale true 1#1 10#6 6#6 4#6 1#1),
    (0x9408C23E, .vcvt true 1#3 2#3 1#3 6#6 4#6)] : List (Nat × Instr)),
    decodeTableWord 32 p.1 = some p.2 := by decide +kernel

/-- R224: words written out from the encodings, with every operand field set. -/
theorem test_decode_vector_memory : ∀ p ∈ ([
    (0x8400C23F, .vld true 2#2 6#6 4#6), (0x9450C23F, .vlds true 2#2 10#6 6#6 4#6),
    (0xA450C23F, .vgath true 2#2 10#6 6#6 4#6), (0xB400C23F, .vst true 2#2 6#6 4#6),
    (0xC450C23F, .vsts true 2#2 10#6 6#6 4#6), (0xD450C23F, .vscat true 2#2 10#6 6#6 4#6)] : List (Nat × Instr)),
    decodeTableWord 32 p.1 = some p.2 := by decide +kernel

/-- R224, R303: words written out from the encodings, with every operand field set. -/
theorem test_decode_vector_permute : ∀ p ∈ ([
    (0xC000C248, .vredAdd true 2#2 6#6 4#6), (0xC200C248, .vredMin true 2#2 6#6 4#6),
    (0xC400C248, .vredMax true 2#2 6#6 4#6), (0xC600C248, .vredMinn true 2#2 6#6 4#6),
    (0xC800C248, .vredMaxn true 2#2 6#6 4#6), (0xCA00C248, .vredFadd true 0#1 6#6 4#6),
    (0xCC50C248, .vperm true 2#2 10#6 6#6 4#6), (0xCE00C248, .vrev true 2#2 6#6 4#6),
    (0xD000C248, .vbcast true 2#2 6#6 4#6), (0xD250C248, .vslide true 2#2 10#6 6#6 4#6), (0x80000049, .vhalt true),
    (0x82280249, .vqpop true 5#3 4#6), (0x8428C049, .vqpush true 5#3 6#6), (0x860004C9, .vflgset true 9#4),
    (0x880004C9, .vflgclr true 9#4), (0x8A0804C9, .vflgwait true 1#1 9#4), (0x8DF4A249, .vloop true 4005#12 4#6),
    (0x8F7D28C9, .vj true 195153#18)] : List (Nat × Instr)),
    decodeTableWord 32 p.1 = some p.2 := by decide +kernel

/-- R225: words written out from the encodings, with every operand field set. -/
theorem test_decode_atomic : ∀ p ∈ ([
    (0x8650C241, .atmSwap true 1#2 1#1 10#6 6#6 4#6 1#3), (0x9650C241, .atmAdd true 1#2 1#1 10#6 6#6 4#6 1#3),
    (0xA450C241, .atmAddz true 1#2 10#6 6#6 4#6 1#3), (0xB650C241, .atmAnd true 1#2 1#1 10#6 6#6 4#6 1#3),
    (0xC650C241, .atmOr true 1#2 1#1 10#6 6#6 4#6 1#3), (0xD650C241, .atmXor true 1#2 1#1 10#6 6#6 4#6 1#3),
    (0xE650C241, .atmMax true 1#2 1#1 10#6 6#6 4#6 1#3), (0xF650C241, .atmCas true 1#2 1#1 10#6 6#6 4#6 1#3)] : List (Nat × Instr)),
    decodeTableWord 32 p.1 = some p.2 := by decide +kernel

/-- R225: words written out from the encodings, with every operand field set. -/
theorem test_decode_sync : ∀ p ∈ ([
    (0x8000004A, .drain true), (0x820800CA, .bar true 1#2 1#1), (0x8408C0CA, .barG true 1#2 6#6 1#1),
    (0x8650C04A, .waitgen true 10#6 6#6), (0x8810024A, .arm true 2#3 4#6), (0x8A10024A, .armK true 2#3 4#6),
    (0x8C50024A, .mintc true 10#6 4#6), (0x8E50C04A, .send true 10#6 6#6), (0x9050C24A, .sendt true 10#6 6#6 4#6),
    (0x9250C04A, .sendRel true 10#6 6#6), (0x9450C24A, .sendtRel true 10#6 6#6 4#6),
    (0x9650C14A, .amsg true 10#6 6#6 2#6), (0x9850C04A, .spawn true 10#6 6#6), (0x9A50C04A, .fork true 10#6 6#6),
    (0x9C50C04A, .join true 10#6 6#6), (0x9E10004A, .maskc true 2#6), (0xA010004A, .unmaskc true 2#6),
    (0xA210C04A, .qpush true 2#6 6#6), (0xA418024A, .qpop true 3#6 4#6), (0xA600C04A, .vstart true 6#6),
    (0xA848004A, .flgset true 9#6), (0xAA48004A, .flgclr true 9#6), (0xAC48024A, .flgtst true 9#6 4#6),
    (0xB250C04A, .waitge true 1#3 10#6 6#6), (0xD650D2CA, .rput true 1#1 3#3 10#6 6#6 37#6),
    (0xF250D2CA, .rputt true 1#1 1#3 10#6 6#6 37#6), (0x8088004B, .fence true 2#4 1#3)] : List (Nat × Instr)),
    decodeTableWord 32 p.1 = some p.2 := by decide +kernel

/-- R226: words written out from the encodings, with every operand field set. -/
theorem test_decode_mailbox : ∀ p ∈ ([
    (0x8000C24C, .mpub true 6#6 4#6), (0x8200C04C, .mcommit true 6#6), (0x8400C24C, .mread true 6#6 4#6),
    (0x8650C24C, .mreadv true 10#6 6#6 4#6), (0x8850C04C, .munpin true 10#6 6#6),
    (0x8A50C04C, .mreclaim true 10#6 6#6)] : List (Nat × Instr)),
    decodeTableWord 32 p.1 = some p.2 := by decide +kernel

/-- R226: words written out from the encodings, with every operand field set. -/
theorem test_decode_engine : ∀ p ∈ ([
    (0x8000C050, .copy true 6#6), (0x8200C250, .copyt true 6#6 4#6), (0x9000C250, .wlease true 6#6 4#6),
    (0x9200C250, .wleaset true 6#6 4#6), (0x9400C050, .wrel true 6#6), (0x9650C050, .wfmt true 10#6 6#6),
    (0x9800C050, .wmma true 6#6), (0x9A00C050, .wzero true 6#6), (0x9C00C050, .wstep true 6#6),
    (0x9E00C050, .wnorm true 6#6), (0xA0000050, .wretry true), (0xA2000250, .wstat true 4#6),
    (0xB000C050, .tepi true 6#6), (0xB2000250, .tstat true 4#6)] : List (Nat × Instr)),
    decodeTableWord 32 p.1 = some p.2 := by decide +kernel

/-- R226: words written out from the encodings, with every operand field set. -/
theorem test_decode_system : ∀ p ∈ ([
    (0x8000C073, .trap true 6#6), (0x82000073, .tret true), (0x8250C273, .tretHeld true 10#6 6#6 4#6),
    (0x84480273, .cwr true 9#6 4#6), (0x8648C073, .cww true 9#6 6#6), (0x8850C273, .cmoCl true 10#6 6#6 4#6),
    (0x8A50C273, .cmoCli true 10#6 6#6 4#6), (0x8C50C273, .cmoInv true 10#6 6#6 4#6),
    (0x9050C273, .tlbinvVa true 10#6 6#6 4#6), (0x92500273, .tlbinvCtx true 10#6 4#6),
    (0x9450C273, .tlbinvIpa true 10#6 6#6 4#6), (0x96500273, .tlbinvPart true 10#6 4#6),
    (0x98500273, .cmoClOwn true 10#6 4#6), (0x9A500273, .cmoCliOwn true 10#6 4#6),
    (0x9C500273, .cmoInvOwn true 10#6 4#6), (0xA000C273, .seize true 6#6 4#6), (0xA200C073, .cede true 6#6),
    (0xA4000073, .yieldslot true), (0x8050C274, .rfetch true 10#6 6#6 4#6), (0x8250C274, .swait true 10#6 6#6 4#6),
    (0x8450C274, .dispatch true 10#6 6#6 4#6), (0x8650C274, .spost true 10#6 6#6 4#6)] : List (Nat × Instr)),
    decodeTableWord 32 p.1 = some p.2 := by decide +kernel

/-! ### Small states -/

/-- A workspace at place 0 with 64 registers, of a firing in hypervisor mode. -/
def wk : Wk :=
  { ent := 1, wsid := 1#16, gen := 1#12, part := 0#6, idx := 0, place := some 0, allot := 64, ctx := 0#10, mode := .hypervisor
    trap := 0x1000_0000_0000_0800#64, nin := 1, st := .running }

/-- A core that runs that firing at offset 0x100 of its LM, with these registers. -/
def coreOf (rs : KMap W64) : Core :=
  { mode := .hypervisor, run := true, pc := 0x1000_0000_0000_0100#64, dir := [wk], rf := rs, xctx := 0#64 }

/-- The device with that core as core `l`, whose control thread moves. -/
def onCore (l : Nat) (c : Core) : State := { State.reset with cores := [(l, c)], mover := { core := l, strm := .ctl } }

def st (rs : KMap W64) : State := onCore 0 (coreOf rs)

/-- The same with the sequencer at work. -/
def sq (vs : KMap V512) : State :=
  { onCore 0 { coreOf [] with seq := { v := vs, vpc := 0x1000_0000_0000_0400#64, vstat := 1#64 <<< 63, owner := 1 } } with
    mover := { core := 0, strm := .seq } }

/-- An answer that is a next state with a property, as a test. -/
def after (o : Host.Outcome State Fault Refusal) (p : State → Bool) : Bool :=
  match o with
  | .next t => p t
  | .fault _ => false
  | .refused _ => false

/-! ### One step, worked by hand from the spec -/

/-- Chapter 11, the saturating sum, pass 2: 0x7FFF_FFFF_FFFF_FFF0 + 0x20 clamps and cw.ev0 counts one. -/
theorem test_adds_clamps :
    after (exec (.adds false 6#6 5#6 5#6) (onCore 0 { coreOf [(5, 0x7FFF_FFFF_FFFF_FFF0#64), (6, 0x20#64)] with evsel := 5#64 }))
      (fun t => t.reg 0 5#6 == 0x7FFF_FFFF_FFFF_FFFF#64 && kget (t.core 0).ev 0 0#32 == 1#32) = true := by decide +kernel

/-- The same, pass 3: no clamp and no count. -/
theorem test_adds_exact :
    after (exec (.adds false 6#6 5#6 5#6)
        (onCore 0 { coreOf [(5, 0x7FFF_FFFF_FFFF_FFFF#64), (6, 0xFFFF_FFFF_FFFF_FFFB#64)] with evsel := 5#64 }))
      (fun t => t.reg 0 5#6 == 0x7FFF_FFFF_FFFF_FFFA#64 && kget (t.core 0).ev 0 0#32 == 0#32) = true := by decide +kernel

/-- R256, division at the edges: the values held for gD, and whether saturation will be counted. -/
theorem test_division_edges : ∀ p ∈ ([
    (.div false 2#6 1#6 3#6, 0xFFFF_FFFF_FFFF_FFF9#64, 2#64, 0xFFFF_FFFF_FFFF_FFFD#64, []),
    (.rem false 2#6 1#6 3#6, 0xFFFF_FFFF_FFFF_FFF9#64, 2#64, 0xFFFF_FFFF_FFFF_FFFF#64, []),
    (.divn false 2#6 1#6 3#6, 0xFFFF_FFFF_FFFF_FFF9#64, 2#64, 0x7FFF_FFFF_FFFF_FFFC#64, []),
    (.div false 2#6 1#6 3#6, 5#64, 0#64, 0x7FFF_FFFF_FFFF_FFFF#64, [5]),
    (.div false 2#6 1#6 3#6, 0xFFFF_FFFF_FFFF_FFFB#64, 0#64, 0x8000_0000_0000_0000#64, [5]),
    (.rem false 2#6 1#6 3#6, 0xFFFF_FFFF_FFFF_FFFB#64, 0#64, 0xFFFF_FFFF_FFFF_FFFB#64, []),
    (.div false 2#6 1#6 3#6, 0x8000_0000_0000_0000#64, 0xFFFF_FFFF_FFFF_FFFF#64, 0x7FFF_FFFF_FFFF_FFFF#64, [5])] :
    List (Instr × W64 × W64 × W64 × List Nat)),
    after (exec p.1 (st [(1, p.2.1), (2, p.2.2.1)]))
      (fun t => (t.core 0).held.map (fun h => (h.vals, h.events)) == [([p.2.2.2.1], p.2.2.2.2)]) = true := by decide +kernel

/-- R260, building an LM address: the second word writes lane 3 and keeps the other lanes. -/
theorem test_lui_lane : after (exec (.lui false 3#2 0x1004#16 1#6) (st [(1, 0x100#64)]))
    (fun t => t.reg 0 1#6 == 0x1004_0000_0000_0100#64) = true := by decide +kernel

/-- Chapter 11, line 5 of the sum: off 6 from 0x104 reaches 0x11C where g2 is 0, and the next word where it is not. -/
theorem test_beq_target : (after (exec (.beq false 6#12 0#6 2#6) (st [])) (fun t => (t.core 0).pc == 0x1000_0000_0000_0118#64) &&
    after (exec (.beq false 6#12 0#6 2#6) (st [(2, 1#64)])) (fun t => (t.core 0).pc == 0x1000_0000_0000_0104#64)) = true := by
  decide +kernel

/-- R264: JLR with gD = gA jumps through the old value of gA and links. -/
theorem test_jlr_same_register : after (exec (.jlr false 0xFFC#12 5#6 5#6) (st [(5, 0x1000_0000_0000_0200#64)]))
    (fun t => (t.core 0).pc == 0x1000_0000_0000_01FC#64 && t.reg 0 5#6 == 0x1000_0000_0000_0104#64) = true := by decide +kernel

/-- R177: a write to g0 is discarded. -/
theorem test_write_g0 : after (exec (.addi false 5#12 0#6 0#6) (st [])) (fun t => t.reg 0 0#6 == 0#64) = true := by decide +kernel

/-- R219: GRD on g0 suppresses the word behind it. -/
theorem test_guard_suppresses : after (exec (.addi false 5#12 0#6 3#6) (onCore 0 { coreOf [] with
    guard := { rem := 2, sense := true, pred := false } }))
    (fun t => t.reg 0 3#6 == 0#64 && (t.core 0).guard.rem == 1) = true := by decide +kernel

/-- R287: FCVT.I64.F64.RTZ of -3.5 is -3 with NX; FCVT.I32.F64.RNE is -4. -/
theorem test_fcvt : (after (exec (.fcvt false 0#3 4#3 1#3 6#6 5#6) (st [(6, 0xC00C_0000_0000_0000#64)]))
      (fun t => t.reg 0 5#6 == 0xFFFF_FFFF_FFFF_FFFD#64 && (t.core 0).fflags == 1#5) &&
    after (exec (.fcvt false 0#3 6#3 0#3 6#6 5#6) (st [(6, 0xC00C_0000_0000_0000#64)]))
      (fun t => t.reg 0 5#6 == 0x0000_0000_FFFF_FFFC#64)) = true := by decide +kernel

/-- Chapter 10, borderline values: numerator, power of two of the denominator, format, mode, code, conditions. -/
theorem test_rounding : ∀ p ∈ ([
    (E4M3, .rne, false, 448, 0, 0x7E, 0#5), (E4M3, .rne, false, 464, 0, 0x7E, 1#5), (E4M3, .rne, false, 465, 0, 0x7E, 5#5),
    (E4M3, .rup, true, 1000, 0, 0xFE, 5#5), (E4M3, .rne, false, 1, 10, 0x00, 3#5), (F16, .rne, false, 65520, 0, 0x7C00, 5#5),
    (F16, .rtz, false, 65520, 0, 0x7BFF, 1#5), (B16, .rne, false, 257, 8, 0x3F80, 1#5), (B16, .rup, false, 257, 8, 0x3F81, 1#5),
    (E2M1, .rne, false, 5, 0, 0x6, 1#5), (E2M1, .rne, true, 7, 0, 0xF, 5#5)] :
    List (Fmt × RMode × Bool × Nat × Nat × Nat × BitVec 5)),
    (let r := roundTo p.1 p.2.1 p.2.2.1 p.2.2.2.1 (-(p.2.2.2.2.1 : Int))
     r.code == p.2.2.2.2.2.1 && r.flags == p.2.2.2.2.2.2) = true := by decide +kernel

/-- R300, narrowing to F16: 65,520 overflows, 1.0 is exact, a NaN is the canonical one, the rest is cleared. -/
theorem test_vcvt_narrow : after (exec (.vcvt false 1#3 2#3 0#3 7#6 6#6) (sq [(7, 0x7FC0_0001_3F80_0000_477F_F000#512)]))
    (fun t => (t.core 0).seq.vreg 6 == 0x7E00_3C00_7C00#512 && fld (t.core 0).seq.vstat 4 0 == 5) = true := by decide +kernel

/-- R299, per-element counting: three elements of 2^100 × 2^100 overflow, thirteen are exact. -/
theorem test_vfmul_counts :
    after (exec (.vfmul false 1#1 2#6 1#6 3#6 0#1) { sq [
        (1, BitVec.ofNat 512 (packVec 32 (List.replicate 16 0x71800000)).toNat),
        (2, BitVec.ofNat 512 (packVec 32 (List.replicate 3 0x71800000 ++ List.replicate 13 0x3F800000)).toNat)] with
        cores := [(0, { coreOf [] with evsel := 2#64, seq := { v := [
          (1, packVec 32 (List.replicate 16 0x71800000)),
          (2, packVec 32 (List.replicate 3 0x71800000 ++ List.replicate 13 0x3F800000))], vstat := 1#64 <<< 63 } })] })
      (fun t => elems 32 ((t.core 0).seq.vreg 3) == List.replicate 3 0x7F800000 ++ List.replicate 13 0x71800000 &&
        kget (t.core 0).ev 0 0#32 == 3#32) = true := by decide +kernel

/-- R303: VSLIDE by -1 moves elements up and clears element 0. -/
theorem test_vslide : after (exec (.vslide false 3#2 2#6 1#6 3#6) (sq [(1, packVec 64 [1, 2, 3, 4, 5, 6, 7, 8]),
    (2, 0xFFFF_FFFF_FFFF_FFFF#512)])) (fun t => elems 64 ((t.core 0).seq.vreg 3) == [0, 1, 2, 3, 4, 5, 6, 7]) = true := by
  decide +kernel

/-- R355, R359: TRAP goes to the trap entry, saves the word after it, and its operand is cw.xinfo. -/
theorem test_trap : after (exec (.trap false 5#6) (st [(5, 77#64)])) (fun t =>
    let c := t.core 0
    c.pc == 0x1000_0000_0000_0800#64 && c.tpc == 0x1000_0000_0000_0104#64 && c.cause == 0x8000_0000_0000_0001#64 &&
      c.xinfo == 77#64 && bit c.tstat 63 && c.mode == .hypervisor) = true := by decide +kernel

/-- R269: a misaligned load is the alignment fault at the word itself, with the address as computed. -/
theorem test_misaligned_load : after (exec (.ldD false 4#12 1#6 6#6) (st [(1, 0x1000_0000_0000_0200#64)])) (fun t =>
    let c := t.core 0
    c.cause == 0x8000_0000_0000_0006#64 && c.faddr == 0x1000_0000_0000_0204#64 && c.tpc == c.tpc &&
      c.tpc == 0x1000_0000_0000_0100#64 && c.held.isEmpty && c.acc.isEmpty) = true := by decide +kernel

/-- R131, R267: a store is issued with the low bytes of gB and counts in cw.out. -/
theorem test_store_issues : after (exec (.stH false 2#12 5#6 1#6) (st [(1, 0x1000_0000_0000_0200#64), (5, 0xABCD_1234#64)]))
    (fun t => (t.core 0).acc.map (fun a => (a.key, a.len, a.data)) == [(lmKey 0 0x202, 2, 0x1234#64)] && (t.core 0).out == 1) =
    true := by decide +kernel

/-- R128: an issued store is performed at its home, least significant byte first. -/
theorem test_store_performs : after (exec (.accessPerform 0 0 false) (onCore 0 { coreOf [] with accNext := 1, acc := [
    { n := 0, party := .ctl, kind := .store, home := .lm 0, key := lmKey 0 0x202, len := 2, data := 0x1234#64 }] }))
    (fun t => t.mem == [(lmKey 0 0x202, 0x34#8), (lmKey 0 0x203, 0x12#8)]) = true := by decide +kernel

/-- R308: ATM.MAX compares as signed numbers. -/
theorem test_atomic_max : atmNew .max 8 (2 ^ 64 - 1) 3 0 = some 3 ∧ atmNew .max 4 5 (2 ^ 32 - 1) 0 = some 5 := by decide

/-- R326: MASKC and UNMASKC at the highest class. -/
theorem test_maskc : (after (exec (.maskc false 14#6) (st [])) (fun t => (t.core 0).cmask == 0x4000#64) &&
    after (exec (.unmaskc false 14#6) (onCore 0 { coreOf [] with cmask := 0x4001#64 })) (fun t => (t.core 0).cmask == 1#64)) =
    true := by decide +kernel

/-- R230, R212: the first instruction after reset, placed where step fetches it, runs. -/
theorem test_step_runs : after (step (State.reset.withFetchWord 32 0x0020_008C)) (fun t => t.reg 0 1#6 == 0x100#64) = true := by
  decide +kernel

/-! ### Witnesses: states and operands that meet the hypotheses of each statement together, clause by clause -/

def isOk {ε α : Type} (x : Except ε α) : Bool :=
  match x with
  | .ok _ => true
  | .error _ => false

/-- `StepRunsTheWord`: a core with a word (or an illegal one) where it fetches; a sequencer; an agenda that is empty. -/
def runs (w : Nat) : State :=
  { st [] with mem := memWriteN [] (lmKey 0 0x100) (toBytes 4 w), agenda := [.run { core := 0, strm := .ctl }] }

theorem witness_step_word :
    (let v : State := { runs 0x282 with agenda := [], mover := { core := 0, strm := .ctl } }
     (v.core 0).run && !(v.inRom 0) && (v.deferredOf 0).isNone && !(v.core 0).parkDue && (v.core 0).holdDue.isNone &&
       (match v.fetchWord 0 (v.core 0).pc with | (_, .ok w) => w == 0x282#32 | _ => false) &&
       decodeTableWord 32 0x282 == some (.addi false 0#12 0#6 5#6)) = true := by decide +kernel

theorem witness_step_illegal :
    (let v : State := { runs 0 with agenda := [], mover := { core := 0, strm := .ctl } }
     (match v.fetchWord 0 (v.core 0).pc with | (_, .ok w) => w == 0#32 | _ => false) && decodeTableWord 32 0 == none) = true := by
  decide +kernel

theorem witness_step_sequencer :
    (let v : State := { sq [] with mem := memWriteN [] (lmKey 0 0x400) (toBytes 4 0x49) }
     let x := v.seqEnter 0
     !(x.core 0).seq.parkDue && bit (x.core 0).seq.vstat 63 && !(x.core 0).seq.startPend &&
       (match x.fetchWord 0 (x.core 0).seq.vpc with | (_, .ok w) => w == 0x49#32 | _ => false) &&
       decodeTableWord 32 0x49 == some (.vhalt false)) = true := by decide +kernel

theorem witness_step_event : Instr.slotEdge.isWord = false := rfl

theorem witness_step_nothing_due : (st []).agenda = [] ∧ (st []).nextDue.isNone = true := by decide +kernel

theorem witness_round_trip : (Instr.lda false 3#2 0#1 5#3 1#6 1#6).wf = true := by decide

theorem witness_decoding : decodeTableWord 32 0x0039002E = some (.dead false 7#6 8#6) := by decide +kernel

theorem witness_step_keeps_memory : State.reset.memOk = true ∧ after (step (runs 0x282)) State.memOk = true := by decide +kernel

theorem witness_memory : Memory.wf [(3, 1#8), (2 ^ 60, 255#8)] = true := by decide

/-- Register words: each form's operands are ready. -/
theorem witness_integer : ((st []).ctlReady { names := [3#6, 1#6, 2#6], reads := [1#6, 2#6] } &&
    (st []).ctlReady { names := [63#6, 1#6], reads := [1#6] }) = true := by decide +kernel

/-- Sums just inside and just outside 64 signed bits, and both outcomes of a select. -/
theorem witness_saturation :
    (let a (x : W64) (y : W64) : State := st [(1, x), (2, y)]
     (a 0x7FFF_FFFF_FFFF_FFFF#64 1#64).ctlReady { names := [3#6, 1#6, 2#6], reads := [1#6, 2#6] } &&
       decide (((a 0x7FFF_FFFF_FFFF_FFFF#64 1#64).reg 0 1#6).toInt + ((a 0x7FFF_FFFF_FFFF_FFFF#64 1#64).reg 0 2#6).toInt = 2 ^ 63) &&
       decide (((a (1#64 <<< 63) (-1#64)).reg 0 1#6).toInt + ((a (1#64 <<< 63) (-1#64)).reg 0 2#6).toInt < -2 ^ 63) &&
       decide (((a (1#64 <<< 63) 0#64).reg 0 1#6).toInt + ((a (1#64 <<< 63) 0#64).reg 0 2#6).toInt = -2 ^ 63) &&
       (a 0#64 0#64).reg 0 2#6 == 0#64 && (a 0#64 5#64).reg 0 2#6 != 0#64) = true := by decide +kernel

theorem witness_unary_nonzero_b : (1#6 : R6) ≠ 0#6 ∧ 0x20 ≤ (0x20#6 : R6).toNat := by decide

theorem witness_division : (st []).ctlReady { long := true, names := [3#6, 1#6, 2#6], reads := [1#6, 2#6] } = true := by
  decide +kernel

/-- A core whose run has ended with one held result. -/
def parked (h : Held) : State := onCore 0 { coreOf [] with parkDue := true, held := [h] }

theorem witness_division_park :
    (let c := (parked { dest := .reg 3#6, vals := [7#64], events := [5] }).core 0
     c.parkDue && c.holdDue.isNone && c.cacheClean) = true := by decide +kernel

theorem witness_immediate : ((st []).ctlReady { names := [3#6, 1#6], reads := [1#6] } && (st []).ctlReady { names := [3#6] } &&
    (st []).ctlReady { names := [3#6], reads := [3#6] } && (1#2 : BitVec 2) != 0#2) = true := by decide +kernel

/-- Fields that end at bit 63, and one bit further. -/
theorem witness_bit_fields : ((st []).ctlReady { names := [3#6, 1#6], reads := [1#6] } &&
    (st []).ctlReady { names := [3#6, 1#6], reads := [3#6, 1#6] }) = true ∧
    (60#6 : R6).toNat + (3#6 : R6).toNat + 1 ≤ 64 ∧ 64 < (60#6 : R6).toNat + (4#6 : R6).toNat + 1 ∧
    (56#6 : R6).toNat + (7#3 : BitVec 3).toNat ≤ 63 ∧ 63 < (57#6 : R6).toNat + (7#3 : BitVec 3).toNat := by decide +kernel

theorem witness_guard : ((st []).ctlReady { names := [1#6], reads := [1#6] } && (st []).own.guard.rem == 0) = true ∧
    (let s := onCore 0 { coreOf [] with guard := { rem := 1, sense := true, pred := true } }
     s.mover.strm = .ctl ∧ 0 < s.own.guard.rem) := by decide +kernel

theorem witness_branches : ((st []).ctlReady { names := [1#6, 2#6], reads := [1#6, 2#6] } &&
    (st []).ctlReady { names := [1#6], reads := [1#6] } && (st []).ctlReady {} && (st []).ctlReady { names := [7#6] } &&
    (st []).ctlReady { names := [1#6, 3#6], reads := [1#6] }) = true := by decide +kernel

/-- Loads and stores: a register that holds an LM address. -/
def lm : State := st [(1, 0x1000_0000_0000_0200#64), (2, 7#64)]

theorem witness_loads : (lm.ctlReady { long := true, names := [1#6, 6#6], reads := [1#6] } &&
    [1, 2, 4, 8].all fun n => isOk ((lm.took [1#6]).check 0 { acc := .read, n := n, align := n } (lm.reg 0 1#6)).2) = true := by
  decide +kernel

theorem witness_stores : (lm.ctlReady { names := [1#6, 2#6], reads := [1#6, 2#6] } &&
    ([1, 2, 4, 8].all fun n =>
      let r := (lm.took [1#6, 2#6]).check 0 { acc := .write, n := n, align := n } (lm.reg 0 1#6)
      isOk r.2 && decide ((r.1.core 0).out < 4096) && !(r.1.relBlocked 0 (.lm 0) (lmKey 0 0x200)))) = true := by decide +kernel

/-- With mailbox object 0 enabled: two slots of 64 bytes, of partition 0. -/
def withObj (s : State) : State := s.setDcw 0x060000 (mkWord [(63, 1), (44, 2), (39, 2), (0, 64)])

/-- The checks of an access: each order fails where the earlier ones pass. -/
theorem witness_checks :
    (let s := st []
     let low := onCore 0 { coreOf [] with mode := .firing }
     let locked := onCore 0 { coreOf [] with rlk := [{ op := 0, src := false, part := 0#6, ctx := 0#10, cls := 1, lo := 0x200,
                                                        hi := 0x208 }] }
     let lmA : W64 := 0x1000_0000_0000_0200#64
     let cls (a : W64) := a.toNat / 2 ^ 60
     decide (9 ≤ cls 0x9000_0000_0000_0000#64) && !(s.wellFormed 0x1000_0000_0002_0000#64 1) &&
       (s.wellFormed 0x7FFF_0000_000E_0000#64 8 && decide (cls 0x7FFF_0000_000E_0000#64 = 7) && (low.core 0).mode == .firing) &&
       (s.wellFormed 0x3000_0000_0000_0000#64 8 && !(s.mayUse 0 (s.core 0).part .thread 0x3000_0000_0000_0000#64 true)) &&
       (low.mayUse 0 (low.core 0).part .thread lmA false && !(low.holds (low.core 0).part .firing lmA 8)) &&
       (s.mayUse 0 (s.core 0).part .thread lmA false && !(s.deadTile 0) && s.holds (s.core 0).part .hypervisor lmA 8 &&
         lmA.toNat % 8 == 0 && !((s.core 0).rangeHit lmA 8 false) && s.classCond .read lmA 8) &&
       (locked.core 0).rangeHit (lmA + 4#64) 4 false &&
       (decide (cls 0x5000_0000_0000_0000#64 = 5) && (withObj s).wellFormed 0x5000_0000_0000_0000#64 8 &&
         !(((withObj s).obj 0).admits (.core 0) 0 false))) = true := by decide +kernel

theorem witness_check_fails : ((st [(1, 0x1000_0000_0000_0201#64)]).ctlReady { long := true, names := [1#6, 6#6], reads := [1#6] } &&
    (st [(1, 0x1000_0000_0000_0201#64)]).ctlReady { names := [1#6, 6#6], reads := [1#6, 6#6] } &&
    !(isOk (((st [(1, 0x1000_0000_0000_0201#64)]).took [1#6]).check 0 { acc := .read, n := 8, align := 8 }
      0x1000_0000_0000_0201#64).2)) = true := by decide +kernel

theorem witness_check_outside_class0 : (0x1000_0000_0000_0200#64 : W64).toNat / 2 ^ 60 ≠ 0 := by decide

theorem witness_hints : ((st []).mover.strm == .ctl && (st []).own.guard.rem == 0 && (sq []).mover.strm == .seq &&
    (st []).ctlReady { names := [60#6 + 3#6] }) = true ∧ (60#6 : R6).toNat + (3#6 : R6).toNat ≤ 63 := by decide +kernel

theorem witness_firing_ends : ((st []).ctlReady { park := true } && (st []).own.seqDone && (st []).own.inl.isEmpty &&
    (st []).own.curWk == some wk && decide (0 < wk.nin)) = true ∧
    (let s := onCore 0 { coreOf [] with inl := [0x1000_0000_0000_0300#64] }
     s.ctlReady { park := true } = true ∧ s.own.seqDone = true ∧ s.own.inl = [0x1000_0000_0000_0300#64]) := by decide +kernel

def all (l : List Bool) : Bool := l.all id

theorem witness_scalar_float : all [
    (st []).ctlReady { names := [3#6, 1#6, 2#6], reads := [1#6, 2#6] },
    (st []).ctlReady { names := [3#6, 1#6, 2#6], reads := [3#6, 1#6, 2#6] },
    (st []).ctlReady { names := [3#6, 1#6], reads := [1#6] },
    (st []).ctlReady { long := true, names := [3#6, 1#6, 2#6], reads := [1#6, 2#6] },
    (st []).ctlReady { long := true, names := [3#6, 1#6], reads := [1#6] }] = true := by decide +kernel

/-- A NaN, two infinities of one sign, a zero with an infinity, and a NaN beside a number. -/
theorem witness_float_rules : all [
    decodeF F64 0x7FF0_0000_0000_0001 == .nan, decodeF F32 0x7FC0_0000 == .nan, decodeF F64 0x7FF0_0000_0000_0000 == .inf false,
    decodeF F32 0xFF80_0000 == .inf true, (match decodeF F64 0 with | .fin false 0 _ => true | _ => false),
    decodeF F64 0x3FF0_0000_0000_0000 != .nan] = true := by decide +kernel

/-- A counter that is selected and full, and one that is not selected. -/
theorem witness_conditions :
    (let c : Core := { coreOf [] with evsel := 0x51#64, ev := [(0, 0xFFFF_FFFF#32)] }
     all [c.evsel.toNat / 16 ^ 0 % 16 == 1, kget c.ev 0 0#32 == 0xFFFF_FFFF#32, c.evsel.toNat / 16 ^ 1 % 16 != 1]) = true := by
  decide +kernel

/-- Vector words: registers, a channel that supplies an operand, and fields at their bounds. -/
theorem witness_vector : all [
    (sq []).seqReady { strm := .seq }, (sq []).seqReady { strm := .seq, long := true }, (sq []).seqReady { strm := .seq, park := true },
    ((sq []).own.vsrc2 1#6 2#6).isSome, ((sq []).own.vsrc 31#6).isSome,
    (({ coreOf [] with seq := { chans := [(2, [(0, 5#512)])] } } : Core).vsrc2 34#6 5#6).isSome,
    vsrcOk 39#6, vregOk 31#6, decide (0x14 ≤ (0x14#6 : R6).toNat), decide (16 ≤ (16#5 : BitVec 5).toNat)] = true := by decide +kernel

/-- Vector accesses: a base in the LM whose eight doublewords pass, and one that is misaligned. -/
theorem witness_vector_memory :
    (let s := sq [(1, 0x1000_0000_0000_0200#512), (2, 8#512)]
     let t := sq [(1, 0x1000_0000_0000_0201#512)]
     let at1 (b : W64) : List (Nat × W64) := (List.range 8).map fun i => (i, b + BitVec.ofNat 64 (i * 8))
     let ok (r : State × List (Nat × W64 × Target) × Option (W64 × Flt)) : Bool := r.2.2.isNone && r.2.1.length == 8
     all [(s.own.vsrc 1#6).isSome, (s.own.vsrc2 1#6 2#6).isSome,
       ok (s.checkElems 0 .read 8 true (at1 0x1000_0000_0000_0200#64)), ok (s.checkElems 0 .write 8 true (at1 0x1000_0000_0000_0200#64)),
       ok (s.checkElems 0 .read 8 false (at1 0x1000_0000_0000_0200#64)), ok (s.checkElems 0 .write 8 false (at1 0x1000_0000_0000_0200#64)),
       (t.checkElems 0 .read 8 true (at1 0x1000_0000_0000_0201#64)).2.2.isSome, decide (s.own.out + 8 ≤ 4096)]) = true := by
  decide +kernel

theorem witness_sequencer_control : all [
    decide ((sq []).own.out < 4096), !(sq []).own.relFull, decide ((sq []).own.seq.qg.length < 16), (sq []).own.acc.isEmpty,
    (sq []).own.seq.flags.getLsbD 15 == false] = true := by decide +kernel

/-- Atomics: an address of 16 bytes in the LM; a class 0x5 payload that ADDZ may not reach. -/
theorem witness_atomics :
    (let o : Obj := { slots := [(0, .reserved)], resv := some (0, .core 0) }
     let v : State := { withObj lm with objs := [(0, o)] }
     all [lm.ctlReady { long := true, names := [6#6, 1#6, 2#6], reads := [1#6, 2#6] },
       lm.ctlReady { long := true, names := [6#6, 1#6, 2#6], reads := [1#6, 2#6, 6#6] },
       isOk ((lm.took [1#6, 2#6]).check 0 { acc := .atomic, n := 8, align := 8 } (lm.reg 0 1#6)).2,
       isOk ((lm.took [1#6, 2#6]).check 0 { acc := .atomic, n := 4, align := 4 } (lm.reg 0 1#6)).2,
       isOk ((lm.took [1#6, 2#6]).check 0 { acc := .atomic, n := 16, align := 16 } (lm.reg 0 1#6)).2,
       atmClass .addz (lm.reg 0 1#6), !(lm.relBlocked 0 (.lm 0) (lmKey 0 0x200)),
       isOk (v.check 0 { acc := .atomic, n := 16, align := 16 } 0x5000_0000_0000_0000#64).2,
       !(atmClass .addz 0x5000_0000_0000_0000#64)]) = true := by decide +kernel

theorem witness_atomic_values : (0 : Nat) < 8 ∧ 2 ^ 63 < 2 ^ (8 * 8) ∧ 2 ^ 64 - 1 < 2 ^ (8 * 8) := by decide

/-- FENCE: one earlier load still out, so that kind rr stalls and kind 0000 does not. -/
theorem witness_fences :
    (let c : Core := { coreOf [] with acc := [{ n := 0, party := .ctl, kind := .load, home := .lm 0, len := 8 }] }
     let mine := c.acc.filter fun a => a.party == .ctl && insideScope 0 4#3 a.home
     all [(st []).ctlReady {}, (onCore 0 c).ctlReady {}, mine.any (·.kind.isRead), !(mine.any (·.kind.isWrite)),
       (st []).own.out == 0]) = true := by decide +kernel

/-- Waits: an LM counter that is read at once. -/
theorem witness_waits :
    (let u := lm.took [1#6, 2#6]
     all [lm.ctlReady { names := [1#6, 2#6], reads := [1#6, 2#6] },
       isOk (u.check 0 { acc := .read, n := 8, align := 8 } (lm.reg 0 1#6)).2,
       isOk (u.check 0 { acc := .read, n := 16, align := 16 } (lm.reg 0 1#6)).2, u.homeLive (.lm 0),
       (u.core 0).mayRead 0 (.lm 0) (lmKey 0 0x200) 16, clsOf (lm.reg 0 1#6) == 1]) = true := by decide +kernel

/-- Two cores of one team, of which the first arrives; and a team whose barrier this arrival ends. -/
def teamed (n : Nat) : State :=
  { onCore 0 { coreOf [(1, 0x1000_0000_0000_0200#64)] with dir := [{ wk with team := 1 }] } with teams := [(1, {
    lead := (0, 1#16), part := 0#6, fn := 0, arr := false, actors := [(0, 1#16)], lm := [], wb := [], ab := [], barCnt := n
    bars := [] })] }

theorem witness_barriers :
    (let s := teamed 2
     all [s.ctlReady {}, s.own.wait == .none, (s.own.releaseWaits 0 .ctl 4#3).isEmpty, (s.curTeam 0).isSome,
       ((teamed 1).curTeam 0).isSome, ((st []).curTeam 0).isNone, s.ctlReady { names := [1#6], reads := [1#6] },
       isOk ((s.took [1#6]).check 0 { acc := .write, n := 72, align := 8 } (s.reg 0 1#6)).2,
       ((s.took [1#6]).checkRecord 0 (s.reg 0 1#6)).2.isNone,
       (onCore 0 { coreOf [] with wait := .got 0#64 0#64 }).ctlReady {}, clsOf (s.reg 0 1#6) == 1,
       isOk ((onCore 0x800 (coreOf [])).check 0x800 { acc := .write, n := 72, align := 8 } 0x6000_0000_0000_0200#64).2,
       clsOf 0x6000_0000_0000_0200#64 == 6]) = true := by decide +kernel

/-- ARM up to g63; a range word for MINTC that is good, one with a bit too many, one that passes the allotment. -/
theorem witness_register_targets :
    (let s := st [(2, 0x2050#64), (5, 0x1_0000#64), (6, 0x1001#64)]
     all [s.ctlReady { names := (List.range 4).map fun i => (60#6 : R6) + BitVec.ofNat 6 i },
       decide ((60#6 : R6).toNat + (3#3 : BitVec 3).toNat ≤ 63),
       s.ctlReady { names := [8#6, pairHi 8#6, 2#6], reads := [2#6] }, s.own.curWk == some wk,
       decide ((s.reg 0 5#6).toNat / 2 ^ 16 ≠ 0),
       (let v := (s.reg 0 2#6).toNat; decide (v / 2 ^ 16 = 0 ∧ v % 2 ^ 6 ≠ 0 ∧ v / 2 ^ 6 % 2 ^ 7 ≠ 0 ∧ v % 64 + v / 64 % 128 ≤ 64)),
       (let v := (s.reg 0 6#6).toNat; decide (v / 2 ^ 16 = 0 ∧ 64 < v % 64 + v / 64 % 128))]) = true := by decide +kernel

/-- A capability of registers 16 to 20 of core 0 that allows plain writes; its index 21 is outside; and a word that is none. -/
theorem witness_remote_writes :
    (let lo : W64 := 0x2000_0001_0010_A480#64
     let s := st [(10, lo), (5, 9#64)]
     let cap : BitVec 128 := s.reg 0 11#6 ++ s.reg 0 10#6
     all [s.ctlReady { names := [10#6, pairHi 10#6, 5#6], reads := [10#6, pairHi 10#6, 5#6] }, s.own.wait == .none,
       capShape cap, capAllows cap 16 false, !(capAllows cap 21 false), !(capShape 0#128), decide (s.own.out < 4096),
       !s.own.relFull, (onCore 0 { coreOf [] with wait := .got 4#64 0#64 }).ctlReady { names := [10#6, 11#6, 5#6], reads := [10#6, 11#6, 5#6] }]) =
    true := by decide +kernel

theorem witness_messages :
    (let s := st [(1, 5#64), (2, 0x0010_0003_0000_0008#64), (8, 0x1000_0000_0000_0300#64), (9, 4#64), (4, 0x1000_0000_0000_0200#64)]
     let w := s.reg 0 2#6
     all [s.ctlReady { names := [1#6, 2#6], reads := [1#6, 2#6] }, s.ctlReady { names := [1#6, 2#6, 3#6], reads := [1#6, 2#6] },
       s.own.wait == .none, decide (w.toNat / 2 ^ 60 = 0 ∧ w.toNat / 2 ^ 36 % 2 ^ 12 = 0 ∧ w.toNat % 2 ^ 32 = 8),
       decide (w.toNat / 2 ^ 32 % 2 ^ 4 ≠ 15), s.destOk 0 (w.toNat / 2 ^ 48 % 2 ^ 12), !s.own.relFull,
       s.ctlReady { names := [4#6, 8#6, pairHi 8#6], reads := [4#6, 8#6, pairHi 8#6] }, clsOf (s.reg 0 4#6) == 1,
       s.wellFormed (s.reg 0 4#6) 1, s.wellFormed (s.reg 0 8#6) 4, clsOf (s.reg 0 8#6) == 1,
       (s.checkClass 0 s.own.part s.own.mode .thread true (s.reg 0 4#6) 1).isNone]) = true := by decide +kernel

/-- SPAWN on a core of the partition's home interval; FORK on a cell with four shares; JOIN. -/
def homely (rs : KMap W64) : State := (st rs).setDcw 0x046000 (mkWord [(63, 1), (16, 64), (0, 0)])

theorem witness_teamwork :
    (let s := homely [(1, 0x1000_0000_0000_0300#64), (2, 5#64)]
     let f := { homely [(1, 0x1000_0000_0000_0200#64), (2, 0x1000_0000_0000_0300#64)] with
       mem := memWriteN [] (lmKey 0 0x200) (toBytes 8 0 ++ toBytes 8 0x1000_0000_0000_0400 ++ toBytes 8 16 ++ toBytes 8 4) }
     let t : Target := { home := .lm 0, key := lmKey 0 0x200 }
     all [s.ctlReady { park := true, names := [1#6, 2#6], reads := [1#6, 2#6, 1#6, 2#6, 3#6, 4#6] }, s.own.wait == .none,
       isOk ((s.took [1#6, 2#6]).checkFetch 0 (s.reg 0 1#6)).2, isArrayCore 5, s.holdsCore 0 5, !(s.retired 5),
       f.ctlReady { names := [1#6, 2#6], reads := [1#6, 2#6] }, isOk ((f.took [1#6, 2#6]).checkCell 0 (f.reg 0 1#6)).2,
       f.homeLive (.lm 0), f.own.mayRead 0 (.lm 0) (lmKey 0 0x200) 32, f.cellWord t 3 == 4#64, f.cellWord t 2 == 16#64,
       f.own.inl.isEmpty, decide (f.reg 0 2#6 ≠ 0#64), f.own.held.isEmpty, f.own.seqDone]) = true := by decide +kernel

theorem witness_queues : all [
    (st []).ctlReady { array := true, names := [1#6], reads := [1#6] }, (st []).ctlReady { array := true, long := true, names := [1#6] },
    (st []).ctlReady { array := true }, (st []).own.qe.isEmpty, (st []).own.qm.isEmpty, ((st []).leaseOf 0).isNone,
    decide ((st []).own.qms.length < 16), !(st []).own.relFull, (st []).own.seq.vstat.getLsbD 63 == false,
    (sq []).own.seq.vstat.getLsbD 63, decide ((st []).own.seq.qv.length < 16)] = true := by decide +kernel

theorem witness_mailbox :
    (let s := withObj (st [(1, 0#64)])
     all [s.reg 0 1#6 == 0#64, (s.objCheck s.own.part s.own.mode 0).isNone,
       s.ctlReady { long := true, names := [1#6, 4#6, pairHi 4#6], reads := [1#6] },
       s.ctlReady { long := true, names := [1#6, 4#6, pairHi 4#6, 8#6, pairHi 8#6], reads := [1#6, 8#6, pairHi 8#6] },
       s.ctlReady { names := [1#6], reads := [1#6] }, s.ctlReady { names := [1#6, 2#6], reads := [1#6, 2#6] },
       decide (s.own.out < 4096)]) = true ∧ (2 ^ 48 - 1 : Nat) < 2 ^ 48 := by decide +kernel


/-- Copies between two LM rows; a full FIFO; a lock table with room for one; the same record for COPYT. -/
def copies (c : Core → Core) : State :=
  onCore 0 (c (coreOf [(4, 0x1000_0000_0000_0200#64), (5, 0x1000_0000_0000_0400#64), (7, 0x3F#64)]))

theorem witness_copies :
    (let ready (s : State) : Bool := isOk ((s.took (blockRegs 4#6 4)).checkCopy 0 (s.block 0 4#6 4)).2 &&
       s.ctlReady { array := true, names := blockRegs 4#6 4, reads := blockRegs 4#6 4 } &&
       s.ctlReady { array := true, names := 3#6 :: blockRegs 4#6 4, reads := blockRegs 4#6 4 }
     let full := copies fun c => { c with fifo := List.replicate 16 { fn := 0 } }
     let tight := copies fun c => { c with rlk := (List.range 127).map fun i =>
       { op := i, src := true, part := 0#6, ctx := 1#10, cls := 1, lo := 0x8000, hi := 0x8001 } }
     all [ready (copies id), ready full, ready tight, decide ((copies id).own.fifo.length < 16),
       decide ((copies id).own.rlk.length + 2 ≤ 128), decide (16 ≤ full.own.fifo.length), decide (tight.own.fifo.length < 16),
       decide (128 < tight.own.rlk.length + 2)]) = true := by decide +kernel

/-- A lease of the core's own cluster: free, asked for by another, refused; and WREL at the bound of its tiles. -/
theorem witness_leases :
    (let s := st [(6, 0xFFFF#64)]
     let bad := st [(4, 0x1000#64)]
     let u := s.took [4#6]
     let held : State := { s with clusters := [(0, { lease := some { core := 1, cmds := 1, until_ := 0#64 } })] }
     let early : State := { s with clusters := [(0, { waiters := [{ core := 2, spec := 0#64, tag := 0 }] })] }
     let mine : State := { s with clusters := [(0, { lease := some { core := 0, cmds := 1, until_ := 0#64 } })] }
     all [s.ctlReady { array := true, names := [4#6, 3#6], reads := [4#6] }, s.own.wait == .none, (u.checkLease 0 (s.reg 0 4#6)).isNone,
       (onCore 0 { coreOf [] with wait := .got 5#64 0#64 }).ctlReady { array := true, names := [4#6, 3#6], reads := [4#6] },
       ((held.took [4#6]).checkLease 0 (held.reg 0 4#6)).isNone, (((held.took [4#6]).clu 0).lease).isSome, u.leaseRank 0 0 == some 3,
       (u.clu 0).lease.isNone, (early.took [4#6]).leaseRank 0 2 == some 3, ((early.took [4#6]).checkLease 0 0#64).isNone,
       ((bad.took [4#6]).checkLease 0 (bad.reg 0 4#6)).isSome, decide ((s.reg 0 6#6).toNat < 2 ^ 16),
       s.ctlReady { array := true, names := [6#6], reads := [6#6] }, (mine.took [6#6]).leaseOf 0 |>.isSome]) = true := by
  decide +kernel

/-- Core 0 has cluster 0, its tiles 0 to 15, under format `acc`. -/
def leased (rs : KMap W64) (fmt : FmtCtx) : State :=
  { onCore 0 { coreOf rs with wlast := some 0 } with clusters := [(0, {
      lease := some { core := 0, cmds := 8, until_ := 0#64 }, holder := (List.range 16).map fun t => (t, 0), fmt := [(0, fmt)] })] }

theorem witness_wmma :
    (let s := leased [(8, 0x1000_0000_0000_0200#64), (9, 0x1000_0000_0000_1000#64), (10, 0x0000_0001_0000_0001#64),
       (11, 64#64 <<< 40 ||| 64#64 <<< 16)] { a := 10#5, b := 15#5, acc := 1#2 }
     let u := s.took (blockRegs 8#6 5)
     let r := s.block 0 8#6 5
     let e := u.wainCmd 0 fnWmma r
     let w := rw r 3
     all [s.ctlReady { array := true, names := blockRegs 8#6 5, reads := blockRegs 8#6 5 }, fld w 2 0 == 0,
       decide (fld w 15 7 ≤ pairK e.fmt.a.toNat e.fmt.b.toNat), !(tagBad (rw r 4) false), (rw r 0).toNat % 32 == 0,
       (rw r 1).toNat % 32 == 0, fld w 63 40 % 32 == 0, fld w 39 16 % 32 == 0, (u.spanFault 0 .wain false e.spans).isNone,
       !(u.leaseBad 0 e.tiles), isOk (u.checkTag 0 e.tag).2, decide ((u.core 0).qm.length < 16), e.fmt.acc != 2#2,
       (leased [] { acc := 2#2 }).nextFmt 0 0 == { acc := 2#2 }, !(bit w 6),
       decide ((u.core 0).rlk.length + (e.sources (u.core 0)).length ≤ 128)]) = true := by decide +kernel

/-- WZERO of tiles 0 and 1, WNORM, WSTEP under S40 from slot 0 to slot 1. -/
theorem witness_wain_rest :
    (let s := leased [(8, 0x3#64)] { acc := 2#2 }
     let t := leased [(8, 0x1_0003#64)] { a := 10#5, b := 15#5, acc := 1#2 }
     let u := s.took (blockRegs 8#6 2)
     let r := s.block 0 8#6 2
     let z := u.wainCmd 0 fnWzero r
     let n := leased [(9, 0x0#64)] { acc := 2#2 }
     let x := n.took (blockRegs 8#6 2)
     let e := x.wainCmd 0 fnWnorm (n.block 0 8#6 2)
     all [s.ctlReady { array := true, names := blockRegs 8#6 2, reads := blockRegs 8#6 2 }, fld (rw r 0) 63 24 == 0, z.fmt.acc == 2#2,
       (List.range 8).all (fun t => bit (rw r 0) (2 * t) == bit (rw r 0) (2 * t + 1)), !(tagBad (rw r 1) false), !(u.leaseBad 0 z.tiles),
       isOk (u.checkTag 0 z.tag).2, fld (rw r 0) 63 35 == 0, fld (rw r 0) 23 16 == 0, fld (t.reg 0 8#6) 23 16 == 1,
       !(x.leaseBad 0 e.tiles), isOk (x.checkTag 0 e.tag).2]) = true := by decide +kernel

theorem witness_wstep :
    (let s := leased [(8, 0x1000_0000_0000_0200#64), (9, 64#64 <<< 40 ||| 1#64 <<< 33)] { a := 3#5, b := 3#5, acc := 2#2 }
     let u := s.took (blockRegs 8#6 3)
     let r := s.block 0 8#6 3
     let e := u.wainCmd 0 fnWstep r
     let w := rw r 1
     all [s.ctlReady { array := true, names := blockRegs 8#6 3, reads := blockRegs 8#6 3 }, !(bit w 39), fld w 35 33 != fld w 38 36,
       !(tagBad (rw r 2) false), fld w 63 40 % 32 == 0, (u.spanFault 0 .wain false e.spans).isNone, e.fmt.acc == 2#2, !(u.leaseBad 0 e.tiles),
       isOk (u.checkTag 0 e.tag).2]) = true := by decide +kernel

/-- WFMT of an integer pair that a Clearing Wain has too; WRETRY of a command that stopped. -/
theorem witness_formats :
    (let x : W64 := 10#64 ||| 15#64 <<< 5 ||| 1#64 <<< 10
     let s := leased [(8, x)] {}
     let c : State := { onCore 0x800 (coreOf [(8, x)]) with clusters := [(0x80, { lease := some { core := 0x800, cmds := 1, until_ := 0#64 } })] }
     let r : State := { onCore 0 { coreOf [] with rowprog := 1#64 <<< 63 } with clusters := [(0, {
       lease := some { core := 0, cmds := 8, until_ := 0#64 }, wain := [{ core := 0, cmd := { fn := 0 }, index := 0, stopped := true }] })] }
     all [s.ctlReady { array := true, names := [8#6, 9#6], reads := [8#6, 9#6] }, !(fmtBad (s.reg 0 8#6) (s.reg 0 9#6)),
       ((s.took [8#6, 9#6]).leaseOf 0).isSome, decide (s.own.qm.length < 16), ((c.took [8#6, 9#6]).leaseOf 0x800).map (·.1) == some 0x80,
       clearingPair (fld x 4 0) (fld x 9 5) (fld x 11 10), r.ctlReady { array := true }, ((r.took []).leaseOf 0).isSome,
       bit r.own.rowprog 63, ((r.took []).clu 0).wain.any fun w => w.stopped && w.core == 0]) = true := by decide +kernel

/-- TEPI of one integer row to the LM. -/
theorem witness_tepi :
    (let s := leased [(8, 0x1000_0000_0000_0400#64), (10, 0x0000_0001_0000_0001#64), (11, 11#64 <<< 35)] { a := 10#5, b := 15#5, acc := 1#2 }
     let u := s.took (blockRegs 8#6 5)
     let r := s.block 0 8#6 5
     let fmt := u.nextFmt 0 0
     let e := (u.core 0).command 0 fnTepi r 0 fmt none
     all [s.ctlReady { array := true, names := blockRegs 8#6 5, reads := blockRegs 8#6 5 }, !(tpBad r fmt), (rw r 0).toNat % 4 == 0,
       fld (rw r 3) 63 40 % 4 == 0, (u.spanFault 0 .tender true (tpSpans r)).isNone, u.mayCommand 0 (fld (rw r 4) 27 16),
       e.tiles.all fun t => kfind (u.clu 0).holder t == some 0, isOk (u.checkTag 0 e.tag).2, (u.core 0).qe.isEmpty,
       s.ctlReady { array := true, names := [5#6] }]) = true := by decide +kernel

/-- TRAP; TRET in a handler and outside one; TRET of a held firing, asked for, answered and refused. -/
theorem witness_traps :
    (let s := st [(1, 0x0010_0000_0000_0000#64), (2, 0#64), (4, 3#64)]
     let i : Issue := { least := .partition, park := true, names := [1#6, 2#6, 3#6], reads := [1#6, 2#6] }
     all [s.ctlReady { names := [1#6], reads := [1#6] }, s.ctlReady { park := true }, !(bit s.own.tstat 63),
       bit (onCore 0 { coreOf [] with tstat := 1#64 <<< 63 }).own.tstat 63,
       (onCore 0 { coreOf [] with tstat := 1#64 <<< 63 }).ctlReady { park := true }, s.ctlReady i, s.own.wait == .none,
       (onCore 0 { coreOf [] with wait := .got 2#64 0#64 }).ctlReady i, ((s.took [1#6, 2#6]).tretBad 0 (s.reg 0 1#6) (s.reg 0 2#6)).isNone,
       s.ctlReady { i with names := [1#6, 4#6, 3#6], reads := [1#6, 4#6] },
       ((s.took [1#6, 4#6]).tretBad 0 (s.reg 0 1#6) (s.reg 0 4#6)).isSome]) = true ∧ (1#6 : R6) ≠ 0#6 := by decide +kernel

/-- A firing that may trap, a Station core with a vector, and a firing inside its handler, which holds. -/
theorem witness_faults :
    (let s := st []
     let x : State := onCore 0xF00 { coreOf [] with mode := .station, tvec := 0x6000_0000_0000_0000#64 }
     let h : State := onCore 0 { coreOf [] with tstat := 1#64 <<< 63 }
     all [(s.core 0).wait == .none, (s.core 0).mode != .station, !(bit (s.core 0).tstat 63), (s.core 0).curWk == some wk, wk.trap != 0#64,
       (x.core 0xF00).mode == .station, !(bit (x.core 0xF00).tstat 63), (x.core 0xF00).tvec != 0#64, bit (h.core 0).tstat 63,
       (h.core 0).curWk == some wk]) = true ∧ (0x01#8 : BitVec 8) ≤ 0x13#8 ∧ (0x13#8 : BitVec 8) < 0x14#8 := by decide +kernel

/-- Orders 3 to 5, at a core whose firing has 8 registers. -/
theorem witness_issue_checks :
    (let low : State := onCore 0 { coreOf [] with mode := .firing, dir := [{ wk with mode := .firing, allot := 8 }] }
     let shut : State := onCore 0 { coreOf [] with guard := { rem := 1, sense := true, pred := false } }
     all [low.mover.strm == .ctl, isStation 0xF00, decide (modeCode .firing < modeCode .partition), low.own.allot == 8,
       decide (¬ (8#6 : R6).toNat < low.own.allot), decide ((7#6 : R6).toNat < low.own.allot), decide (0 < shut.own.guard.rem),
       shut.own.guard.pred != shut.own.guard.sense]) = true := by decide +kernel

/-- A control word that reads, one that does not exist, and a write that its word takes and one that it refuses. -/
theorem witness_control_words :
    (let s := st [(1, 5#64), (2, 1#64 <<< 63)]
     all [s.ctlReady { least := cwReadMode 1, names := [1#6] }, ((s.took []).cwRead 0 1).isSome,
       s.ctlReady { least := cwReadMode 63, names := [1#6] } || !(modeGe .hypervisor (cwReadMode 63)), ((s.took []).cwRead 0 63).isNone,
       (List.range 64).all fun n => decide (n = 6) || !(modeGe .hypervisor ((cwWriteMode n).getD .station)) ||
         s.ctlReady { least := (cwWriteMode n).getD .station, names := [1#6], reads := [1#6] }]) = true := by decide +kernel

/-- TLBINV and CMO operands at the bounds of their checks; 16 of a kind already outstanding. -/
theorem witness_maintenance :
    (let s := st [(1, 0xFFFF_FFFF_F000#64), (2, 0x1FF#64), (3, 0x100_0000_0000#64), (5, 0x3F#64)]
     let i (a b d : R6) (p : Mode) : Issue := { least := p, names := [a, b, d], reads := [a, b, d] }
     let x : Maint := { tlbinv := true, form := 9, a := 0#64, b := 0#64, counter := none, waits := [], part := 0#6, ctx := 0#10,
                        mode := .hypervisor, word := 0#32 }
     let full : State := onCore 0 { coreOf [(2, 0x1FF#64)] with maint := List.replicate 16 x }
     all [s.ctlReady (i 1#6 2#6 0#6 .partition), s.ctlReady (i 1#6 5#6 0#6 .hypervisor),
       s.ctlReady { least := .hypervisor, names := [5#6, 0#6], reads := [5#6, 0#6] },
       s.ctlReady { least := .partition, names := [2#6, 0#6], reads := [2#6, 0#6] },
       !((s.took [2#6, 0#6]).ctxBad 0 (s.reg 0 2#6).toNat), !((s.took [1#6, 2#6, 0#6]).ctxBad 0 ((s.reg 0 2#6).toNat % 2 ^ 10)),
       isOk ((s.took [1#6, 2#6, 0#6]).maintCtr 0 0#6).2, decide ((s.reg 0 1#6).toNat < 2 ^ 48), decide ((s.reg 0 3#6).toNat ≤ 2 ^ 40),
       decide ((s.reg 0 1#6).toNat / 2 ^ 12 % 2 ^ 36 * 4096 + ((s.reg 0 2#6).toNat / 2 ^ 16 % 2 ^ 16 + 1) * 4096 ≤ 2 ^ 48),
       (full.own.maint.countP (fun k => k.tlbinv == true)) == 16,
       full.ctlReady { least := .partition, names := [2#6, 0#6], reads := [2#6, 0#6] }]) = true := by decide +kernel

/-- A Clearing core of partition 0 in a slot that lends it clusters 0 and 1, of which partition 5 may have one. -/
def clearing (rs : KMap W64) : State :=
  let s := (onCore 0x800 (coreOf rs)).setDcw 0x078000 (mkWord [(63, 1), (49, 1), (35, 4), (31, 1)])
  { (s.setDcw 0x078100 (mkWord [(63, 1), (62, 1)])).setDcw 0x078110 3#64 with slot := { s.slot with begun := true, holder := some 0 } }

theorem witness_seizure :
    (let s := clearing [(8, 3#64), (10, 8#64)]
     let other : State := { s with clusters := [(1, { seized := some 5 })] }
     let i (a : R6) : Issue := { names := [a, pairHi a, 3#6], reads := [a, pairHi a] }
     let cs (a : R6) := maskClusters (s.reg 0x800 a) (s.reg 0x800 (pairHi a))
     all [(st []).ctlReady (i 8#6), !(isClearing 0), isClearing 0x800, s.ctlReady (i 8#6), cs 12#6 == [], cs 8#6 == [0, 1],
       !(s.lendable 0 3), cs 10#6 == [3], s.devState != 2, (cs 8#6).all (s.lendable 0), (cs 8#6).all fun c => (s.clu c).seized == none,
       ((other.took [8#6, 9#6]).clu 1).seized == some 5, s.ctlReady { names := [8#6, 9#6], reads := [8#6, 9#6] },
       s.ctlReady { least := .partition }]) = true := by decide +kernel

/-- A Station core with the image running: queue slot 0 with one entry to fetch; a completion queue of one entry. -/
def stationed (rs : KMap W64) (tail : W64) : State :=
  let s := onCore 0xF00 { coreOf rs with mode := .station, xctx := 0x3FF#64 }
  { s.setDcw 0x051008 (mkWord [(32, 1), (20, 1)]) with
    memCfg := true, qslots := [(0, 1#64 <<< 63)], w1 := [(1, 0x8000_0000_0000_0001#64), (3, tail)] }

theorem witness_station :
    (let s := stationed [(1, 0x4000#64), (2, 0#64), (3, 0x6000_0000_0000_0040#64)] 1#64
     let e := stationed [(1, 0x4000#64), (2, 0#64)] 0#64
     let f : State := { s with w1 := s.w1 ++ [(5, 1#64)] }
     let i (b : R6) : Issue := { least := .station, names := [b, 2#6, 5#6], reads := [b, 2#6] }
     let w (b : R6) := (s.took [b, 2#6]).check 0xF00 { acc := .write, n := 64, align := 64 } (s.reg 0xF00 b)
     let r := (s.took [3#6, 2#6]).check 0xF00 { acc := .read, n := 16, align := 8 } (s.reg 0xF00 3#6)
     all [s.ctlReady (i 1#6), (s.took [1#6, 2#6]).slotNamed (s.reg 0xF00 2#6) == some 0, clsOf (s.reg 0xF00 1#6) == 0, isOk (w 1#6).2,
       !((w 1#6).1.ringEmpty 0), e.ringEmpty 0, e.ctlReady (i 1#6), !((w 1#6).1.core 0xF00).stillOut .mem 0x4000 64,
       decide ((s.reg 0xF00 2#6).toNat < 256), decide (({ s with signals := 1#8 }).signals &&& 1#8 ≠ 0#8), s.ctlReady (i 3#6), isOk r.2,
       !(r.1.cqFull 0 0), f.cqFull 0 0, ((s.took [3#6, 2#6]).stationRecord 0xF00 0x6000_0000_0000_0040#64).2.isSome]) = true := by
  decide +kernel

/-- A run with one held result of access 3: not back, back, and back with a fault; the sequencer likewise. -/
def parkedOn (ret : KMap Ret) : State :=
  onCore 0 { coreOf [] with held := [{ dest := .reg 5#6, waits := [3] }], parkDue := true, ret := ret }

theorem witness_parks :
    (let back := parkedOn [(3, { vals := [7#64] })]
     let bad := parkedOn [(3, { vals := [], flt := some { code := 0x0B#8 } })]
     let due : State := onCore 0 { coreOf [] with parkDue := true, holdDue := some ({ code := 0x07#8 }, 0#64) }
     let seq : State := onCore 0 { coreOf [] with ret := [(3, { vals := [7#64] })], seq := {
       held := [{ dest := .vec 2, waits := [3] }], parkDue := true, owner := 1 } }
     let bare (s : State) : Core := { s.core 0 with held := [], parkDue := false }
     all [((parkedOn []).core 0).parkDue, (kfind ((parkedOn []).core 0).ret 3).isNone, (kfind (back.core 0).ret 3).isSome,
       ((bare back).writeAll (back.core 0).held).2.isEmpty, (back.core 0).holdDue.isNone, !((bare bad).writeAll (bad.core 0).held).2.isEmpty,
       ((bare due).writeAll (due.core 0).held).2.isEmpty, (due.core 0).holdDue.isSome, (back.core 0).cacheClean,
       kfind (back.core 0).ret 3 == some { vals := [7#64] }, (kfind (bad.core 0).ret 3).map (·.flt.isSome) == some true,
       (seq.core 0).seq.parkDue, !((seq.core 0).intr.any (·.ent == (seq.core 0).seq.owner)), (kfind (seq.core 0).ret 3).isSome]) = true := by
  decide +kernel

/-- Core 0 with accesses out. -/
def withAcc (as : List Acc) : State := onCore 0 { coreOf [] with accNext := 9, acc := as }

/-- Accesses at each kind of home. -/
theorem witness_accesses :
    (let ld : Acc := { n := 1, party := .ctl, kind := .load, va := 0x1000_0000_0000_0200#64, home := .lm 0, key := lmKey 0 0x200, len := 8 }
     let sto : Acc := { ld with n := 0, kind := .store, data := 5#64 }
     let atm : Acc := { ld with kind := .atomic .add }
     let mem : Acc := { ld with home := .mem, key := 0x4000, va := 0x4000#64 }
     let frn : Acc := { ld with home := .foreign, va := 0x8000_0000_0000_1000#64 }
     let out : Acc := { sto with st := .performed }
     let may (a : Acc) : Bool := ((withAcc [a]).core 0).mayPerform 0 a && (withAcc [a]).homeLive a.home && ((withAcc [a]).core 0).accNo a.n == some a
     let line : Way := { w := 0, st := .clean, owner := 0#6, line := 0x100, data := 5#512 }
     let hit : State := { (withAcc [mem]).setCw 0xC00 0 1#64 with sets := [(setKey 0x4000, [line])] }
     all [may ld, may sto, may atm, may mem, may frn, !(((withAcc [sto, ld]).core 0).mayPerform 0 ld),
       ((withAcc [sto, ld]).core 0).forwardFrom 0 ld == some sto, decide (((withAcc [atm]).core ((withAcc [atm]).handlerCore atm.va)).hq.length < 16),
       hit.wayOf 0x4000 == some line, !((withAcc [frn]).own.foreignBefore frn), (withAcc []).flw == false,
       ((withAcc [out]).core 0).accNo 0 == some out, !((withAcc [out]).own.waitsFor 0), !((withAcc [out]).own.holdsFor 0),
       (onCore 0 { coreOf [] with acc := [out], wait := .sent 0 }).own.waitsFor 0,
       (onCore 0 { coreOf [] with acc := [out], held := [{ dest := .reg 5#6, waits := [0] }] }).own.holdsFor 0]) = true := by decide +kernel

theorem witness_fills :
    (let line : Way := { w := 0, st := .pending, owner := 0#6, line := 0x100, data := 0#512 }
     let s : State := { withAcc [] with sets := [(setKey 0x4000, [line])] }
     let h : State := onCore 0 { coreOf [] with hq := [{ src := 0, acc := 1, amsg := false }], acc := [{
       n := 1, party := .ctl, kind := .atomic .add, home := .lm 0, key := lmKey 0 0x200, len := 8, st := .marker }] }
     let u : State := onCore 0 { coreOf [] with hq := [{ src := 0, acc := 1, amsg := true }] }
     all [s.wayOf (64 * 0x100) == some line, !(s.chanFailed (64 * 0x100)), (h.core 0).hq.length == 1, ((h.core 0).accNo 1).isSome,
       (u.core 0).hq.length == 1, u.homeLive (.lm (tileOf 0))]) = true := by decide +kernel

/-- A walk that succeeds and one that faults; a TLBINV before and after it removes; a CMO over one page. -/
theorem witness_walks :
    (let s : State := { (onCore 0xF00 { coreOf [] with mode := .station, xctx := 0x3FF#64 }).setDcw 0x051008
       (mkWord [(32, 1), (20, 1)]) with memCfg := true }
     let x : Maint := { tlbinv := true, form := 9, a := 0#64, b := 0#64, counter := none, waits := [], part := 0#6, ctx := 0#10,
                        mode := .hypervisor, word := 0#32 }
     let put (x : Maint) : State := onCore 0 { coreOf [] with maint := [x] }
     let c : Maint := { x with tlbinv := false, form := 4, a := 0x4000#64, b := 64#64 }
     all [(s.core 0xF00).run, (s.core 0xF00).holdDue.isNone, isOk (s.translate 0xF00 0#6 0x3FF#10 .station .read 0x4000).2,
       !(isOk ((st []).translate 0 0#6 0#10 .hypervisor .read 0x4000).2), ((put x).core 0).maint.find? (·.tlbinv) == some x,
       ((put { x with started := true }).core 0).maint.find? (·.tlbinv) == some { x with started := true },
       (((withAcc [{ n := 4, party := .ctl, kind := .store, home := .mem }]).core 0).accNo 4).isSome,
       ((put c).core 0).maint.find? (fun k => !k.tlbinv) == some c, decide (c.form < 8), decide (8 ≤ ({ c with form := 12 } : Maint).form)]) =
    true := by decide +kernel

/-- A packet that arrives at core 1, of each kind. -/
def packet (k : PktKind) : State :=
  { onCore 1 (coreOf []) with net := [{ n := 4, src := 0, dst := 1, part := 0#6, acc := 2, kind := k, bytes := List.replicate 64 0#8 }] }
    |>.setDcw 0x040000 (mkWord [(49, 16), (44, 4)])

theorem witness_packets :
    (let w : Wk := { wk with ent := 0, part := 0#6 }
     let msg := packet (.message 0 0#64 0#64 false)
     let may (s : State) : Bool := s.net.any s.mayArrive
     let ready (x : W64) : State := onCore 1 { coreOf [] with cls := [(0, x)] }
     let rdy := ready (mkWord [(63, 1), (59, 2)])
     let held : State := onCore 0 { coreOf [] with dir := [{ wk with st := .held }] }
     let h : W64 := mkWord [(32, 1), (20, 1)]
     all [may msg, (msg.arriveMsg 1 0 0 0#6 (List.replicate 64 0#8)).2 == 3, may (packet (.amsg 0 0#64 0#64 0#64)), may (packet (.credit 0 1 1)),
       may (packet (.rput 0#128 0 0#64 none false)), may (packet (.spawn w [])), may (packet (.tret 0#64 0#64 true)),
       (((packet (.spawn w [])).net.head?.map fun p => (((packet (.spawn w [])).dropPkt p).allocWk 1 w []).isSome)) == some true,
       bit (kget (rdy.core 1).cls 0 0#64) 63, (rdy.arriveMsg 1 0 0 0#6 (List.replicate 64 0#8)).2 == 0,
       (rdy.arriveMsg 1 0 0 0#6 []).2 == 2, (rdy.arriveMsg 1 0 0 1#6 []).2 == 4,
       (held.core 0).dir.any fun w => w.st == .held && w.wsid == BitVec.ofNat 16 (fld h 47 32) && w.gen == BitVec.ofNat 12 (fld h 31 20),
       (kfind (coreOf []).sb (wordKey 0 5)).isNone, kfind [(wordKey 0 5, Sb.armed)] (wordKey 0 5) == some .armed,
       !((packet (.spawn w [])).retired 1)]) = true := by decide +kernel

theorem witness_recruitment :
    (let f : State := { withAcc [] with net := [{ n := 4, src := 0, dst := 0, part := 0#6, acc := 2, kind := .fork wk 4 0#64 }] }
     let r : State := onCore 0 { coreOf [] with sendq := [(4, 0)] }
     let e : State := { withAcc [] with net := [{ n := 4, src := 1, dst := 0, part := 0#6, acc := 2, kind := .forwardEnd }] }
     all [f.net.any fun p => p.src == 0 && f.travels p && (match p.kind with | .fork _ _ _ => true | _ => false),
       (r.core 0).sendq.any fun q => decide (q.2 ≤ r.time.toNat), (r.core 1).sendq.isEmpty,
       e.net.any fun p => p.kind == .forwardEnd && p.dst == 0]) = true := by decide +kernel

/-- A core that waits with one ready actor and one queued; one that runs; the Station at a SWAIT. -/
theorem witness_turns :
    (let idle : State := onCore 0 { coreOf [] with run := false, dir := [{ wk with st := .queued, resumed := true }], runq := [{ pri := 3, ent := 1, since := 0#64 }] }
     let tick : State := onCore 0 { coreOf [] with run := false, dir := [{ wk with st := .idle }] }
     let i : Intr := { ent := 1, pc := 0#64, guard := {}, tpc := 0#64, tstat := 0#64, inl := [], held := [], parkDue := false
                       wait := .none, holdDue := none }
     let back : State := onCore 0 { coreOf [] with run := false, intr := [i] }
     let pri : State := onCore 0x800 { coreOf [] with dir := [wk, { wk with ent := 2, idx := 1, place := some 1, pri := 0, st := .queued, resumed := true }],
                                                      runq := [{ pri := 0, ent := 2, since := 0#64 }] }
     let late : State := { st [] with time := 10000000#64 }
     let swait : State := { onCore 0xF00 { coreOf [(2, 1#64)] with mode := .station, pc := 0x40#64 } with
       mem := memWriteN [] (stationKey 0x40) (toBytes 4 (encode (.swait false 1#6 2#6 3#6)).toNat) }
     let u : State := { swait with mover := { core := 0xF00, strm := .ctl } }
     all [!(idle.core 0).run, !(idle.core 0).halted, !(isStation 0), (idle.moveTarget 0).isNone, (idle.pickStart 0 (idle.core 0).queue).isSome,
       (tick.core 0).dir.any fun w => w.wsid.toNat == 1, (back.pickStart 0 ((back.core 0).runq.filter (·.pri == 0))).isNone,
       (pri.core 0x800).run, (pri.core 0x800).curWk == some wk, (pri.pickStart 0x800 ((pri.core 0x800).runq.filter (·.pri == 0))).isSome,
       (late.core 0).curWk == some wk, (late.core 0).holdDue.isNone, decide (100 * fld (late.core 0).wdog 15 0 < (late.time - (late.core 0).started).toNat),
       fld (late.core 0).wdog 15 0 != 0,
       (match decode (BitVec.ofNat 32 (ofBytes (memReadN swait.mem (stationKey 0x40) 4))) with
         | .ok i => i == .swait false 1#6 2#6 3#6
         | .error _ => false),
       u.ctlReady { least := .station, names := [1#6, 2#6, 3#6], reads := [1#6, 2#6] }, decide ((swait.reg 0xF00 2#6).toNat < 256)]) = true := by
  decide +kernel

/-- A device of one live channel; a Grove tile whose cores ask for points; a tile too warm, and one that was slowed. -/
theorem witness_power :
    (let s : State := (st []).setDcw 0x051008 (mkWord [(32, 1), (20, 1)])
     let warm : State := (st []).setDcw 0x0E0008 (mkWord [(24, 100), (16, 90), (8, 80), (0, 2)])
     let slow : State := { warm with throt := [(4, 1)] }
     let asleep : State := { st [] with clusters := [(5, { ret := .retained })] }
     all [s.liveChannel 0, decide (85 < (86#8 : BitVec 8).toInt), decide ((82#8 : BitVec 8).toInt ≤ 82), decide (¬ (83#8 : BitVec 8).toInt ≤ 82),
       isGrove 4, (s.clu (clusterOf 4)).seized.isNone, kget s.throt 4 0 == 0,
       (let now := temp8 (fld ((warm.sample 4 (90#64 <<< 8)).cw 4 0x900) 7 0); decide (now ≤ 90)),
       (let now := temp8 (fld ((warm.sample 4 (91#64 <<< 8)).cw 4 0x900) 7 0); decide (90 < now ∧ now ≤ 100)),
       (let now := temp8 (fld ((warm.sample 4 (101#64 <<< 8)).cw 4 0x900) 7 0); decide (100 < now)), !((warm.sample 4 (101#64 <<< 8)).stopped.contains 4),
       decide (0 < kget slow.throt 4 0), decide (temp8 (fld (slow.cw 4 0x900) 7 0) ≤ (90 : Int) - 2), (s.clu 5).ret == .active,
       (asleep.clu 5).ret != .active]) = true := by decide +kernel

/-- A copy of one unit in a FIFO, in flight with its unit translated, its end, with a notice and without. -/
theorem witness_dray :
    (let recs : List W64 := [0x1000_0000_0000_0200#64, 0x1000_0000_0000_0400#64, 0#64, 0x3F#64]
     let e : EngCmd := { fn := 0, recs := recs }
     let x : Copy := { cmd := e, sq := 0, total := copyTotal recs, xl := 1 }
     let q : State := onCore 0 { coreOf [] with fifo := [e] }
     let f : State := onCore 0 { coreOf [] with copies := [x] }
     let r := f.copyTo 0 x (0 + 1 - x.xl)
     let t := r.1.updCore 0 fun c => c.putCopy r.2
     let d : Copy := { x with units := [0] }
     let n : Copy := { d with cmd := { e with recs := recs.set 3 (1#64 <<< 37) } }
     all [(q.core 0).fifo == [e], decide ((q.core 0).copies.length < 1024), (f.core 0).copies.find? (·.sq == 0) == some x, x.told == false,
       decide (0 < x.total), decide (0 < r.2.total), r.2.cmd.unit 0 == some (0, 0, 64), cpSync recs == none,
       t.homeLive (t.copyHome r.2 0 true (cpDst recs 0)).1, t.homeLive (t.copyHome r.2 0 false (cpSrc recs 0)).1,
       ((t.unitTouch r.2 0 (cpSrc recs 0) 64).2).isNone, !x.quiet, d.quiet, d.cause.isNone, !(bit (rw d.cmd.recs 3) 37), bit (rw n.cmd.recs 3) 37]) = true := by
  decide +kernel

/-- Markers at the heads of the queues; a lease to grant; a command to accept, one with a step to stage, one staged, one of the
Wain's own. -/
theorem witness_wain :
    (let mk : EngCmd := { fn := fnMarker, recs := [0#64] }
     let q : State := onCore 0 { coreOf [] with qm := [mk], qe := [mk] }
     let ask : State := { st [] with clusters := [(0, { waiters := [{ core := 0, spec := 0xF#64, tag := 0 }] })] }
     let recs : List W64 := [0x1000_0000_0000_0200#64, 0x1000_0000_0000_1000#64, 0x0000_0001_0000_0001#64, 64#64 <<< 40 ||| 64#64 <<< 16, 0#64]
     let cmd : EngCmd := { fn := fnWmma, recs := recs, fmt := { a := 10#5, b := 15#5, acc := 1#2 } }
     let accept (e : EngCmd) : State := { onCore 0 { coreOf [] with qm := [e] } with clusters := [(0, {
       lease := some { core := 0, cmds := 2, until_ := 0#64 } })] }
     let found (e : EngCmd) : Bool := ((accept e).cores.find? fun x => match x.2.qm with
       | e :: _ => (accept e).mayAccept 0 x.1 e
       | [] => false).isSome
     let w : WCmd := { core := 0, cmd := cmd, index := 0 }
     let has (w : WCmd) : Cluster := { wain := [w] }
     let full : WCmd := { w with staged := cmd.steps.map fun k => (k, []) }
     all [(q.core 0).qm == [mk], (q.core 0).qe == [mk], (q.leaseOf 0).isNone, (ask.clu 0).lease.isNone, (ask.nextGrant 0).isSome,
       ((accept cmd).clu 0).lease.isSome, found cmd, found { cmd with fn := fnWfmt }, found { cmd with fn := fnWretry }, (has w).active == some w,
       w.nextStep == some 0, clsOf (w.cmd.stepAddr 0) == 1, full.nextStep.isNone, !full.stopped, !full.internal,
       (has { full with internal := true }).active.isSome]) = true := by decide +kernel

/-- A Tender command to take, and one taken. -/
theorem witness_tender :
    (let recs : List W64 := [0x4000#64, 0#64, 0x0000_0001_0000_0001#64, 11#64 <<< 35, 0#64]
     let e : EngCmd := { fn := fnTepi, recs := recs, fmt := { a := 10#5, b := 15#5, acc := 1#2 } }
     let s : State := onCore 0 { coreOf [] with qe := [e] }
     let t : TCmd := { core := 0, cmd := e }
     let u : State := { s with clusters := [(0, { tender := [t] })] }
     all [(s.clu 0).tender.isEmpty, (s.clu 0).ret == .active, (s.tepiNext 0).isSome, (u.clu 0).tender == [t], t.cause.isNone,
       (tpSpans t.cmd.recs).all fun x => clsOf x.1 == 0, e.tiles.all (· < 16), (u.clu 0).lease.isNone]) = true := by decide +kernel

/-- Locked SRAM of partition 0 with an aperture for function 0; object 0 mapped to it both ways, reserved, pinned. -/
def hosted (o : Obj) : State :=
  let s := (withObj (st [])).setDcw 0x041000 (mkWord [(63, 1), (16, 1)])
  { (s.setDcw 0x0E8000 (mkWord [(63, 1), (32, 1)])).setDcw 0x080000 (mkWord [(31, 1), (30, 1), (29, 1)]) with objs := [(0, o)] }

theorem witness_host :
    (let s := hosted {}
     let r := hosted { slots := [(1, .reserved)], resv := some (1, .fn 0) }
     let p := hosted { slots := [(0, .committed 3 9#64 false)], version := 3, valid := true, pins := [(.fn 0, 0, 3)] }
     all [(s.apertureOf 0 0 8).isSome, (s.apertureOf 0 4096 8).isNone, !(s.w2Maps 0 0x3000000 8 true), s.mappedPub 0 0 == some 0, s.mappedSub 0 0 == some 0,
       (s.mappedPub 0 1).isNone, (s.mappedSub 0 1).isNone, (r.obj 0).resv == some (1, .fn 0), (s.obj 0).resv.isNone,
       (p.obj 0).pinBy 0 == some (0, 3), (s.obj 0).pinBy 0 == none, kfind (p.obj 0).slots 0 == some (.committed 3 9#64 false),
       decide (8 ≤ objSize (p.objCfg 0))]) = true := by decide +kernel

theorem witness_queue_words :
    (let s : State := { st [] with w1 := [(1, 1#64 <<< 63)], firm := { rdy := true } }
     let taken : State := { s with qslots := (List.range 256).map fun k => (k, mkWord [(63, 1), (52, 5)]) }
     let m : Acc := { n := 0, party := .ctl, kind := .mreadv, home := .mbm, data := 1#64, cmp := 0#64 }
     let w : State := { withAcc [m] with objs := [(0, { version := 0 })] }
     let f : State := { (withObj (st [])).setDcw 0x060000 (mkWord [(63, 1), (62, 1), (44, 2), (39, 2), (0, 64)]) with flw := true }
     all [bit (kget s.w1 1 0#64) 63, s.firm.rdy, (kfind s.resets 0).isNone, (List.range 256).all fun k => !(s.slotMaps k 0 0), s.freeSlot.isSome,
       !(bit (kget (st []).w1 1 0#64) 63), (List.range 256).all fun k => !(taken.slotMaps k 0 0),
       ({ s with pendAt := [(0, 5)] } : State).pendAt == [(0, 5)], (w.core 0).accNo 0 == some m, decide ((w.obj 0).version < m.data.toNat),
       (w.core 0).mayPerform 0 m, f.flw, objEn (f.objCfg 0), bit (f.objCfg 0) 62, ((f.obj 0).pubSlot (objSlots (f.objCfg 0))).isSome]) = true := by
  decide +kernel

/-- The slot table at its first edge, in its guard, with a handover due, in lost time, and idle; a seized cluster past its
bound; a team whose workspaces may go. -/
theorem witness_slots :
    (let s : State := (st []).setDcw 0x078000 (mkWord [(63, 1), (49, 1), (35, 400), (31, 1)])
     let begun : State := { s with slot := { s.slot with begun := true, holder := some 0 } }
     let due : State := { begun with slot := { begun.slot with pend := some (some 1, false) } }
     let lost : State := { begun with slot := { begun.slot with debtEnd := some 5#64 } }
     let idle : State := { begun with time := 20000#64 }
     let lent : State := { st [] with clusters := [(3, { seized := some 0 })], time := 1000000#64 }
     let x : Team := { lead := (0, 1#16), part := 0#6, fn := 0, arr := false, actors := [(0, 1#16)], lm := [], wb := [], ab := [], barCnt := 0
                       bars := [], noDone := true }
     let done : State := { onCore 0 { coreOf [] with dir := [] } with teams := [(1, x)] }
     all [s.slotEn, decide (s.edgeTime ≤ s.time.toNat), decide (begun.time.toNat < begun.edgeTime), due.slot.pend == some (some 1, false),
       begun.slot.guardSeen == false, lost.slot.debtEnd.isSome, !idle.commonActive, decide (10000 ≤ (idle.time - idle.slot.idleSince).toNat),
       idle.slot.holder.isSome, idle.slot.pend.isNone, decide (idle.time.toNat + idle.slotGuard + 4000 ≤ idle.edgeTime), (lent.clu 3).seized.isSome,
       decide (fld (lent.dcw 0x078000) 30 23 * 100 ≤ (lent.time - (lent.clu 3).seizedAt).toNat), done.teamDone 1 x, done.graphs.isEmpty,
       done.pendAt.isEmpty]) = true := by decide +kernel

/-- A team named by its lead: free to be asked for, stopping and stopped, drained. -/
theorem witness_preemption :
    (let s := teamed 2
     let v : W64 := mkWord [(32, 1)]
     let x := setFld (setFld v 63 63 1) 62 61 2
     let y : Option Team := kfind s.teams 1
     let status (k : TeamSt) (b : W64) : State := { onCore 0 { coreOf [] with dir := [] } with
       teams := s.teams.map fun t => (t.1, { t.2 with st := k }), pre := { status := b, team := 1, at_ := 0#64 } }
     let busy := status (.stopping 1) (1#64 <<< 63)
     all [bit s.pre.status 63 == false, (s.teamOf x).isSome, (s.teamOf (setFld x 59 48 5)).isNone, v &&& 0x7000_0000_FFFF_FFFF#64 == 0#64,
       bit busy.pre.status 63, (match kfind busy.teams 1 with | some t => busy.preReached 1 t 1 | none => false),
       (match kfind s.teams 1 with | some t => !(s.preReached 1 t 1) | none => false), fld busy.pre.req 31 0 == 0,
       ((status .drained 0#64).teamOf x).map (·.2.st) == some .drained,
       (match y with
         | some t => (s.estimate 1 t false 1).isSome && (s.estimate 1 t true 1).isNone && (s.estimate 1 t false 2).isNone
         | none => false),
       ({ s with resets := [(3, 0)] } : State).pendAt.isEmpty, s.migState 5 == 0#3, ({ s with migr := [(5, 3#3)] } : State).migState 5 == 3#3]) = true := by
  decide +kernel

/-- The follower past its bound, and a device whose link is up. -/
theorem witness_link :
    (let f : State := { st [] with flw := true, time := 4000000#64 }
     let u : State := { st [] with up := true, firm := { rdy := true, boot := 1#3 }, time := 100000#64 }
     all [f.flw, !f.hbTold, decide (3000 < (f.time - f.hbAt).toNat / 1000), u.up, !u.flw, u.firm.rdy, decide (100000 ≤ (u.time - u.hbSent).toNat),
       u.firm.boot == 1#3]) = true := by decide +kernel

/-- Control words: a value each word takes, and one that its check refuses. -/
theorem witness_control_space :
    (let s := st []
     let en : State := s.setDcw 0x060000 (mkWord [(63, 1), (44, 2), (39, 2), (0, 64)])
     all [s.sramOk 0x041000 0#64, !(s.sramOk 0x041000 (mkWord [(63, 1), (16, 609)])), s.dramOk 0x050000 1024#64, !(s.dramOk 0x050000 1025#64),
       s.ivalOk 0x046000 (mkWord [(63, 1), (16, 0x800)]), !(s.ivalOk 0x046000 (mkWord [(63, 1), (16, 0x801)])), s.windowOk 0 0x1000 0#64,
       !(s.windowOk 0 0x1000 (1#64 <<< 63)), s.apertureOk 0x0E8000 0#64, !(s.apertureOk 0x0E8000 (mkWord [(63, 1), (32, 1)])),
       !(objEn (s.dcw 0x060000)), objEn (en.dcw 0x060000), !(en.objBusy none 0), !(s.retired 0), s.memCfg == false, (ctlMap 5 0x2000).isNone,
       !(isCw 5 0x2000), !(isAccum 5 0x2000), !(isEntry 5 0x2000), (s.obj 0).resv.isNone,
       decide (inArr 0x046000 0x046000 8 128 ∧ inArr 0x078058 0x078040 8 4 ∧ inArr 0x1018 0x1000 8 4)]) = true := by decide +kernel

/-! ### Witnesses of `WordsComplete`, and of the clauses that other statements gained -/

theorem witness_complete_hints : all [(st []).mover.strm == .ctl, (st []).own.guard.rem == 0,
    (st []).ctlReady { names := [60#6 + 3#6] }] = true ∧ (60#6 : R6).toNat + (3#6 : R6).toNat ≤ 63 := by decide +kernel

/-- An address of 16 bytes in the LM that the partition may use and no range covers. -/
theorem witness_complete_atomics :
    (let s := lm
     let u := s.took [1#6, 2#6]
     let v := s.took [1#6, 2#6, 6#6]
     let va := s.reg 0 1#6
     all [s.ctlReady { long := true, names := [6#6, 1#6, 2#6], reads := [1#6, 2#6] },
       s.ctlReady { long := true, names := [6#6, 1#6, 2#6], reads := [1#6, 2#6, 6#6] }, clsOf va == 1, va.toNat % 16 == 0,
       (u.checkClass 0 s.own.part s.own.mode .thread true va 8).isNone, (v.checkClass 0 s.own.part s.own.mode .thread true va 4).isNone,
       !(s.own.rangeHit va 8 true), decide (s.own.out < 4096), !(u.relBlocked 0 (u.homeOf va).1 (u.homeOf va).2)]) = true := by
  decide +kernel

/-- An object that the firing may use, and one that is not enabled. -/
theorem witness_complete_mailbox :
    (let s := withObj (st [(1, 0#64)])
     all [(s.objCheck s.own.part s.own.mode 0).isNone, ((st []).objCheck (st []).own.part (st []).own.mode 0).isSome, !s.own.relFull]) =
    true := by decide +kernel

theorem witness_complete_copy :
    (let s := copies id
     let r := s.block 0 4#6 4
     let u := s.took (blockRegs 4#6 4)
     let x := cpSrc r 0
     let y := cpDst r 0
     all [!(cpBad r), cpSync r == none, !(bit (rw r 3) 33), cpRows r == 1, decide (clsOf x < 9 ∧ clsOf y < 9), u.wellFormed x (cpLen r),
       u.wellFormed y (cpLen r), (u.checkRow 0 x (cpLen r) false).isNone, !(u.unpinned 0 x), (u.checkRow 0 y (cpLen r) true).isNone,
       !(rowsMeet x y (cpLen r)), s.own.rlk.isEmpty, s.own.fifo.isEmpty]) = true := by decide +kernel

theorem witness_complete_lease :
    (let s := st [(6, 0xFFFF#64)]
     let u := s.took [4#6]
     all [s.ctlReady { array := true, names := [4#6, 3#6], reads := [4#6] }, (u.checkLease 0 (s.reg 0 4#6)).isNone,
       (u.clu 0).seized.isNone, (u.clu 0).lease.isNone, (u.clu 0).waiters.isEmpty,
       s.ctlReady { array := true, names := [6#6], reads := [6#6] }]) = true := by decide +kernel

/-- The tags of the commands in the witnesses above ask for no counter; the command queues and the lock table have room. -/
theorem witness_complete_commands : all [tagBad 0#64 false == false, bit 0#64 14 == false,
    decide ((leased [] {}).own.qm.length < 16), decide ((leased [] {}).own.rlk.length + 2 ≤ 128),
    decide ((leased [] {}).own.qe.length < 16)] = true := by decide +kernel

theorem witness_complete_traps :
    (let s := st [(1, 5#64)]
     all [s.ctlReady { names := [1#6], reads := [1#6] }, s.own.mode != .station, s.own.wait == .none, !(bit s.own.tstat 63),
       s.own.curWk == some wk, wk.trap != 0#64, s.ctlReady { least := cwReadMode 1, names := [1#6] },
       ((s.took []).cwRead 0 1).isSome]) = true := by decide +kernel

theorem witness_complete_seizure :
    (let s := clearing [(8, 3#64)]
     let u := s.took [8#6, 9#6]
     let had : State := { s with clusters := [(0, { seized := some 0 })] }
     let cs := maskClusters (s.reg 0x800 8#6) (s.reg 0x800 (pairHi 8#6))
     let common := (clearing []).setDcw 0x078040 (mkWord [(63, 1), (16, 1), (0, 0x800)])
     all [isClearing 0x800, cs == [0, 1], u.devState != 2, cs.all (u.lendable 0), cs.all fun c => (u.clu c).seized.isNone,
       had.seizedBy 0 0, !(had.clearingWork 0), (common.took []).isCommon 0x800, common.slot.holder == some common.own.part.toNat,
       common.ctlReady { least := .partition }]) = true := by decide +kernel

/-- A ring entry to fetch, signals to take, a record to dispatch, and a completion entry to post. -/
theorem witness_complete_station :
    (let s := stationed [(1, 0x4000#64), (2, 0#64), (3, 0x6000_0000_0000_0040#64)] 1#64
     let w := (s.took [1#6, 2#6]).check 0xF00 { acc := .write, n := 64, align := 64 } (s.reg 0xF00 1#6)
     let r := (s.took [3#6, 2#6]).check 0xF00 { acc := .read, n := 16, align := 8 } (s.reg 0xF00 3#6)
     let t : Target := match r.2 with | .ok t => t | .error _ => { home := .mem, key := 0 }
     all [!w.1.hostBad, !(w.1.ringEmpty 0), !((w.1.core 0xF00).stillOut .mem 0x4000 64), !((r.1.core 0xF00).stillOut t.home t.key 16),
       !(r.1.cqFull (r.1.slotFn 0) (r.1.slotQi 0)), (r.1.stationRead 0xF00 t 16).2.isSome, !((r.1.stationRead 0xF00 t 16).1.hostBad),
       ({ s with signals := 1#8 }.took [1#6, 2#6]).signals == 1#8,
       (match ((s.took [3#6, 2#6]).stationRecord 0xF00 0x6000_0000_0000_0040#64).2 with | some (some _) => true | _ => false)]) = true := by
  decide +kernel

/-- A hit that allocates, in a way without an error; a copy unit alone in its port word; an edge with no seizure to end; a
notify whose bound was not told; an entry that is ready. -/
theorem witness_more :
    (let mem : Acc := { n := 1, party := .ctl, kind := .load, va := 0x4000#64, home := .mem, key := 0x4000, len := 8 }
     let line : Way := { w := 0, st := .clean, owner := 0#6, line := 0x100, data := 5#512 }
     let hit : State := { (withAcc [mem]).setCw 0xC00 0 1#64 with sets := [(setKey 0x4000, [line])] }
     let way := hit.checkWay 0x4000
     let recs : List W64 := [0x1000_0000_0000_0200#64, 0x1000_0000_0000_0400#64, 0#64, 0x3F#64]
     let x : Copy := { cmd := { fn := 0, recs := recs }, sq := 0, total := copyTotal recs, xl := 1 }
     let f : State := onCore 0 { coreOf [] with copies := [x] }
     let en : State := (st []).setDcw 0x078000 (mkWord [(63, 1), (49, 1), (35, 400), (31, 1)])
     let told : State := { (st []).setDcw 0x045000 5#64 with pendAt := [(0, (0, false))], time := 6000#64 }
     all [(way.takeLost 0x4000).isNone, way.wayOf 0x4000 == some line, !((way.counted 0x4000 0#6 true).noAlloc 0#6 0#10 false 0x4000),
       x.cmd.portMates 0 == [0], (f.unitAsleep x 0 0 64).isNone,
       en.slotEn, en.endCedes == en, kfind told.pendAt 0 == some (0, false), decide (0 + 1000 * fld (told.dcw 0x045000) 31 0 < told.time.toNat)]) =
    true := by decide +kernel

theorem witness_entry_ready :
    (let s : State := { st [] with nops := [(1, { fn := 0 })] }
     kfind s.nops 1 == some { fn := 0 } && (s.entryReady { fn := 0 }).2) = true := by decide +kernel

/-! ### Witnesses of the clauses about what waits, what is refused, and where errors are met -/

/-- A sequencer whose word does not decode; cores whose clock runs and stands; an END whose ports can be read. -/
theorem witness_streams :
    (let v : State := { sq [] with mem := memWriteN [] (lmKey 0 0x400) (toBytes 4 0) }
     let x := v.seqEnter 0
     all [!(x.coreStopped 0), (match x.fetchWord 0 (x.core 0).seq.vpc with | (_, .ok w) => w == 0#32 | _ => false),
       decodeTableWord 32 0 == none, !((runs 0x282).coreStopped 0), ({ st [] with stopped := [0] } : State).coreStopped 0,
       (((st []).took []).portFault 0).2.isNone]) = true := by decide +kernel

/-- A class 0x0 access that translates; vector accesses with an element that fails; an atomic that fails its check. -/
theorem witness_access_faults :
    (let s : State := { (onCore 0xF00 { coreOf [] with mode := .station, xctx := 0x3FF#64 }).setDcw 0x051008
       (mkWord [(32, 1), (20, 1)]) with memCfg := true }
     let bad : W64 := 0x1000_0000_0000_0201#64
     let at_ : List (Nat × W64) := (List.range 8).map fun i => (i, bad + BitVec.ofNat 64 (i * 8))
     let fails (a : XAcc) (c : Bool) : Bool := ((sq []).checkElems 0 a 8 c at_).2.2.isSome
     all [isOk (s.check 0xF00 { acc := .read, n := 8, align := 8 } 0x4000#64).2, (s.walkc).isEmpty, (st []).sets.isEmpty, (st []).own.acc.isEmpty,
       fails .read true, fails .read false, fails .write true, fails .write false,
       !(isOk (lm.check 0 { acc := .atomic, n := 8, align := 8 } bad).2),
       clsOf 0x5000_0000_0000_0000#64 == 5, clsOf 0x8000_0000_0000_0000#64 == 8]) = true := by decide +kernel

/-- Waits: counters that may be read, and one out of line; BAR.G: records that pass and fail their check, and a record
whose home takes it and one whose cluster is in retention. -/
theorem witness_waits_and_barriers :
    (let u := lm.took [1#6, 2#6]
     let one : Want := { acc := .read, n := 8, align := 8, only := fun k => k == 0 || k == 1 || k == 6 }
     let pair : Want := { acc := .read, n := 16, align := 16, only := fun k => k == 1 }
     let s := teamed 1
     let b : BarArr := { core := 0, tag := 0, evs := [], rec_ := some 0x1000_0000_0000_0200#64, ctx := 0#10, mode := .hypervisor }
     let asleep : State := { s with clusters := [(0, { ret := .retained })] }
     all [isOk (u.check 0 one (lm.reg 0 1#6)).2, isOk (u.check 0 pair (lm.reg 0 1#6)).2, !(isOk (u.check 0 one 0x1000_0000_0000_0204#64).2),
       !(isOk (u.check 0 pair 0x1000_0000_0000_0208#64).2), u.homeReady 0#6 (.lm 0) (lmKey 0 0x200) 16,
       ((s.took [1#6]).checkRecord 0 0x1000_0000_0000_0204#64).2.isSome, (s.recordWaits 0#6 [b]).isNone,
       (asleep.recordWaits 0#6 [b]).isSome]) = true := by decide +kernel

/-- FORK and JOIN: a cell that passes its check; no share; G of 0; an inline child; a reply for either end. -/
theorem witness_fork_join :
    (let cell (t g : Nat) : State := { homely [(1, 0x1000_0000_0000_0200#64), (2, 0x1000_0000_0000_0300#64)] with
       mem := memWriteN [] (lmKey 0 0x200) (toBytes 8 0 ++ toBytes 8 0x1000_0000_0000_0400 ++ toBytes 8 t ++ toBytes 8 g) }
     let f := cell 16 4
     let v := f.took [1#6, 2#6]
     let t : Target := { home := .lm 0, key := lmKey 0 0x200 }
     let back (x : W64) : State := onCore 0 { coreOf [(1, 0x1000_0000_0000_0200#64), (2, 5#64)] with wait := .got x 0#64 }
     let child : State := onCore 0 { coreOf [] with inl := [0x1000_0000_0000_0300#64] }
     all [isOk (v.check 0 { acc := .write, n := 32, align := 32, only := fun k => k == 1 } (f.reg 0 1#6)).2,
       v.homeReady 0#6 (.lm 0) (lmKey 0 0x200) 32, (v.core 0).mayWrite 0 (.lm 0) (lmKey 0 0x200) 8,
       (v.eccSpan (lmKey 0 0x210) 16).2.isNone, (v.eccSpan (lmKey 0 0x208) 8).2.isNone, (v.portFault 0).2.isNone,
       (cell 16 0).cellWord t 3 == 0#64, (cell 0 4).cellWord t 2 == 0#64, !child.own.inl.isEmpty, child.own.wait == .none,
       (st []).reg 0 2#6 == 0#64, !(v.relBlocked 0 (.lm 0) (lmKey 0 0x200)),
       (back 5#64).own.wait == .got ((back 5#64).reg 0 2#6) 0#64, (back 4#64).own.wait != .got ((back 4#64).reg 0 2#6) 0#64,
       ((back 5#64).took [1#6, 2#6]).own.seqDone]) = true := by decide +kernel

/-- A core with a lease, and one whose qms is full. -/
theorem witness_markers :
    (let full : State := onCore 0 { coreOf [] with qms := List.replicate 16 0#64 }
     let mk : EngCmd := { fn := fnMarker, recs := [0#64] }
     let late : State := onCore 0 { coreOf [] with qm := [{ fn := fnWnorm }, mk] }
     all [((leased [] {}).leaseOf 0).isSome, decide (16 ≤ full.own.qms.length), (full.leaseOf 0).isNone,
       (late.own.qm == [{ fn := fnWnorm }] ++ mk :: []), (late.leaseOf 0).isNone, fnWnorm != fnMarker,
       decide (late.own.qms.length < 16)]) = true := by decide +kernel

/-- Control words: modes that may and may not; a resident workspace; bits in and out of each mask. -/
theorem witness_control_word_rules :
    (let s := st []
     let low : State := onCore 0 { coreOf [] with mode := .firing }
     let stn : State := onCore 0xF00 { coreOf [] with mode := .station }
     all [s.ctlReady { least := .firing, names := [1#6] }, s.ctlReady { least := .partition, park := true, names := [1#6], reads := [1#6] },
       stn.ctlReady { least := .station, names := [1#6], reads := [1#6] }, low.mover.strm == .ctl,
       decide (modeCode low.own.mode < modeCode .partition), s.own.wkAt 0 == some wk, (s.own.wkAt 1).isNone,
       fld 0x1_8000#64 16 9 == 0xC0, 0x1_8000#64 &&& (bits 44 17 ||| bits 8 0) == 0#64,
       fld 0xA#64 3 0 == 10, fld 0x9#64 3 0 == 9, fld (3#64 <<< 59) 61 59 == 3, fld (2#64 <<< 59) 61 59 == 2]) = true := by decide +kernel

/-- An access whose home sleeps; an MREADV that does not wait; increments that a home takes and that wait; a counter that
translates and one that does not. -/
theorem witness_homes :
    (let ld : Acc := { n := 1, party := .ctl, kind := .load, va := 0x1000_0000_0000_0200#64, home := .lm 0, key := lmKey 0 0x200, len := 8 }
     let up := withAcc [ld]
     let asleep : State := { up with clusters := [(0, { ret := .retained })] }
     let y : CtrAdd := { core := 0, op := none, part := 0#6, ctx := 0#10, mode := .hypervisor, owner := {}, eng := 0#2, word := 0#32
                         ctr := { home := .lm 0, key := lmKey 0 0x200, va := 0x1000_0000_0000_0200#64 } }
     let s : State := { (onCore 0xF00 { coreOf [] with mode := .station, xctx := 0x3FF#64 }).setDcw 0x051008
       (mkWord [(32, 1), (20, 1)]) with memCfg := true }
     all [(asleep.core 0).mayPerform 0 ld, !(asleep.homeLive ld.home), up.homeReady ld.part ld.home ld.key ld.span, !(up.objWaits 0 ld),
       up.homeReady y.part y.ctr.home y.ctr.key 8, !(asleep.homeReady y.part y.ctr.home y.ctr.key 8), (up.eccSpan y.ctr.key 8).2.isNone,
       !(isOk (up.translate 0 0#6 0#10 .hypervisor .drayWrite 0x4000).2), isOk (s.translate 0xF00 0#6 0x3FF#10 .station .drayWrite 0x4000).2]) =
    true := by decide +kernel

/-- A class bound to a buffer of four units: empty, full, and with room at its start alone; one whose descriptor is out of
line; one of another partition. -/
theorem witness_buffers :
    (let buf (head tail used : Nat) : State :=
       { onCore 1 { coreOf [] with cls := [(0, mkWord [(63, 1), (59, 1), (0, 0x400)]), (1, mkWord [(63, 1), (59, 1), (0, 0x401)])] } with
         mem := memWriteN [] (lmKey 0 0x400) (toBytes 8 (mkWord [(17, 4), (0, 0x800)]).toNat ++
           toBytes 8 (mkWord [(32, used), (16, tail), (0, head)]).toNat) }
     let one := List.replicate 56 0#8
     let two := List.replicate 120 0#8
     let st_ (s : State) (cls : Nat) (p : BitVec 6) (b : List Byte) : Nat := (s.arriveMsg 1 cls 0 p b).2
     all [st_ (buf 0 0 0) 0 0#6 one == 0, st_ (buf 2 3 1) 0 0#6 two == 0, st_ (buf 0 0 4) 0 0#6 one == 1, st_ (buf 0 0 0) 0 0#6 (List.replicate 248 0#8) == 2,
       st_ (buf 0 0 0) 1 0#6 one == 3, st_ (buf 0 0 0) 0 1#6 one == 4, !((buf 0 0 0).bufClosed 0 0x400)]) = true := by decide +kernel

/-- A core in a retained cluster with an actor to start; a cluster that is being initialised again; a seized tile. -/
theorem witness_retention :
    (let idle : State := { onCore 0 { coreOf [] with run := false, dir := [{ wk with st := .queued, resumed := true }], runq := [{ pri := 3, ent := 1, since := 0#64 }] } with
       clusters := [(0, { ret := .retained })] }
     let re : State := { st [] with clusters := [(5, { ret := .reinit })] }
     let had : State := { st [] with clusters := [(0, { seized := some 3 })] }
     all [idle.startWakes 0, !(idle.core 0).run, (re.clu 5).ret == .reinit, (had.clu (clusterOf 4)).seized.isSome, kget had.throt 4 0 == 0]) =
    true := by decide +kernel

/-- A copy that counts into a sync word, whose target is 64 bytes; its unit is alone in its port word. -/
theorem witness_copy_counts :
    (let recs : List W64 := [0x1000_0000_0000_0200#64, 0x1000_0000_0000_0400#64, 0#64, 1#64 <<< 38 ||| 0x3F#64]
     let x : Copy := { cmd := { fn := 0, recs := recs }, sq := 0, total := copyTotal recs, xl := 1 }
     let s : State := onCore 0 { coreOf [] with copies := [x] }
     all [x.cmd.unit 0 == some (0, 0, 64), decide (0 < x.total), x.units.isEmpty, x.cmd.unit 1 == none, cpSync recs == some 0x1000_0000_0000_0000#64, (s.eccSpan (lmKey 0 0) 16).2.isNone,
       x.cmd.portMates 0 == [0], ((0 : Nat) ∈ x.cmd.portMates 0 : Bool)]) = true := by decide +kernel

/-- W2 of locked SRAM: an access in an aperture, one of its mirrored part, one outside; reads of the words of an object that
its map names, and of W1. -/
theorem witness_window_reach :
    (let s := hosted {}
     let m := s.setDcw 0x0E8000 (mkWord [(63, 1), (62, 1), (32, 1)])
     let p := hosted { slots := [(0, .committed 3 9#64 false)], version := 3, valid := true, pins := [(.fn 0, 0, 3)] }
     let r := hosted { slots := [(1, .reserved)], resv := some (1, .fn 0) }
     let o (k : Nat) := 0x4000000 + k
     all [s.holdsSram (s.fnPart 0).toNat 0 8, bit (m.dcw 0x0E8000) 62, (s.eccSpan (6 * 2 ^ 60) 8).2.isNone, s.w2Maps 0 (o 0x10000) 8 false,
       !(s.w2Maps 0 (o 0x10004) 4 false), !(s.w2Maps 0 (o 0x10000) 4 false), s.w2Maps 0 (o 0x10008) 8 true, !(s.w2Maps 0 (o 0x1000C) 4 true),
       s.w2Maps 0 (o 0x10020) 8 true, p.w2Maps 0 (o 0) 64 false, !(p.w2Maps 0 (o 1) 64 false), r.w2Maps 0 (o 63) 1 true, !(r.w2Maps 0 (o 64) 1 true),
       (r.obj 0).resv == some (1, .fn 0), objSize (r.objCfg 0) == 64, s.w1Read 0 24 == some 0#64]) = true := by decide +kernel

/-- An edge that finds its holder unchanged and one that does not; lost time with a donee; an interval that waits for a
firing; ranges to be zeroised; a guard. -/
theorem witness_edges :
    (let s : State := (st []).setDcw 0x078000 (mkWord [(63, 1), (49, 1), (35, 400), (31, 1)])
     let cm := (s.setDcw 0x078040 (mkWord [(63, 1), (16, 16), (0, 0)])).setDcw 0x078100 (mkWord [(63, 1), (62, 1)])
     let begun : State := { cm with slot := { cm.slot with begun := true, holder := some 0 } }
     let other : State := { begun with slot := { begun.slot with holder := some 3 } }
     let poor : State := begun.setDcw 0x047000 (mkWord [(0, 50)])
     let busy : State := { begun with slot := { begun.slot with pend := some (none, false) } }
     let idle : State := { busy with cores := [] }
     let zero : State := { begun with slot := { begun.slot with zero := [(lmKey 0 0, lmKey 0 0x1000)], holder := none } }
     let free : State := { zero with cores := [] }
     let due : State := { begun with slot := { begun.slot with due := [0] } }
     let ready : State := { due with cores := [] }
     all [s.slotEn, cm.slotOwner cm.nextEntry == some 0, begun.nextHolder == begun.slot.holder, other.nextHolder != other.slot.holder,
       decide (0 < poor.lostTime poor.nextEntry), poor.nextHolder.isNone, busy.slot.pend == some (none, false),
       busy.commonCores.any fun l => (busy.core l).busy, !(idle.commonCores.any fun l => (idle.core l).busy), begun.slot.due.isEmpty,
       begun.slot.zero.isEmpty, !zero.slot.zero.isEmpty, !(zero.slot.pend.isSome), free.zeroReady, !(due.edgeCoreReady 0), ready.edgeCoreReady 0,
       (ready.edgeCore 0).slot.zero.isEmpty, begun.isCommon 0, decide (begun.time.toNat < begun.edgeTime)]) = true := by decide +kernel

/-- A team that is placed, saved, stopping with nothing left to run but not complete; a request for a team that is gone. -/
theorem witness_teams :
    (let t : Team := { lead := (0, 1#16), part := 0#6, fn := 5, arr := false, actors := [(0, 1#16)], lm := [], wb := [], ab := [], barCnt := 0
                       bars := [] }
     let held (k : TeamSt) : State := { onCore 0 { coreOf [] with run := false, dir := [{ wk with team := 1, st := .held }] } with
       teams := [(1, { t with st := k })], pre := { status := 1#64 <<< 63, team := 1, at_ := 0#64 } }
     let stop : State := held (.stopping 3)
     let gone : State := { stop with teams := [] }
     let free (k : TeamSt) : State := { held k with pre := {}, migr := [(5, 2#3)] }
     all [!(stop.teamDone 1 { t with st := .stopping 3 }), stop.preReached 1 { t with st := .stopping 3 } 3,
       !((st []).preReached 1 t 3) || (st []).teams.isEmpty, bit stop.pre.status 63, (kfind gone.teams gone.pre.team).isNone,
       !(bit (free .placed).pre.status 63), (free .saved).teams.all fun x => x.2.st == .saved, !((free .placed).teams.all fun x => x.2.st == .saved),
       ((free .saved).migr.filter fun m => m.2 = 2#3).map (·.1) == [5],
       ((free (.stopping 3)).teams.find? fun x => x.2.st == .stopping 3 && !((free (.stopping 3)).teamDone x.1 x.2) &&
         (free (.stopping 3)).preReached x.1 x.2 3).isSome]) = true := by decide +kernel

/-- PTM due and not; a word of control space that may be written and one that may not; halves; a store of a thread that
waits for nothing. -/
theorem witness_control_rules :
    (let late : State := { st [] with time := 10000000#64, firm := { boot := 3#3 } }
     let a : Acc := { n := 1, party := .ctl, kind := .store, va := 0x7FFF_0000_0004_1000#64, home := .ctl, key := 0, len := 8, obj := 2
                      data := mkWord [(63, 1), (16, 1)] }
     let s := withAcc [a]
     let w : Writer := { src := 0, mode := .hypervisor, part := 0#6 }
     all [late.firm.boot != 0#3, decide (10000000 ≤ (late.time - late.ptmAt).toNat), (st []).firm.boot == 0#3 || (st []).time == (st []).ptmAt,
       (ctlMap 0xFFF 0x041000).isSome, !(isEntry 0xFFF 0x041000), !(isCw 0xFFF 0x041000), !(isAccum 0xFFF 0x041000), isEntry 0xFFF 0x080000,
       (match ctlMap 0xFFF 0x041000 with | some m => m.hyp && m.sta | none => false), fld a.va 59 48 == 0xFFF, fld a.va 47 0 == 0x041000,
       (s.core 0).accNo a.n == some a, (s.core 0).mayPerform 0 a, s.homeReady a.part a.home a.key a.span,
       !(s.ctlWaits (some (0, a.n)) 0xFFF 0x041000 8 a.data), (s.ctlWrite w 0xFFF 0x041000 8 a.data).2.isNone,
       s.devState != 2, (s.setDcw 0x0E0000 (2#64 <<< 62)).devState == 2]) = true := by decide +kernel

/-! ### Witnesses of the clauses about values, payloads, saved teams, fault queues and what waits -/

/-- Codes of F32: finite ones of both signs, zeros, infinities and NaN; a magnitude past the largest finite one. -/
theorem witness_float_values :
    (let mag (c : Nat) := c % 2 ^ 31
     all [decide (mag 0x3F80_0001 ≤ F32.maxCode ∧ mag 0x3F80_0001 ≠ 0), decide (mag 0xBF80_0000 ≤ F32.maxCode), mag 0x8000_0000 == 0,
       F32.infCode == some (mag 0xFF80_0000), decodeF F32 0x7FC0_0000 == .nan, decide (F32.maxCode < mag 0x7FC0_0000),
       (0xBF80_0000 : Nat).testBit 31, !((0x3F80_0000 : Nat).testBit 31), decide (F32.maxCode = 0x7F7F_FFFF)]) = true := by decide +kernel

/-- Chapter 12, fused against separate: FMAC of 1 + 2^−23, 1 − 2^−23 and −1 is exactly −2^−46; FMUL rounds to 1 with NX. -/
theorem test_fused_and_separate :
    (fMac F32 false 0xBF80_0000 0x3F80_0001 0x3F7F_FFFE == { code := 0xA880_0000 } &&
      fMul F32 0x3F80_0001 0x3F7F_FFFE == { code := 0x3F80_0000, flags := fNX } && fAdd F32 0x3F80_0000 0xBF80_0000 == { code := 0 }) = true := by
  decide +kernel

/-- SEND of 56 payload bytes in the core's own LM; control words with a bit set, of class 15, and too short. -/
theorem witness_payload :
    (let s := st [(1, 0x1000_0000_0000_0200#64), (2, 0x0010_0003_0000_0040#64)]
     let pay : Want := { acc := .read, n := 56, align := 8, only := fun k => k == 1 || k == 6 }
     let u := s.took [1#6, 2#6]
     all [s.ctlReady { names := [1#6, 2#6], reads := [1#6, 2#6] }, s.own.wait == .none, s.destOk 0 16,
       isOk (u.check 0 pay (s.reg 0 1#6)).2, !(isOk (u.check 0 pay 0x1000_0000_0000_0201#64).2), clsOf (s.reg 0 1#6) == 1,
       u.homeReady 0#6 (.lm 0) (lmKey 0 0x200) 56, (u.core 0).mayRead 0 (.lm 0) (lmKey 0 0x200) 56, (u.eccSpan (lmKey 0 0x200) 56).2.isNone,
       decide (s.own.out < 4096), !s.own.relFull, decide ((0x0010_000F_0000_0008#64 : W64).toNat / 2 ^ 32 % 2 ^ 4 = 15),
       decide ((0x8010_0003_0000_0008#64 : W64).toNat / 2 ^ 60 ≠ 0), decide ((0x0010_0003_0000_0004#64 : W64).toNat % 2 ^ 16 < 8)]) = true := by
  decide +kernel

/-- JOIN: answered with another value, refused, and back at a word whose subtraction is made, with and without held results. -/
theorem witness_join_ends :
    (let at_ (w : Wait) (j : Option W64) (h : List Held) : State :=
       onCore 0 { coreOf [(1, 0x1000_0000_0000_0200#64), (2, 5#64)] with wait := w, joined := j, held := h }
     let r := at_ (.refused { code := 0x08#8 }) none []
     let j := at_ .none (some (coreOf []).pc) []
     let h := at_ .none (some (coreOf []).pc) [{ dest := .reg 5#6, waits := [0] }]
     all [r.own.wait == .refused { code := 0x08#8 }, r.ctlReady { names := [1#6, 2#6], reads := [1#6, 2#6] }, j.own.joined == some j.own.pc,
       j.own.held.isEmpty, j.own.seqDone, !h.own.held.isEmpty, h.own.joined == some h.own.pc, (at_ .none none []).own.joined != some (coreOf []).pc]) =
    true := by decide +kernel

/-- A last arrival after one that named a record; its home takes the record, or sleeps. -/
theorem witness_barrier_record :
    (let b : BarArr := { core := 1, tag := 0, evs := [], rec_ := some 0x1000_0000_0000_0200#64, ctx := 0#10, mode := .hypervisor }
     let s := { teamed 2 with teams := (teamed 2).teams.map fun (t : Nat × Team) => (t.1, { t.2 with bars := [(0, [b])] }) }
     let asleep : State := { s with clusters := [(0, { ret := .retained })] }
     all [(s.curTeam 0).isSome, ((s.curTeam 0).map fun (t : Nat × Team) => (kget t.2.bars 0 []).all fun (a : BarArr) => a.core != 0) == some true,
       s.homeReady 0#6 (s.homeOf 0x1000_0000_0000_0200#64).1 (s.homeOf 0x1000_0000_0000_0200#64).2 72,
       !(asleep.homeReady 0#6 (s.homeOf 0x1000_0000_0000_0200#64).1 (s.homeOf 0x1000_0000_0000_0200#64).2 72), b.rec_.isSome]) = true := by
  decide +kernel

/-- An access to an object that is disabled; a store of a reserved bit of slot word 0; an AND of class 0x8; a JOIN of more than is
left; a line of two bytes that is written through and one that is not. -/
theorem witness_late_faults :
    (let mbm : Acc := { n := 1, party := .ctl, kind := .load, va := 0x5000_0000_0000_0000#64, home := .mbm, key := 5 * 2 ^ 60, len := 8, obj := 7 }
     let slot : Acc := { n := 1, party := .ctl, kind := .store, va := 0x1000_0000_0001_8000#64, home := .lm 0, key := lmKey 0 0x18000, len := 8
                         data := 1#64 }
     let far : Acc := { n := 1, party := .ctl, kind := .atomic .and, va := 0x8000_0000_0000_1000#64, home := .foreign, len := 8 }
     let s := withAcc [mbm]
     let v := withAcc [slot]
     let f := withAcc [far]
     let w : Way := { w := 0, st := .clean, owner := 0#6, line := 0x100, data := 5#512 }
     let c : State := { (withAcc []).setCw 0xC00 0 1#64 with sets := [(setKey 0x4000, [w])] }
     let thr : State := { c with sets := [(setKey 0x4000, [{ w with w := 1 }])] }
     all [(s.core 0).mayPerform 0 mbm, s.homeReady mbm.part mbm.home mbm.key mbm.span, !(s.objWaits 0 mbm), !(bit (s.objCfg 7) 63),
       (v.core 0).mayPerform 0 slot, v.homeReady slot.part slot.home slot.key slot.span, !(v.objWaits 0 slot),
       decide (slot.key % 2 ^ 48 / 8 % 64 = 0), slot.data &&& (bits 59 48 ||| bits 1 0) != 0#64, (f.core 0).mayPerform 0 far,
       !(f.own.foreignBefore far), c.wayOf 0x4000 == some w, decide (0x4000 % 64 + 2 ≤ 64), !((c.slotWays (sliceOf 0x4000)).testBit 0),
       (thr.wayOf 0x4000).isSome, !(c.chanFailed 0x4000)]) = true := by decide +kernel

/-- A TLBINV and a CMO whose counter's home takes their increment, and a home that does not. -/
theorem witness_counters_rise :
    (let ctr : Ctr := { home := .lm 0, key := lmKey 0 0x200, va := 0x1000_0000_0000_0200#64 }
     let x : Maint := { tlbinv := true, form := 9, a := 0#64, b := 0#64, counter := some ctr, waits := [], part := 0#6, ctx := 0#10,
                        mode := .hypervisor, word := 0#32, started := true }
     let s : State := onCore 0 { coreOf [] with maint := [x, { x with tlbinv := false, form := 12, started := false }] }
     let asleep : State := { s with clusters := [(0, { ret := .retained })] }
     all [(s.core 0).maint.find? (·.tlbinv) == some x, s.maintSettled x, s.homeReady x.part ctr.home ctr.key 8,
       ((s.core 0).maint.find? fun k => !k.tlbinv).isSome, !(asleep.homeReady x.part ctr.home ctr.key 8)]) = true := by decide +kernel

/-- Capabilities at a core: of a retired core's device none; of an epoch that has gone; live and admitted, of a workspace that
is resident, that has another generation, and with an index past its allotment. A class that is shut. -/
theorem witness_remote_checks :
    (let s := packet (.amsg 0 0#64 0#64 0#64)
     let part := 0
     let body (gen : Nat) : Nat := 2 ^ 32 + gen * 2 ^ 20
     let code (gen : Nat) : Nat := (sipHash (s.keyOf part) (toBytes 14 (body gen))).toNat % 2 ^ 16
     let cap (gen : Nat) : BitVec 128 := BitVec.ofNat 128 (body gen + code gen * 2 ^ 112)
     let ok := cap 1
     let shut : State := { s with teams := [(1, { lead := (0, 1#16), part := 0#6, fn := 0, arr := false, actors := [], lm := [], wb := [], ab := []
                                                  barCnt := 0, bars := [], st := .saved, shut := [(1, 0, 4)] })] }
     all [!(s.retired 1), ok.toNat / 2 ^ 70 % 2 ^ 32 == s.epochOf part, ok.toNat / 2 ^ 112 == code 1, ok.toNat / 2 ^ 64 % 2 ^ 6 == part,
       ((s.core 1).dir.find? fun w => w.wsid.toNat == ok.toNat / 2 ^ 32 % 2 ^ 16).isSome, ok.toNat / 2 ^ 20 % 2 ^ 12 == 1,
       (cap 2).toNat / 2 ^ 20 % 2 ^ 12 != 1, (0#128 : BitVec 128).toNat / 2 ^ 112 != (sipHash (s.keyOf 0) (toBytes 14 0)).toNat % 2 ^ 16,
       !(s.slotWordErr 1 0 5).2, shut.shutBuf 1 0 == some 4, (shut.shutBuf 1 1).isNone]) = true := by decide +kernel

/-- A fault queue of 16 records: with room, full, not enabled, and one whose header's line is lost; an LM that takes an increment. -/
theorem witness_fault_queue :
    (let q (en tail : Nat) : State :=
       let s := (State.reset.setDcw 0x051008 (mkWord [(32, 1), (20, 4)])).setDcw 0x044010 (mkWord [(63, en), (48, 4), (12, 5)])
       { s with memCfg := true, mem := memWriteN [] 0x5000 (toBytes 8 0 ++ toBytes 8 tail ++ toBytes 8 1) }
     let read (s : State) := s.hwTouchSpan 1#6 0#10 false true (0x5000 / 64) 1
     let tailOf (s : State) : Nat := ofBytes ((read s).1.cohBytes 0x5008 8)
     all [!(read (q 1 3)).2, tailOf (q 1 3) == 3, tailOf (q 1 16) == 16, bit ((q 1 3).dcw 0x044010) 63, !(bit ((q 0 3).dcw 0x044010) 63),
       (read { q 1 3 with lost := [0x5000 / 64] }).2, (q 1 3).lmLive 4, decide (({} : Guard).rem < 16)]) = true := by decide +kernel

/-- A tile that rose 100 µs ago and one that rose just now; an active core that was not active before. -/
theorem witness_rises :
    (let s : State := { st [] with time := 100000#64, throt := [(4, 1)], rises := [(4, 0#64), (8, 99999#64)] }
     all [decide (100000 ≤ (s.time - 0#64).toNat), decide ((s.time - 99999#64).toNat < 100000), s.newlyActive 0 || !(s.core 0).active,
       s.awake.isEmpty, decide (0 < kget s.throt 4 0)]) = true := by decide +kernel

/-- A donation whose steps run, and one that waits for a firing; a resume that goes, one whose cluster sleeps, one whose team is
gone; a migration to end. -/
theorem witness_steps_and_resumes :
    (let s : State := (st []).setDcw 0x078000 (mkWord [(63, 1), (49, 1), (35, 400), (31, 1)])
     let don (b : Bool) : State := { s with slot := { s.slot with begun := true, holder := some 0, pend := some (some 1, false), step := b } }
     let idle : State := { don false with cores := [] }
     let t : Team := { lead := (0, 1#16), part := 0#6, fn := 5, arr := false, actors := [(0, 1#16)], lm := [], wb := [], ab := [], barCnt := 0
                       bars := [], st := .drained }
     let w (k : TeamSt) (b : Bool) : State := { onCore 0 { coreOf [] with dir := [] } with
       teams := [(1, { t with st := k, back := b })], pre := { status := 1#64 <<< 63, team := 1, at_ := 0#64, res := true } }
     let gone : State := { w .drained false with teams := [] }
     let over_ : State := { w .drained true with pre := {} }
     all [(don true).slot.step, (don true).slot.due.isEmpty, (don true).slot.zero.isEmpty, !(don false).slot.step,
       !((idle.commonCores).any fun l => (idle.core l).busy), (w .drained false).pre.res, bit (w .drained false).pre.status 63,
       ((w .drained false).teamAsleep 1 t).isEmpty, (kfind gone.teams 1).isNone, (kfind (w .placed false).teams 1).map (·.st) == some .placed,
       (over_.teams.filter fun (x : Nat × Team) => x.2.back).length == 1, !(bit over_.pre.status 63), !over_.pre.res]) = true := by decide +kernel

/-- The end of a VF reset at a firing that runs without held results, with them, and one that is interrupted. -/
theorem witness_reset_holds :
    (let i : Intr := { ent := 1, pc := 0#64, guard := {}, tpc := 0#64, tstat := 0#64, inl := [], held := [], parkDue := false
                       wait := .none, holdDue := none }
     let plain := st []
     let long : State := onCore 0 { coreOf [] with held := [{ dest := .reg 5#6, waits := [3] }] }
     let under (k : Intr) : State := onCore 0 { coreOf [] with intr := [k] }
     let p := (under i).updCore 0 fun c => c.parkIntr 0 wk i
     all [(plain.core 0).intr.all (·.ent != wk.ent), ((long.raise 0 { code := 0x14#8 } (long.core 0).pc).core 0).holdDue.isSome,
       ((plain.raise 0 { code := 0x14#8 } (plain.core 0).pc).core 0).holdDue.isNone, ((under i).core 0).intr.find? (·.ent == wk.ent) == some i,
       (p.core 0).intr.all fun k => k.ent != wk.ent || k.held.isEmpty]) = true := by decide +kernel

/-- Locked SRAM: an access that W2 reaches, one that it does not, and a mirrored one. -/
theorem witness_sram_window :
    (let s := hosted {}
     let m := s.setDcw 0x0E8000 (mkWord [(63, 1), (62, 1), (32, 1)])
     all [s.holdsSram (s.fnPart 0).toNat 0 8, !(s.holdsSram 63 0x200000 8), bit (m.dcw 0x0E8000) 62, bit (m.dcw 0x0E8000) 63,
       !m.flw, ({ m with flw := true } : State).flw, ({ m with up := true, firm := { rdy := true } } : State).up]) = true := by decide +kernel

end Sys2Proof.Tests
end

section
/-! Proofs: the decoder on words cut into fields (R212, R229). -/

namespace Sys2Proof.Machine

/-- Cutting a word of format A gives back the fields it was made of (R212). -/
theorem ofWord_wordOf (m : Bool) (f b a d : R6) (op : BitVec 7) :
    Fields.ofWord (wordOf m f b a d op) = ⟨m, f, b, a, d, op⟩ := by
  have marker : (wordOf m f b a d op).getLsbD 31 = m := by
    show BitVec.getLsbD (BitVec.ofBool m ++ f ++ b ++ a ++ d ++ op : BitVec (1 + 6 + 6 + 6 + 6 + 7)) 31 = m
    simp [BitVec.getLsbD_append, -Nat.reduceAdd, -BitVec.getLsbD_eq_getElem]
  have cut (lo n : Nat) : (wordOf m f b a d op).extractLsb' lo n =
      BitVec.extractLsb' lo n (BitVec.ofBool m ++ f ++ b ++ a ++ d ++ op : BitVec (1 + 6 + 6 + 6 + 6 + 7)) := rfl
  simp (disch := decide) only [Fields.ofWord, marker, cut, BitVec.extractLsb'_append_eq_of_le,
    BitVec.extractLsb'_append_eq_of_add_le, BitVec.extractLsb'_eq_self, Nat.reduceSub, -Nat.reduceAdd]

section
variable {m : Bool} {f b a d : R6} {op : BitVec 7} {i : Instr}

theorem decode_wordOf (h : decodeFields ⟨m, f, b, a, d, op⟩ = some i) (hwf : i.wf = true) :
    decode (wordOf m f b a d op) = .ok i := by
  simp [decode, ofWord_wordOf, h, hwf]

theorem isIllegal_of_not_wf (h : decodeFields ⟨m, f, b, a, d, op⟩ = some i) (hwf : i.wf = false) :
    isIllegal (wordOf m f b a d op) :=
  ⟨.illFormed, by simp [decode, ofWord_wordOf, h, hwf]⟩

theorem isIllegal_of_fields_none (h : decodeFields ⟨m, f, b, a, d, op⟩ = none) : isIllegal (wordOf m f b a d op) := by
  simp only [isIllegal, decode, ofWord_wordOf, h]
  split <;> exact ⟨_, rfl⟩

/-- A word whose one check is that a run of bits stays within the register (R229, R259, R261). -/
theorem decode_wordOf_run {n k : Nat} (h : decodeFields ⟨m, f, b, a, d, op⟩ = some i) (hwf : i.wf = runOk n k) :
    (n + k ≤ 63 → decode (wordOf m f b a d op) = .ok i) ∧ (63 < n + k → isIllegal (wordOf m f b a d op)) :=
  ⟨fun hrun => decode_wordOf h (hwf.trans (decide_eq_true (Nat.lt_succ_of_le hrun))),
    fun hrun => isIllegal_of_not_wf h (hwf.trans (decide_eq_false (Nat.not_lt.mpr hrun)))⟩

end

/-- A field that lies above a code is not that code. -/
theorem beq_code_eq_false {f c : R6} {n : Nat} (hf : n ≤ f.toNat) (hc : c.toNat < n) : (f == c) = false := by
  rw [beq_eq_false_iff_ne]
  rintro rfl
  omega

/-- The upper codes of INT are reserved (R221). -/
theorem decodeMajor01_none {x : Fields} (h : 0x20 ≤ x.f.toNat) : decodeMajor01 x = none := by
  simp [decodeMajor01, beq_code_eq_false h]

/-- A form of INT with one source has no other in its word (R221). -/
theorem decodeMajor01_none_of_source {x : Fields} (hf : x.f ∈ [0x18#6, 0x19#6, 0x1A#6, 0x1F#6]) (hb : x.b ≠ 0#6) :
    decodeMajor01 x = none := by
  have hb' : (x.b == 0#6) = false := beq_eq_false_iff_ne.mpr hb
  simp only [List.mem_cons, List.not_mem_nil, or_false] at hf
  rcases hf with hf | hf | hf | hf <;> simp [decodeMajor01, hf, hb']

/-- The upper codes of the shifts by an immediate are reserved (R221). -/
theorem decodeMajor08_none {x : Fields} (h : 4 ≤ x.f.toNat) : decodeMajor08 x = none := by
  simp [decodeMajor08, beq_code_eq_false h]

/-- The codes of the words on a run of bits (R226, R261). -/
theorem decodeFields_runs (m : Bool) (n a d : R6) :
    (∀ k : BitVec 3, decodeFields ⟨m, n, k ++ 2#3, a, d, 0x0E#7⟩ = some (.btst m n k a d)) ∧
    (∀ k : BitVec 3, decodeFields ⟨m, n, k ++ 3#3, a, d, 0x0E#7⟩ = some (.bset m n k a d)) ∧
    (∀ k : BitVec 3, decodeFields ⟨m, n, k ++ 4#3, a, d, 0x0E#7⟩ = some (.bclr m n k a d)) ∧
    (∀ k : BitVec 3, decodeFields ⟨m, n, k ++ 5#3, a, d, 0x0E#7⟩ = some (.binv m n k a d)) := by
  have hmajor (k c : BitVec 3) :
      decodeFields ⟨m, n, k ++ c, a, d, 0x0E#7⟩ = decodeMajor0E ⟨m, n, k ++ c, a, d, 0x0E#7⟩ := rfl
  have hlow (k c : BitVec 3) : (k ++ c).extractLsb' 0 3 = c := BitVec.extractLsb'_append_eq_right
  have hhigh (k c : BitVec 3) : (k ++ c).extractLsb' 3 3 = k := BitVec.extractLsb'_append_eq_left
  simp only [hmajor, decodeMajor0E, hlow, hhigh]
  exact ⟨fun _ => rfl, fun _ => rfl, fun _ => rfl, fun _ => rfl⟩

end Sys2Proof.Machine
end

section
/-! Proofs: ready words of the control thread, by the shape of their effect. -/

namespace Sys2Proof.Machine

/-- Reading operands leaves the PC. -/
theorem pc_took (s : State) (rs : List R6) (h : s.own.cacheClean = true) : ((s.took rs).core s.me).pc = s.own.pc := by
  obtain ⟨_, _, hsame, _⟩ := consumes_law rs s.own h
  simp only [State.took, State.core_setCore_self]
  rw [hsame]

/-- A write to g0 is no write (R177). -/
theorem took_setReg_zero (s : State) (rs : List R6) (v : W64) : (s.took rs).setReg s.me 0#6 v = s.took rs := by
  simp [State.setReg, State.updCore, State.took, Core.setReg]

/-- A core with other event counters (R364). -/
def Core.withEv (c : Core) (e : KMap W32) : Core := { c with ev := e }

/-- Counting an event changes the counters alone (R364). -/
theorem countEv_eq_withEv (c : Core) (k n : Nat) : c.countEv k n = c.withEv (c.countEv k n).ev := by
  unfold Core.countEv Core.withEv
  split <;> rfl

/-- What the counters become depends on them and on what they select (R364). -/
theorem countEv_ev_congr {c c' : Core} (hev : c'.ev = c.ev) (hsel : c'.evsel = c.evsel) (k n : Nat) :
    (c'.countEv k n).ev = (c.countEv k n).ev := by
  unfold Core.countEv
  split <;> simp only [hev, hsel]

theorem rcPut_withEv (c : Core) (ev : KMap W32) (e : RcEnt) : (c.withEv ev).rcPut e = (c.rcPut e).withEv ev := by
  by_cases hlen : (c.rc.filter (·.key != e.key)).length < 32
  · simp only [Core.rcPut, Core.withEv, hlen, if_true]
  · cases hlast : (c.rc.filter (·.key != e.key)).getLast? <;>
      simp only [Core.rcPut, Core.withEv, hlen, if_false, hlast]

theorem putWord_withEv (c : Core) (ev : KMap W32) (k : Nat) (v : W64) :
    (c.withEv ev).putWord k v = (c.putWord k v).withEv ev := by
  unfold Core.putWord
  split
  · rfl
  · exact rcPut_withEv c ev _

/-- A register write does not look at the event counters. -/
theorem setReg_withEv (c : Core) (ev : KMap W32) (d : R6) (v : W64) :
    (c.withEv ev).setReg d v = (c.setReg d v).withEv ev := by
  have hput := putWord_withEv c ev (wordKey c.cur d.toNat) v
  unfold Core.setReg
  split
  · rfl
  · show ({ (c.withEv ev).putWord (wordKey c.cur d.toNat) v with
      sb := kdel ((c.withEv ev).putWord (wordKey c.cur d.toNat) v).sb (wordKey c.cur d.toNat) } : Core) = _
    rw [hput]
    rfl

/-- The end of a word that writes one register and counts an event is that of the plain write, but for the counters. -/
theorem endCtl_setReg_countEv (s : State) (rs : List R6) (m : Bool) (d : R6) (v : W64) (k n : Nat)
    (h : s.own.cacheClean = true) :
    let t := endCtl s.me m (.done ((s.took rs).setReg s.me d v))
    endCtl s.me m (.done (((s.took rs).countEv s.me k n).setReg s.me d v)) =
      t.setCore s.me (t.own.withEv (s.own.countEv k n).ev) := by
  intro t
  obtain ⟨_, _, hsame, _⟩ := consumes_law rs s.own h
  have hev : ((rs.foldl Core.consume s.own).countEv k n).ev = (s.own.countEv k n).ev :=
    countEv_ev_congr (by rw [hsame]) (by rw [hsame]) k n
  have hfin (c' : Core) (e : KMap W32) : (c'.withEv e).finish m false ((c'.withEv e).pc + 4#64) =
      (c'.finish m false (c'.pc + 4#64)).withEv e := rfl
  have hown : t.own = ((rs.foldl Core.consume s.own).setReg d v).finish m false
      (((rs.foldl Core.consume s.own).setReg d v).pc + 4#64) := by
    simp [t, endCtl, State.own, State.me, State.updCore, State.setReg, State.took]
  rw [hown, ← hfin, ← setReg_withEv, ← hev, ← countEv_eq_withEv]
  simp [t, endCtl, State.updCore, State.setReg, State.took, State.countEv]

/-- What a word leaves holds as well with counters that its base has too. -/
theorem Ended.withEv {s u t : State} {base : Core} {m jumped : Bool} {pc : W64} {reads : List R6} {d : R6} {v : W64}
    (h : Ended s u t base m jumped pc reads d v) (hu : u.me = s.me) (e : KMap W32) :
    Ended s u (t.setCore s.me (t.own.withEv e)) (base.withEv e) m jumped pc reads d v := by
  obtain ⟨hvalue, hplain, ⟨hwords, hmarks⟩, hcore, hrest, hclean⟩ := h
  have hme : t.me = s.me := by rw [hrest, State.me_setCore, hu]
  have hown : (t.setCore s.me (t.own.withEv e)).own = t.own.withEv e := by
    rw [← hme, State.own_setCore_me]
  have hreg : (t.setCore s.me (t.own.withEv e)).reg s.me d = t.reg s.me d := by
    simp only [State.reg, State.core_setCore_self, ← hme]
    rfl
  refine ⟨hreg.trans hvalue, ?_, ⟨?_, ?_⟩, ?_, ?_, ?_⟩ <;> rw [hown]
  · exact hplain
  · exact hwords
  · exact hmarks
  · conv_lhs => rw [hcore]
    rfl
  · rw [hrest, State.setCore_setCore]
  · exact hclean

section
variable {s : State} {i : Instr} {is : Issue} {m : Bool} {body : State → Nat → Out} {d : R6} {v pc : W64}

/-- A ready word whose effect is to write one register. -/
theorem gives_of_done (hexec : exec i s = issue is m s body) (h : s.ctlReady is = true)
    (hbody : body (s.took is.reads) s.me = .done ((s.took is.reads).setReg s.me d v)) :
    s.gives i s.own m is.reads d v := by
  rw [State.gives, hexec]
  show Wrote s (issueWord is m s body) s.own m is.reads d v
  rw [issueWord_ready is m s body h, hbody]
  exact wrote_setReg s is.reads m d v (ctlReady_clean h)

/-- A ready word that gives its register a value of the state it issues in. -/
theorem gives_of_writes {val : State → Nat → W64} (hexec : exec i s = issue is m s (writes d val))
    (h : s.ctlReady is = true) (hval : val (s.took is.reads) s.me = v) : s.gives i s.own m is.reads d v :=
  gives_of_done hexec h (by rw [writes, hval])

/-- A ready word that counts an event beside (R253). -/
theorem gives_of_done_counted {k n : Nat} (hexec : exec i s = issue is m s body) (h : s.ctlReady is = true)
    (hbody : body (s.took is.reads) s.me = .done (((s.took is.reads).countEv s.me k n).setReg s.me d v)) :
    s.gives i (s.own.countEv k n) m is.reads d v := by
  have hclean := ctlReady_clean h
  rw [State.gives, hexec]
  show Wrote s (issueWord is m s body) (s.own.countEv k n) m is.reads d v
  rw [issueWord_ready is m s body h, hbody, endCtl_setReg_countEv s is.reads m d v k n hclean, countEv_eq_withEv]
  exact (wrote_setReg s is.reads m d v hclean).withEv (me_filled s is.reads) _

/-- A ready word whose effect is to write one register and to go on elsewhere. -/
theorem goes_of_jump (hexec : exec i s = issue is m s body) (h : s.ctlReady is = true)
    (hbody : body (s.took is.reads) s.me = .jump ((s.took is.reads).setReg s.me d v) pc) :
    s.goes i m true pc is.reads d v := by
  rw [State.goes, hexec]
  show Ended s _ (issueWord is m s body) s.own m true pc is.reads d v
  rw [issueWord_ready is m s body h, hbody]
  exact ended_setReg s is.reads m true pc d v (ctlReady_clean h)

/-- A ready word whose effect is to go elsewhere under a condition, and nothing else (R263). -/
theorem goes_of_branch {taken : Bool} (hexec : exec i s = issue is m s body) (h : s.ctlReady is = true)
    (hbody : body (s.took is.reads) s.me =
      if taken then .jump (s.took is.reads) pc else .done (s.took is.reads)) :
    s.goes i m taken (if taken then pc else s.own.pc + 4#64) is.reads 0#6 0#64 := by
  have hzero := took_setReg_zero s is.reads 0#64
  cases taken with
  | true => exact goes_of_jump hexec h (by rw [hbody, hzero]; rfl)
  | false => exact gives_of_done hexec h (by rw [hbody, hzero]; rfl)

end

/-! ### The shapes of the integer words -/

section
variable {s : State} {i : Instr} {m : Bool} {b a d : R6} {v : W64}

theorem int2_gives {f : W64 → W64 → W64} (hexec : exec i s = int2 m b a d f s)
    (h : s.ctlReady { names := [d, a, b], reads := [a, b] } = true) (hv : f (s.reg s.me a) (s.reg s.me b) = v) :
    s.gives i s.own m [a, b] d v := by
  refine gives_of_writes hexec h ?_
  simp only [reg_took s _ (ctlReady_clean h), hv]

theorem int1_gives {f : W64 → W64} (hexec : exec i s = int1 m a d f s)
    (h : s.ctlReady { names := [d, a], reads := [a] } = true) (hv : f (s.reg s.me a) = v) :
    s.gives i s.own m [a] d v := by
  refine gives_of_writes hexec h ?_
  simp only [reg_took s _ (ctlReady_clean h), hv]

theorem intD_gives {f : W64 → W64 → W64} (hexec : exec i s = intD m a d f s)
    (h : s.ctlReady { names := [d, a], reads := [d, a] } = true) (hv : f (s.reg s.me d) (s.reg s.me a) = v) :
    s.gives i s.own m [d, a] d v := by
  refine gives_of_writes hexec h ?_
  simp only [reg_took s _ (ctlReady_clean h), hv]

theorem intSel_gives_taken {p : W64 → Bool} (hexec : exec i s = intSel m b a d p s)
    (h : s.ctlReady { names := [d, a, b], reads := [a, b] } = true) (hp : p (s.reg s.me b) = true) :
    s.gives i s.own m [a, b] d (s.reg s.me a) := by
  refine gives_of_done hexec h ?_
  simp only [reg_took s _ (ctlReady_clean h), hp, if_true]

theorem intSel_gives_none {p : W64 → Bool} (hexec : exec i s = intSel m b a d p s)
    (h : s.ctlReady { names := [d, a, b], reads := [a, b] } = true) (hp : p (s.reg s.me b) = false) :
    s.gives i s.own m [a, b] 0#6 0#64 := by
  refine gives_of_done hexec h ?_
  simp only [reg_took s _ (ctlReady_clean h), hp, took_setReg_zero, Bool.false_eq_true, if_false]

/-- A saturating form gives the clamped value, and counts integer saturation when that is another (R253, R255). -/
theorem intSat_gives {f : Int → Int → Int} {x y : Int} (hexec : exec i s = intSat m b a d f s)
    (h : s.ctlReady { names := [d, a, b], reads := [a, b] } = true) (hx : f (s.reg s.me a).toInt (s.reg s.me b).toInt = x)
    (hy : clampInt (-2 ^ 63) (2 ^ 63 - 1) x = y) :
    s.gives i (if x = y then s.own else s.own.countEv evIntSat 1) m [a, b] d (BitVec.ofInt 64 y) := by
  have hreg := reg_took s [a, b] (ctlReady_clean h)
  split
  · rename_i heq
    refine gives_of_done hexec h ?_
    simp only [hreg, hx, hy, if_pos heq]
  · rename_i hne
    refine gives_of_done_counted hexec h ?_
    simp only [hreg, hx, hy, if_neg hne]

/-- The three ranges of a saturating form (R253). -/
theorem intSat_gives_cases {f : Int → Int → Int} (hexec : exec i s = intSat m b a d f s)
    (h : s.ctlReady { names := [d, a, b], reads := [a, b] } = true) :
    let x := f (s.reg s.me a).toInt (s.reg s.me b).toInt
    (-2 ^ 63 ≤ x → x < 2 ^ 63 → s.gives i s.own m [a, b] d (BitVec.ofInt 64 x)) ∧
    (2 ^ 63 ≤ x → s.gives i (s.own.countEv 5 1) m [a, b] d 0x7FFFFFFFFFFFFFFF#64) ∧
    (x < -2 ^ 63 → s.gives i (s.own.countEv 5 1) m [a, b] d 0x8000000000000000#64) := by
  intro x
  have hplain (hy : clampInt (-2 ^ 63) (2 ^ 63 - 1) x = x) : s.gives i s.own m [a, b] d (BitVec.ofInt 64 x) := by
    simpa only [if_true] using intSat_gives (x := x) hexec h rfl hy
  have hclamped {y : Int} (hy : clampInt (-2 ^ 63) (2 ^ 63 - 1) x = y) (hne : x ≠ y) :
      s.gives i (s.own.countEv evIntSat 1) m [a, b] d (BitVec.ofInt 64 y) := by
    simpa only [if_neg hne] using intSat_gives (x := x) hexec h rfl hy
  have hmax : BitVec.ofInt 64 (2 ^ 63 - 1) = 0x7FFFFFFFFFFFFFFF#64 := rfl
  have hmin : BitVec.ofInt 64 (-2 ^ 63) = 0x8000000000000000#64 := rfl
  rw [← hmax, ← hmin]
  refine ⟨fun hlo hhi => hplain ?_, fun hhi => hclamped ?_ (by omega), fun hlo => hclamped ?_ (by omega)⟩
  · rw [clampInt, if_neg (by omega), if_neg (by omega)]
  · rw [clampInt, if_neg (by omega), if_pos (by omega)]
  · rw [clampInt, if_pos (by omega)]

/-- A branch on two registers (R263). -/
theorem branch2_goes {o : BitVec 12} {p : W64 → W64 → Bool} {taken : Bool} (hexec : exec i s = branch2 m o b a p s)
    (h : s.ctlReady { names := [a, b], reads := [a, b] } = true)
    (hp : p (s.reg s.me a) (s.reg s.me b) = taken) :
    s.goes i m taken (if taken then s.own.pc + 4#64 * o.signExtend 64 else s.own.pc + 4#64) [a, b] 0#6 0#64 := by
  have hclean := ctlReady_clean h
  refine goes_of_branch hexec h ?_
  simp only [reg_took s _ hclean, pc_took s _ hclean, hp, target]

/-- A branch on one bit (R263). -/
theorem branchBit_goes {o : BitVec 12} {n : R6} {on : Bool} (hexec : exec i s = branchBit m o n a on s)
    (h : s.ctlReady { names := [a], reads := [a] } = true) :
    let taken := (s.reg s.me a).getLsbD n.toNat == on
    s.goes i m taken (if taken then s.own.pc + 4#64 * o.signExtend 64 else s.own.pc + 4#64) [a] 0#6 0#64 := by
  intro taken
  have hclean := ctlReady_clean h
  refine goes_of_branch hexec h ?_
  simp only [reg_took s _ hclean, pc_took s _ hclean, target, bit, taken, beq_iff_eq]

end

end Sys2Proof.Machine
end

section
/-! Proofs: the values of the integer words, as arithmetic and as bits (R253 to R261). -/

namespace Sys2Proof.Machine

theorem shAmt_eq (y : W64) : shAmt y = y.toNat % 64 := by
  simp [shAmt, fld]

/-- A comparison gives 1 or 0 (R255). -/
theorem bool64_eq_ite {p : Prop} [Decidable p] {c : Bool} (h : c = true ↔ p) : bool64 c = if p then 1#64 else 0#64 := by
  simp only [bool64, h]

/-- A strict comparison chooses as the other does, where equal operands choose between equals. -/
theorem ite_lt_eq_ite_le {α : Type} [LinearOrder α] {p q : α} {u v : W64} (h : p = q → u = v) :
    (if p < q then u else v) = if p ≤ q then u else v := by
  rcases lt_trichotomy p q with hpq | hpq | hpq
  · rw [if_pos hpq, if_pos hpq.le]
  · rw [if_neg hpq.not_lt, if_pos hpq.le, h hpq]
  · rw [if_neg hpq.not_gt, if_neg hpq.not_ge]

theorem ite_slt {x y u v : W64} (h : x = y → u = v) :
    (if x.slt y then u else v) = if x.toInt ≤ y.toInt then u else v := by
  simp only [BitVec.slt_iff_toInt_lt]
  exact ite_lt_eq_ite_le fun hxy => h (BitVec.eq_of_toInt_eq hxy)

theorem ite_ult {x y u v : W64} (h : x = y → u = v) :
    (if x.ult y then u else v) = if x.toNat ≤ y.toNat then u else v := by
  simp only [BitVec.ult_iff_toNat_lt]
  exact ite_lt_eq_ite_le fun hxy => h (BitVec.eq_of_toNat_eq hxy)

theorem bne_eq_decide_ne (x y : W64) : (x != y) = decide (x ≠ y) := by
  rw [bne, beq_eq_decide, decide_not]

theorem not_slt_eq_decide (x y : W64) : (!x.slt y) = decide (y.toInt ≤ x.toInt) := by
  rw [BitVec.slt_eq_decide, ← decide_not]
  simp only [not_lt]

theorem not_ult_eq_decide (x y : W64) : (!x.ult y) = decide (y.toNat ≤ x.toNat) := by
  rw [BitVec.ult_eq_decide, ← decide_not]
  simp only [not_lt]

/-- The high half of a signed product (R255). -/
theorem mulh_eq (x y : W64) :
    BitVec.ofInt 64 (x.toInt * y.toInt / 2 ^ 64) = ((x.signExtend 128 * y.signExtend 128) >>> 64).setWidth 64 := by
  have hprod : x.signExtend 128 * y.signExtend 128 = BitVec.ofInt 128 (x.toInt * y.toInt) := (BitVec.ofInt_mul ..).symm
  rw [hprod]
  generalize x.toInt * y.toInt = p
  apply BitVec.eq_of_toNat_eq
  simp only [BitVec.toNat_ofInt, BitVec.toNat_setWidth, BitVec.toNat_ushiftRight, Nat.shiftRight_eq_div_pow]
  omega

/-- The high half of an unsigned product (R255). -/
theorem mulhn_eq (x y : W64) :
    BitVec.ofNat 64 (x.toNat * y.toNat / 2 ^ 64) = ((x.setWidth 128 * y.setWidth 128) >>> 64).setWidth 64 := by
  have hprod : x.toNat * y.toNat < 2 ^ 64 * 2 ^ 64 := Nat.mul_lt_mul'' x.isLt y.isLt
  apply BitVec.eq_of_toNat_eq
  simp only [BitVec.toNat_ofNat, BitVec.toNat_setWidth, BitVec.toNat_ushiftRight, BitVec.toNat_mul,
    Nat.shiftRight_eq_div_pow]
  rw [Nat.mod_eq_of_lt (a := x.toNat) (by omega), Nat.mod_eq_of_lt (a := y.toNat) (by omega)]
  generalize x.toNat * y.toNat = p at hprod ⊢
  omega

/-- How far a property of the numbers below `n` holds without a gap. -/
theorem length_takeWhile_range {p : Nat → Bool} {k n : Nat} (hk : k < n) (hlow : ∀ i < k, p i = true)
    (hstop : p k = false) : ((List.range n).takeWhile p).length = k := by
  have hidx : (List.range n).findIdx (fun i => !p i) = k := by
    rw [List.findIdx_eq (by simpa using hk)]
    simp only [List.getElem_range, hstop, Bool.not_false, true_and, Bool.not_eq_false']
    exact hlow
  rw [List.takeWhile_eq_take_findIdx_not, hidx, List.length_take, List.length_range, min_eq_left hk.le]

/-- Leading zeros (R255). -/
theorem clz64_eq (x : W64) :
    clz64 x = BitVec.ofNat 64 ((List.range 64).takeWhile fun i => !(x.getLsbD (63 - i))).length := by
  unfold clz64
  split
  · rename_i hx
    subst hx
    decide
  · rename_i hx
    have hne : x.toNat ≠ 0 := fun h => hx (BitVec.eq_of_toNat_eq h)
    have hlog : x.toNat.log2 < 64 := (Nat.log2_lt hne).mpr x.isLt
    rw [length_takeWhile_range (k := 63 - x.toNat.log2) (by omega)]
    · intro i hi
      rw [Bool.not_eq_true', ← BitVec.testBit_toNat]
      exact Nat.testBit_lt_two_pow (lt_of_lt_of_le Nat.lt_log2_self (Nat.pow_le_pow_right two_pos (by omega)))
    · rw [Bool.not_eq_false', ← BitVec.testBit_toNat, Nat.sub_sub_self (by omega)]
      exact Nat.testBit_log2 hne

/-- The scan for trailing zeros stops where a run of them ends. -/
theorem ctzFrom_eq (x : W64) (i k : Nat) :
    ctzFrom x i k = i + ((List.range' i k).takeWhile fun j => !(x.getLsbD j)).length := by
  induction k generalizing i with
  | zero => rfl
  | succ k ih =>
    rw [ctzFrom, List.range'_succ, List.takeWhile_cons, ih, bit]
    cases x.getLsbD i
    · simp; omega
    · simp

theorem ctz64_eq (x : W64) :
    ctz64 x = BitVec.ofNat 64 ((List.range 64).takeWhile fun i => !(x.getLsbD i)).length := by
  rw [ctz64, ctzFrom_eq, Nat.zero_add, List.range_eq_range']

theorem popc64_eq (x : W64) :
    popc64 x = BitVec.ofNat 64 ((List.range 64).filter fun i => x.getLsbD i).length := by
  rw [popc64, List.countP_eq_length_filter]
  rfl

/-- A byte below a number of bytes. -/
theorem toNat_append_byte {p : Nat} (u : BitVec p) (v : Byte) : (u ++ v).toNat = v.toNat + 256 * u.toNat := by
  rw [BitVec.toNat_append, ← Nat.shiftLeft_add_eq_or_of_lt v.isLt, Nat.shiftLeft_eq]
  omega

/-- The byte at bit `k` of a word. -/
theorem toNat_byte (x : W64) (k : Nat) : (x.extractLsb' k 8).toNat = x.toNat / 2 ^ k % 256 := by
  rw [BitVec.extractLsb'_toNat, Nat.shiftRight_eq_div_pow]

/-- Bytes in reverse (R255). -/
theorem bswap64_eq (x : W64) :
    bswap64 x = x.extractLsb' 0 8 ++ x.extractLsb' 8 8 ++ x.extractLsb' 16 8 ++ x.extractLsb' 24 8 ++ x.extractLsb' 32 8 ++
      x.extractLsb' 40 8 ++ x.extractLsb' 48 8 ++ x.extractLsb' 56 8 := by
  apply BitVec.eq_of_toNat_eq
  have hright : BitVec.toNat (w := 64) (x.extractLsb' 0 8 ++ x.extractLsb' 8 8 ++ x.extractLsb' 16 8 ++ x.extractLsb' 24 8 ++
      x.extractLsb' 32 8 ++ x.extractLsb' 40 8 ++ x.extractLsb' 48 8 ++ x.extractLsb' 56 8) =
      ofBytes (toBytes 8 x.toNat).reverse := by
    show BitVec.toNat (w := 8 + 8 + 8 + 8 + 8 + 8 + 8 + 8) _ = _
    simp only [toNat_append_byte, toNat_byte, -Nat.reduceAdd]
    simp [toBytes, ofBytes, Nat.div_div_eq_div_mul]
  rw [hright, bswap64, BitVec.toNat_ofNat, Nat.mod_eq_of_lt]
  rw [← hright]
  exact BitVec.isLt _

/-! ### Fields and runs of bits (R259 to R261) -/

/-- A field of a word replaced, bit by bit. -/
theorem getLsbD_setFld (x : W64) {hi lo v i : Nat} (h : lo ≤ hi) (hi64 : i < 64) :
    (setFld x hi lo v).getLsbD i = if lo ≤ i ∧ i ≤ hi then v.testBit (i - lo) else x.getLsbD i := by
  simp only [setFld, BitVec.getLsbD_or, BitVec.getLsbD_and, BitVec.getLsbD_not, BitVec.getLsbD_ofNat, hi64,
    Nat.testBit_shiftLeft, Nat.testBit_two_pow_sub_one, Nat.testBit_mod_two_pow, decide_true, Bool.true_and, ge_iff_le]
  by_cases hlo : lo ≤ i
  · have hin : (i - lo < hi - lo + 1) ↔ i ≤ hi := by omega
    by_cases hhi : i ≤ hi <;> simp [hlo, hin, hhi]
  · simp [hlo]

/-- An inserted field, bit by bit (R259). -/
theorem getLsbD_bfIns {pos l i : Nat} {old x : W64} (hi : i < 64) :
    (bfIns pos (l + 1) old x).getLsbD i = if pos ≤ i ∧ i ≤ pos + l then x.getLsbD (i - pos) else old.getLsbD i := by
  rw [bfIns, ← Nat.add_assoc, Nat.add_sub_cancel, getLsbD_setFld _ (Nat.le_add_right pos l) hi]
  split
  · rename_i hin
    rw [Nat.testBit_mod_two_pow, decide_eq_true (by omega), Bool.true_and, BitVec.testBit_toNat]
  · rfl

/-- A run of bits (R261). -/
theorem getLsbD_runMask (n : R6) (k : BitVec 3) {i : Nat} (hi : i < 64) :
    (runMask n k).getLsbD i = decide (n.toNat ≤ i ∧ i ≤ n.toNat + k.toNat) := by
  simp only [runMask, BitVec.getLsbD_ofNat, hi, Nat.testBit_shiftLeft, Nat.testBit_two_pow_sub_one, decide_true,
    Bool.true_and, ge_iff_le, ← Bool.decide_and]
  exact decide_eq_decide.mpr (by omega)

/-- A field of a word as a value (R259). -/
theorem bfxU_eq (pos len : Nat) (x : W64) : bfxU pos len x = ((x >>> pos).setWidth len).setWidth 64 := by
  apply BitVec.eq_of_toNat_eq
  simp [bfxU]

/-- Sign extension of the low bits of a word. -/
theorem sextN_eq {len : Nat} (hpos : 0 < len) (x : W64) : sextN x len = (x.setWidth len).signExtend 64 := by
  obtain ⟨k, rfl⟩ : ∃ k, len = k + 1 := ⟨len - 1, by omega⟩
  rw [BitVec.signExtend, BitVec.toInt_eq_toNat_cond, BitVec.toNat_setWidth, sextN]
  have hhalf : 2 * (x.toNat % 2 ^ (k + 1)) < 2 ^ (k + 1) ↔ ¬ 2 ^ k ≤ x.toNat % 2 ^ (k + 1) := by
    rw [pow_succ]
    omega
  simp only [hhalf, ite_not, Nat.add_sub_cancel, ne_eq, Nat.succ_ne_zero, not_false_eq_true, true_and]
  split
  · rfl
  · exact (BitVec.ofInt_natCast _ _).symm

theorem bfxS_eq {len : Nat} (pos : Nat) (hpos : 0 < len) (hlen : len ≤ 64) (x : W64) :
    bfxS pos len x = ((x >>> pos).setWidth len).signExtend 64 := by
  rw [bfxS, sextN_eq hpos, bfxU_eq, BitVec.setWidth_setWidth_of_le _ hlen, BitVec.setWidth_eq]

/-- A test of a run of bits (R261). -/
theorem bool64_and_runMask (x : W64) (n : R6) (k : BitVec 3) :
    bool64 (x &&& runMask n k != 0#64) =
      if (List.range 64).any fun i => decide (n.toNat ≤ i ∧ i ≤ n.toNat + k.toNat) && x.getLsbD i then 1#64
      else 0#64 := by
  refine bool64_eq_ite ?_
  have hbits : x &&& runMask n k = 0#64 ↔
      ∀ i < 64, ¬ ((decide (n.toNat ≤ i ∧ i ≤ n.toNat + k.toNat) && x.getLsbD i) = true) := by
    rw [BitVec.eq_of_getLsbD_eq_iff]
    refine forall₂_congr fun i hi => ?_
    rw [BitVec.getLsbD_and, getLsbD_runMask n k hi, BitVec.getLsbD_zero, Bool.and_comm, Bool.not_eq_true]
  rw [bne_iff_ne, ne_eq, hbits, List.any_eq_true]
  simp only [not_forall, not_not, List.mem_range, exists_prop]

end Sys2Proof.Machine
end

section
/-! Proofs: the statements on integer words, branches and jumps (chapter 11). -/

namespace Sys2Proof.Machine

/-- Settles O14: a branch is a jump under a condition that writes no register, and a jump links by one register write,
after it has read gA. -/
theorem branchesAndJumps : Obligations.BranchesAndJumps := by
  unfold Obligations.BranchesAndJumps
  refine ⟨⟨?branches, ?bitBranches⟩, ?jumps, ?encodings⟩
  case branches =>
    simp only [List.forall_mem_cons, List.not_mem_nil, false_implies, implies_true, and_true]
    exact ⟨fun _ _ _ _ _ h => branch2_goes (p := (· == ·)) rfl h (beq_eq_decide _ _),
      fun _ _ _ _ _ h => branch2_goes (p := (· != ·)) rfl h (bne_eq_decide_ne _ _),
      fun _ _ _ _ _ h => branch2_goes (p := BitVec.slt) rfl h BitVec.slt_eq_decide,
      fun _ _ _ _ _ h => branch2_goes (p := fun x y => !x.slt y) rfl h (not_slt_eq_decide _ _),
      fun _ _ _ _ _ h => branch2_goes (p := BitVec.ult) rfl h BitVec.ult_eq_decide,
      fun _ _ _ _ _ h => branch2_goes (p := fun x y => !x.ult y) rfl h (not_ult_eq_decide _ _)⟩
  case bitBranches =>
    simp only [List.forall_mem_cons, List.not_mem_nil, false_implies, implies_true, and_true]
    exact ⟨fun _ _ _ _ _ h => branchBit_goes rfl h, fun _ _ _ _ _ h => branchBit_goes rfl h⟩
  case jumps =>
    intro s m
    refine ⟨fun h o => ?_, fun h o => ?_, fun i a d h => ?_⟩
    · have hexec : exec (.j m o) s = issue {} m s fun s l => .jump s (target (s.core l).pc o) := rfl
      refine goes_of_jump hexec h ?_
      simp only [took_setReg_zero, pc_took s _ (ctlReady_clean h), target]
    · have hexec : exec (.jl m o) s = issue { names := [7#6] } m s fun s l =>
          .jump (s.setReg l 7#6 ((s.core l).pc + 4#64)) (target (s.core l).pc o) := rfl
      refine goes_of_jump hexec h ?_
      simp only [pc_took s _ (ctlReady_clean h), target]
    · have hexec : exec (.jlr m i a d) s = issue { names := [a, d], reads := [a] } m s fun s l =>
          .jump (s.setReg l d ((s.core l).pc + 4#64)) (effAddr (s.reg l a) i) := rfl
      refine goes_of_jump hexec h ?_
      simp only [reg_took s _ (ctlReady_clean h), pc_took s _ (ctlReady_clean h), effAddr]
  case encodings =>
    intro m f b a d
    refine ⟨?_, decode_wordOf rfl rfl, decode_wordOf rfl rfl, decode_wordOf rfl rfl⟩
    intro p hp
    fin_cases hp <;> exact decode_wordOf rfl rfl

/-- Settles O11: each form reads gA and writes gD; LUI beyond lane 0 is a field of gD replaced. -/
theorem immediateAndConstantForms : Obligations.ImmediateAndConstantForms := by
  unfold Obligations.ImmediateAndConstantForms
  refine ⟨⟨?immediates, ?shifts⟩, ?constants, ?encodings⟩
  case immediates =>
    simp only [List.forall_mem_cons, List.not_mem_nil, false_implies, implies_true, and_true]
    exact ⟨fun _ _ _ _ _ h => int1_gives (f := (· + _)) rfl h rfl,
      fun _ _ _ _ _ h => int1_gives (f := (· &&& _)) rfl h rfl,
      fun _ _ _ _ _ h => int1_gives (f := (· ||| _)) rfl h rfl,
      fun _ _ _ _ _ h => int1_gives (f := (· ^^^ _)) rfl h rfl,
      fun _ _ _ _ _ h => int1_gives (f := fun x => bool64 (x.slt _)) rfl h (bool64_eq_ite BitVec.slt_iff_toInt_lt),
      fun _ _ _ _ _ h => int1_gives (f := fun x => bool64 (x.ult _)) rfl h (bool64_eq_ite BitVec.ult_iff_toNat_lt)⟩
  case shifts =>
    simp only [List.forall_mem_cons, List.not_mem_nil, false_implies, implies_true, and_true]
    exact ⟨fun _ _ _ _ _ h => int1_gives (f := (· <<< BitVec.toNat _)) rfl h rfl,
      fun _ _ _ _ _ h => int1_gives (f := (· >>> BitVec.toNat _)) rfl h rfl,
      fun _ _ _ _ _ h => int1_gives (f := fun x => x.sshiftRight _) rfl h rfl,
      fun _ _ _ _ _ h => int1_gives (f := fun x => x.rotateRight _) rfl h rfl⟩
  case constants =>
    intro s m v d
    refine ⟨fun h => ⟨?lane0, fun i => ?adpc⟩, fun h n hn => ?lane⟩
    case lane0 => exact gives_of_writes (is := { names := [d] }) (val := fun _ _ => v.setWidth 64) rfl h rfl
    case adpc =>
      have hexec : exec (.adpc m i d) s = issue { names := [d] } m s
          (writes d fun s l => (s.core l).pc + i.signExtend 64 * 4096#64) := rfl
      refine gives_of_writes hexec h ?_
      simp only [pc_took s _ (ctlReady_clean h)]
    case lane =>
      have hexec : exec (.lui m n v d) s = issue { names := [d], reads := [d] } m s
          (writes d fun s l => setFld (s.reg l d) (16 * n.toNat + 15) (16 * n.toNat) v.toNat) := if_neg hn
      refine ⟨setFld (s.reg s.me d) (16 * n.toNat + 15) (16 * n.toNat) v.toNat, gives_of_writes hexec h ?_, fun i hi => ?_⟩
      · simp only [reg_took s _ (ctlReady_clean h)]
      · simp only [getLsbD_setFld _ (Nat.le_add_right _ 15) hi, BitVec.testBit_toNat, ← Nat.lt_succ_iff, Nat.add_succ]
  case encodings =>
    intro m f b a d
    refine ⟨?_, ?_, fun hf => isIllegal_of_fields_none (decodeMajor08_none hf), fun n v => ?_, decode_wordOf rfl rfl⟩
    · intro p hp
      fin_cases hp <;> exact decode_wordOf rfl rfl
    · intro p hp
      fin_cases hp <;> exact decode_wordOf rfl rfl
    · refine decode_wordOf ?_ rfl
      show decodeMajor0C _ = _
      have hlow : (n ++ v).extractLsb' 0 4 = v := BitVec.extractLsb'_append_eq_right
      have hhigh : (n ++ v).extractLsb' 4 2 = n := BitVec.extractLsb'_append_eq_left
      simp only [decodeMajor0C, hlow, hhigh]

/-- Settles O12: an extracted field is a value by itself; what the other words leave is read off bit by bit, a field put in
place of the bits of gD, a run put over the bits of gA. -/
theorem bitForms : Obligations.BitForms := by
  unfold Obligations.BitForms
  refine ⟨fun s m a d => ⟨?extract, ?insert, ?runs⟩, ?encodings⟩
  case extract =>
    intro h p l hpl f
    exact ⟨int1_gives (f := bfxU p.toNat (l.toNat + 1)) rfl h (bfxU_eq ..),
      int1_gives (f := bfxS p.toNat (l.toNat + 1)) rfl h (bfxS_eq _ (by omega) (by omega) _)⟩
  case insert =>
    intro h p l hpl
    exact ⟨_, intD_gives (f := bfIns p.toNat (l.toNat + 1)) rfl h rfl, fun i hi => getLsbD_bfIns hi⟩
  case runs =>
    intro h n k hnk inF x
    refine ⟨int1_gives (f := fun x => bool64 (x &&& runMask n k != 0#64)) rfl h (bool64_and_runMask ..),
      ⟨_, int1_gives (f := (· ||| runMask n k)) rfl h rfl, fun i hi => ?_⟩,
      ⟨_, int1_gives (f := (· &&& ~~~runMask n k)) rfl h rfl, fun i hi => ?_⟩,
      ⟨_, int1_gives (f := (· ^^^ runMask n k)) rfl h rfl, fun i hi => ?_⟩⟩
    · rw [BitVec.getLsbD_or, getLsbD_runMask n k hi]
    · rw [BitVec.getLsbD_and, BitVec.getLsbD_not, getLsbD_runMask n k hi, decide_eq_true hi, Bool.true_and]
    · rw [BitVec.getLsbD_xor, getLsbD_runMask n k hi]
  case encodings =>
    intro m p l a d
    obtain ⟨hbtst, hbset, hbclr, hbinv⟩ := decodeFields_runs m p a d
    have hle : p.toNat + l.toNat + 1 ≤ 64 ↔ p.toNat + l.toNat ≤ 63 := Nat.succ_le_succ_iff
    have hlt : 64 < p.toNat + l.toNat + 1 ↔ 63 < p.toNat + l.toNat := Nat.succ_lt_succ_iff
    simp only [List.forall_mem_cons, List.not_mem_nil, false_implies, implies_true, and_true, hle, hlt]
    exact ⟨⟨decode_wordOf_run rfl rfl, decode_wordOf_run rfl rfl, decode_wordOf_run rfl rfl⟩,
      fun k => decode_wordOf_run (hbtst k) rfl, fun k => decode_wordOf_run (hbset k) rfl,
      fun k => decode_wordOf_run (hbclr k) rfl, fun k => decode_wordOf_run (hbinv k) rfl⟩

/-- Settles O9: each row of the model is the row's function over the operands as read; what is left is that the model's
functions are those of R255. -/
theorem integerForms : Obligations.IntegerForms := by
  unfold Obligations.IntegerForms
  refine ⟨?binary, ?unary, ?saturating, ?selects, ?encodings⟩
  case binary =>
    simp only [List.forall_mem_cons, List.not_mem_nil, false_implies, implies_true, and_true]
    exact ⟨fun _ _ _ _ _ h => int2_gives (f := (· + ·)) rfl h rfl,
      fun _ _ _ _ _ h => int2_gives (f := (· - ·)) rfl h rfl,
      fun _ _ _ _ _ h => int2_gives (f := (· &&& ·)) rfl h rfl,
      fun _ _ _ _ _ h => int2_gives (f := (· ||| ·)) rfl h rfl,
      fun _ _ _ _ _ h => int2_gives (f := (· ^^^ ·)) rfl h rfl,
      fun _ _ _ _ _ h => int2_gives (f := (· &&& ~~~·)) rfl h rfl,
      fun _ _ _ _ _ h => int2_gives (f := (· <<< shAmt ·)) rfl h (by rw [shAmt_eq]),
      fun _ _ _ _ _ h => int2_gives (f := (· >>> shAmt ·)) rfl h (by rw [shAmt_eq]),
      fun _ _ _ _ _ h => int2_gives (f := fun x y => x.sshiftRight (shAmt y)) rfl h (by rw [shAmt_eq]),
      fun _ _ _ _ _ h => int2_gives (f := fun x y => x.rotateRight (shAmt y)) rfl h (by rw [shAmt_eq]),
      fun _ _ _ _ _ h => int2_gives (f := fun x y => bool64 (x.slt y)) rfl h (bool64_eq_ite BitVec.slt_iff_toInt_lt),
      fun _ _ _ _ _ h => int2_gives (f := fun x y => bool64 (x.ult y)) rfl h (bool64_eq_ite BitVec.ult_iff_toNat_lt),
      fun _ _ _ _ _ h => int2_gives (f := fun x y => bool64 (x == y)) rfl h (bool64_eq_ite beq_iff_eq),
      fun _ _ _ _ _ h => int2_gives (f := fun x y => if x.slt y then x else y) rfl h (ite_slt id),
      fun _ _ _ _ _ h => int2_gives (f := fun x y => if x.slt y then y else x) rfl h (ite_slt Eq.symm),
      fun _ _ _ _ _ h => int2_gives (f := fun x y => if x.ult y then x else y) rfl h (ite_ult id),
      fun _ _ _ _ _ h => int2_gives (f := fun x y => if x.ult y then y else x) rfl h (ite_ult Eq.symm),
      fun _ _ _ _ _ h => int2_gives (f := (· * ·)) rfl h rfl,
      fun _ _ _ _ _ h => int2_gives (f := fun x y => BitVec.ofInt 64 (x.toInt * y.toInt / 2 ^ 64)) rfl h (mulh_eq _ _),
      fun _ _ _ _ _ h => int2_gives (f := fun x y => BitVec.ofNat 64 (x.toNat * y.toNat / 2 ^ 64)) rfl h (mulhn_eq _ _)⟩
  case unary =>
    simp only [List.forall_mem_cons, List.not_mem_nil, false_implies, implies_true, and_true]
    exact ⟨fun _ _ _ _ h => int1_gives (f := clz64) rfl h (clz64_eq _),
      fun _ _ _ _ h => int1_gives (f := ctz64) rfl h (ctz64_eq _),
      fun _ _ _ _ h => int1_gives (f := popc64) rfl h (popc64_eq _),
      fun _ _ _ _ h => int1_gives (f := bswap64) rfl h (bswap64_eq _)⟩
  case saturating =>
    simp only [List.forall_mem_cons, List.not_mem_nil, false_implies, implies_true, and_true]
    exact ⟨fun _ _ _ _ _ h => intSat_gives_cases (f := (· + ·)) rfl h,
      fun _ _ _ _ _ h => intSat_gives_cases (f := (· - ·)) rfl h⟩
  case selects =>
    intro s m b a d h
    refine ⟨fun hb => ⟨?_, ?_⟩, fun hb => ⟨?_, ?_⟩⟩
    · exact intSel_gives_taken (p := (· == 0#64)) rfl h (beq_iff_eq.mpr hb)
    · exact intSel_gives_none (p := (· != 0#64)) rfl h (bne_eq_false_iff_eq.mpr hb)
    · exact intSel_gives_none (p := (· == 0#64)) rfl h (beq_eq_false_iff_ne.mpr hb)
    · exact intSel_gives_taken (p := (· != 0#64)) rfl h (bne_iff_ne.mpr hb)
  case encodings =>
    intro m b a d
    refine ⟨?_, ?_, fun f hf => isIllegal_of_fields_none (decodeMajor01_none hf)⟩
    · intro p hp
      fin_cases hp <;> exact decode_wordOf rfl rfl
    · intro p hp
      fin_cases hp <;>
        exact ⟨decode_wordOf rfl rfl, fun hb => isIllegal_of_fields_none (decodeMajor01_none_of_source (by simp) hb)⟩

end Sys2Proof.Machine
end

section
/-! Proofs: ready words of the vector sequencer, and the elements of their operands (R237, R296, R297). -/

namespace Sys2Proof.Machine

/-! ### Elements -/

/-- An element is a code of its width. -/
theorem lt_of_mem_elems {w n : Nat} {v : V512} (h : n ∈ elems w v) : n < 2 ^ w := by
  obtain ⟨i, -, rfl⟩ := List.mem_map.mp h
  exact Nat.mod_lt _ (Nat.two_pow_pos w)

/-- The elements of a vector by their numbers. -/
theorem elems_eq_map_getD (w : Nat) (v : V512) :
    elems w v = (List.range (512 / w)).map fun i => (elems w v).getD i 0 := by
  refine List.map_congr_left fun i hi => ?_
  simp [elems, List.mem_range.mp hi]

/-- A row of an integer form need be known only on codes of the width. -/
theorem zipWith_elems_congr {w : Nat} {f g : Nat → Nat → FRes} (hfg : ∀ u < 2 ^ w, ∀ v < 2 ^ w, f u v = g u v)
    (x y : V512) : (elems w x).zipWith f (elems w y) = (elems w x).zipWith g (elems w y) := by
  rw [← List.map_uncurry_zip_eq_zipWith, ← List.map_uncurry_zip_eq_zipWith]
  refine List.map_congr_left fun p hp => ?_
  exact hfg _ (lt_of_mem_elems (List.of_mem_zip hp).1) _ (lt_of_mem_elems (List.of_mem_zip hp).2)

theorem map3_map {α : Type} (f : Nat → Nat → Nat → FRes) (p q r : α → Nat) (l : List α) :
    map3 f (l.map p) (l.map q) (l.map r) = l.map fun i => f (p i) (q i) (r i) := by
  induction l with
  | nil => rfl
  | cons i l ih => simp only [List.map_cons, map3, ih]

theorem map3_elems (f : Nat → Nat → Nat → FRes) (w : Nat) (u x y : V512) :
    map3 f (elems w u) (elems w x) (elems w y) = (List.range (512 / w)).map fun i =>
      f ((elems w u).getD i 0) ((elems w x).getD i 0) ((elems w y).getD i 0) := by
  conv_lhs => rw [elems_eq_map_getD w u, elems_eq_map_getD w x, elems_eq_map_getD w y]
  exact map3_map ..

theorem zip_zip_elems (w : Nat) (u x y : V512) :
    (elems w u).zip ((elems w x).zip (elems w y)) = (List.range (512 / w)).map fun i =>
      ((elems w u).getD i 0, (elems w x).getD i 0, (elems w y).getD i 0) := by
  conv_lhs => rw [elems_eq_map_getD w u, elems_eq_map_getD w x, elems_eq_map_getD w y]
  rw [List.zip_map', List.zip_map']

/-! ### Operands -/

/-- Taking a channel entry leaves the vector registers (R297). -/
theorem vsrc_vreg {c k : Core} {f : R6} {x : V512} (h : c.vsrc f = some (k, x)) : k.seq.vreg = c.seq.vreg := by
  unfold Core.vsrc at h
  split at h
  · cases h
    rfl
  · dsimp only at h
    split at h <;> cases h
    rfl

theorem vsrc2_vreg {c k : Core} {a b : R6} {x y : V512} (h : c.vsrc2 a b = some (k, x, y)) :
    k.seq.vreg = c.seq.vreg := by
  unfold Core.vsrc2 at h
  split at h
  · cases h
  · rename_i ha
    split at h
    · cases h
      exact vsrc_vreg ha
    · split at h <;> cases h
      rename_i hb
      exact (vsrc_vreg hb).trans (vsrc_vreg ha)

/-! ### Ready words -/

/-- The state after element results are recorded and written to vD, on the core `c` without the channel entries taken
(R291). -/
def State.putElems (s : State) (c : Core) (m : Bool) (d : R6) (w : Nat) (rs : List FRes) : State :=
  (s.setCore s.me ((rs.foldl Core.recordElem c).setV d (packVec w (rs.map (·.code))))).seqEnds s.me m

/-- Element results are recorded and written on the core without the channel entries taken (R291). -/
theorem vResults_setCore (w : Nat) (s : State) (l : Nat) (c : Core) (d : R6) (rs : List FRes) :
    vResults w (s.setCore l c) l d rs =
      .done (s.setCore l ((rs.foldl Core.recordElem c).setV d (packVec w (rs.map (·.code))))) := by
  simp only [vResults, vWrite, State.recordElems, State.updCore, State.core_setCore_self, State.setCore_setCore]

section
variable {s u : State} {i : Instr} {is : Issue} {m : Bool} {a b d : R6} {c : Core} {x y : V512}

/-- A ready word that reads no general register comes to its effect (R296). -/
theorem seq_ready {body : State → Nat → Out} (hexec : exec i s = issue is m s body) (h : s.seqReady is = true)
    (hreads : is.reads = []) (hbody : body s s.me = .done u) : exec i s = .next (u.seqEnds s.me m) := by
  have hfilled : s.filled [] = s := rfl
  have hend : endSeq s.me m (.done u) = u.seqEnds s.me m := rfl
  rw [hexec, issue, issueWord_seqReady _ m s _ h, hreads, hfilled, hbody, hend]

/-- A ready word with two vector operands comes to its effect on them (R297). -/
theorem vec2_ready {f : State → Nat → V512 → V512 → Out} (hexec : exec i s = vec2 is m b a s f)
    (h : s.seqReady { is with strm := .seq } = true) (hv : s.own.vsrc2 a b = some (c, x, y)) (hreads : is.reads = [])
    (hf : f (s.setCore s.me c) s.me x y = .done u) : exec i s = .next (u.seqEnds s.me m) := by
  have hsrc : (s.core s.me).vsrc2 a b = some (c, x, y) := hv
  exact seq_ready hexec h hreads (by rw [hsrc]; exact hf)

/-- The same with one operand. -/
theorem vec1_ready {f : State → Nat → V512 → Out} (hexec : exec i s = vec1 is m a s f)
    (h : s.seqReady { is with strm := .seq } = true) (hv : s.own.vsrc a = some (c, x)) (hreads : is.reads = [])
    (hf : f (s.setCore s.me c) s.me x = .done u) : exec i s = .next (u.seqEnds s.me m) := by
  have hsrc : (s.core s.me).vsrc a = some (c, x) := hv
  exact seq_ready hexec h hreads (by rw [hsrc]; exact hf)

/-- The element-wise effects end in `putElems`. -/
theorem vec2_putElems {f : State → Nat → V512 → V512 → Out} {w : Nat} {rs : List FRes}
    (hexec : exec i s = vec2 is m b a s f) (h : s.seqReady { is with strm := .seq } = true)
    (hv : s.own.vsrc2 a b = some (c, x, y)) (hreads : is.reads = [])
    (hf : f (s.setCore s.me c) s.me x y = vResults w (s.setCore s.me c) s.me d rs) :
    exec i s = .next (s.putElems c m d w rs) :=
  vec2_ready hexec h hv hreads (hf.trans (vResults_setCore ..))

theorem vec1_putElems {f : State → Nat → V512 → Out} {w : Nat} {rs : List FRes}
    (hexec : exec i s = vec1 is m a s f) (h : s.seqReady { is with strm := .seq } = true)
    (hv : s.own.vsrc a = some (c, x)) (hreads : is.reads = [])
    (hf : f (s.setCore s.me c) s.me x = vResults w (s.setCore s.me c) s.me d rs) :
    exec i s = .next (s.putElems c m d w rs) :=
  vec1_ready hexec h hv hreads (hf.trans (vResults_setCore ..))

end

end Sys2Proof.Machine
end

section
/-! Proofs: the rows of VINT and VFP by their shape, their values, and their encodings (R298 to R300). -/

namespace Sys2Proof.Machine

/-! ### Values -/

/-- A code of `w` bits as a signed number (R237). -/
theorem sintOf_of_lt {w x : Nat} (hx : x < 2 ^ w) :
    sintOf w x = if x < 2 ^ (w - 1) then (x : Int) else (x : Int) - 2 ^ w := by
  rw [sintOf, Nat.mod_eq_of_lt hx, ← ite_not]
  simp only [not_le, Nat.cast_pow, Nat.cast_ofNat]

theorem intCode_eq (w : Nat) (x : Int) : intCode w x = (x % 2 ^ w).toNat := by
  rw [intCode, Nat.cast_pow, Nat.cast_ofNat]

/-- A code is found from the signed number it stands for. -/
theorem sintOf_inj {w x y : Nat} (hx : x < 2 ^ w) (hy : y < 2 ^ w) (h : sintOf w x = sintOf w y) : x = y := by
  rw [sintOf_of_lt hx, sintOf_of_lt hy] at h
  have hx' : (x : Int) < 2 ^ w := by exact_mod_cast hx
  have hy' : (y : Int) < 2 ^ w := by exact_mod_cast hy
  split at h <;> split at h <;> omega

/-- A strict comparison chooses as the other does, where equal codes choose between equals. -/
theorem ite_sintOf_lt {w x y u v : Nat} (hx : x < 2 ^ w) (hy : y < 2 ^ w) (h : x = y → u = v) :
    (if sintOf w x < sintOf w y then u else v) = if sintOf w x ≤ sintOf w y then u else v := by
  by_cases heq : sintOf w x = sintOf w y
  · rw [if_neg heq.not_lt, if_pos heq.le, h (sintOf_inj hx hy heq)]
  · simp only [lt_iff_le_and_ne, ne_eq, heq, not_false_eq_true, and_true]

/-- SatW by its three ranges (R298). -/
theorem satW_eq (w : Nat) (x : Int) : satW w x =
    { code := ((if x < -2 ^ (w - 1) then -2 ^ (w - 1) else if 2 ^ (w - 1) ≤ x then 2 ^ (w - 1) - 1 else x) % 2 ^ w).toNat
      sat := decide (x < -2 ^ (w - 1) ∨ 2 ^ (w - 1) ≤ x) } := by
  simp only [satW, clampInt, intCode_eq, Int.sub_one_lt_iff]

/-! ### Shapes -/

section
variable {s : State} {i : Instr} {m : Bool} {a b d : R6} {z : BitVec 2} {p h : BitVec 1} {c : Core} {x y : V512}

/-- A row of VINT, on its elements (R298). -/
theorem vint_ready {f : Nat → Nat → Nat → FRes} {g : Nat → Nat → FRes} (hexec : exec i s = vint m b a d z f s)
    (hs : s.seqReady { strm := .seq } = true) (hv : s.own.vsrc2 a b = some (c, x, y))
    (hfg : ∀ u < 2 ^ (8 * 2 ^ z.toNat), ∀ v < 2 ^ (8 * 2 ^ z.toNat), f (8 * 2 ^ z.toNat) u v = g u v) :
    let w := 8 * 2 ^ z.toNat
    exec i s = .next (s.putElems c m d w ((elems w x).zipWith g (elems w y))) := by
  intro w
  rw [← zipWith_elems_congr hfg x y]
  exact vec2_putElems hexec hs hv rfl rfl

/-- A row of VFP or VFPH with two sources (R299). -/
theorem vf2_ready {f : Fmt → Nat → Nat → FRes} (hexec : exec i s = vf2 m p h b a d f s)
    (hs : s.seqReady { strm := .seq } = true) (hv : s.own.vsrc2 a b = some (c, x, y)) :
    let k := vprec p h
    exec i s = .next (s.putElems c m d k.width ((elems k.width x).zipWith (f k) (elems k.width y))) :=
  vec2_putElems hexec hs hv rfl rfl

/-- A row of VFP or VFPH with one source (R299). -/
theorem vf1_ready {f : Fmt → Nat → FRes} (hexec : exec i s = vf1 m p h a d f s)
    (hs : s.seqReady { strm := .seq } = true) (hv : s.own.vsrc a = some (c, x)) :
    let k := vprec p h
    exec i s = .next (s.putElems c m d k.width ((elems k.width x).map (f k))) :=
  vec1_putElems hexec hs hv rfl rfl

/-- VSEL chooses by the register vD (R298), which no channel entry taken changes. -/
theorem vsel_ready (hs : s.seqReady { strm := .seq } = true) (hv : s.own.vsrc2 a b = some (c, x, y)) :
    let w := 8 * 2 ^ z.toNat
    exec (.vsel m b a d z) s = .next ((s.setCore s.me (c.setV d (packVec w ((List.range (512 / w)).map fun i =>
      if (elems w (s.own.seq.vreg d.toNat)).getD i 0 ≠ 0 then (elems w x).getD i 0
      else (elems w y).getD i 0)))).seqEnds s.me m) := by
  intro w
  have hexec : exec (.vsel m b a d z) s = vec2 {} m b a s fun s l x y =>
      vWrite s l d (packVec w (((elems w ((s.core l).seq.vreg d.toNat)).zip ((elems w x).zip (elems w y))).map fun e =>
        if e.1 ≠ 0 then e.2.1 else e.2.2)) := rfl
  refine vec2_ready hexec hs hv rfl ?_
  simp only [vWrite, State.updCore, State.core_setCore_self, State.setCore_setCore, vsrc2_vreg hv, zip_zip_elems,
    List.map_map, Function.comp_def]

/-- VFMAC accumulates on the register vD (R299), which no channel entry taken changes. -/
theorem vfmac_ready (hs : s.seqReady { strm := .seq } = true) (hv : s.own.vsrc2 a b = some (c, x, y)) :
    let k := vprec p h
    let rs := (List.range (512 / k.width)).map fun i => fMac k false ((elems k.width (s.own.seq.vreg d.toNat)).getD i 0)
      ((elems k.width x).getD i 0) ((elems k.width y).getD i 0)
    exec (.vfmac m p b a d h) s = .next (s.putElems c m d k.width rs) := by
  intro k rs
  have hexec : exec (.vfmac m p b a d h) s = vec2 {} m b a s fun s l x y => vResults k.width s l d
      (map3 (fMac k false) (elems k.width ((s.core l).seq.vreg d.toNat)) (elems k.width x) (elems k.width y)) := rfl
  exact vec2_putElems hexec hs hv rfl (by rw [State.core_setCore_self, vsrc2_vreg hv, map3_elems])

/-- VCVT converts the low elements (R300). -/
theorem vcvt_ready (sc t r : BitVec 3) (hs : s.seqReady { strm := .seq } = true) (hv : s.own.vsrc a = some (c, x)) :
    let rs := ((elems (vcvtWidth sc) x).take (512 / max (vcvtWidth sc) (vcvtWidth t))).map (vcvtElem sc t (rmode r))
    exec (.vcvt m sc t r a d) s = .next (s.putElems c m d (vcvtWidth t) rs) := by
  have hexec : exec (.vcvt m sc t r a d) s = vec1 {} m a s fun s l x => vResults (vcvtWidth t) s l d
      (((elems (vcvtWidth sc) x).take (512 / max (vcvtWidth sc) (vcvtWidth t))).map (vcvtElem sc t (rmode r))) := rfl
  exact vec1_putElems hexec hs hv rfl rfl

/-- Element results as VFDIV and VFSQRT hold them to the park (R296). -/
def heldElems (d : R6) (w : Nat) (rs : List FRes) : Held :=
  { dest := .vec d.toNat, vals := rs.map fun r => BitVec.ofNat 64 r.code, ext := .elems w
    fflags := rs.foldl (fun a r => a ||| r.flags) 0#5, events := rs.flatMap fun r => flagEvents r.flags }

theorem vfdiv_ready (hs : s.seqReady { strm := .seq, long := true } = true)
    (hv : s.own.vsrc2 a b = some (c, x, y)) :
    let k := vprec p h
    exec (.vfdiv m p b a d h) s = .next (((s.setCore s.me c).holdVec s.me (heldElems d k.width
      ((elems k.width x).zipWith (fDiv k) (elems k.width y)))).seqEnds s.me m) := by
  intro k
  have hexec : exec (.vfdiv m p b a d h) s = vec2 { long := true } m b a s fun s l x y =>
      vHold k.width s l d ((elems k.width x).zipWith (fDiv k) (elems k.width y)) := rfl
  exact vec2_ready hexec hs hv rfl rfl

theorem vfsqrt_ready (hs : s.seqReady { strm := .seq, long := true } = true) (hv : s.own.vsrc a = some (c, x)) :
    let k := vprec p h
    exec (.vfsqrt m p a d h) s = .next (((s.setCore s.me c).holdVec s.me (heldElems d k.width
      ((elems k.width x).map (fSqrt k)))).seqEnds s.me m) := by
  intro k
  have hexec : exec (.vfsqrt m p a d h) s = vec1 { long := true } m a s fun s l x =>
      vHold k.width s l d ((elems k.width x).map (fSqrt k)) := rfl
  exact vec1_ready hexec hs hv rfl rfl

end

/-! ### Encodings -/

/-- The majors of VINT carry the element size (R298). -/
theorem decodeFields_vint (m : Bool) (f b a d : R6) (z : BitVec 2) :
    decodeFields ⟨m, f, b, a, d, 0x0E#5 ++ z⟩ = decodeMajor38 ⟨m, f, b, a, d, 0x0E#5 ++ z⟩ := by
  fin_cases z <;> rfl

/-- The majors of VFP and VFPH differ in their lowest bit (R299). -/
theorem decodeFields_vfp (m : Bool) (f b a d : R6) (h : BitVec 1) :
    decodeFields ⟨m, f, b, a, d, 0x1E#6 ++ h⟩ = decodeMajor3C ⟨m, f, b, a, d, 0x1E#6 ++ h⟩ := by
  fin_cases h <;> rfl

/-- The upper codes of VINT are reserved (R298). -/
theorem decodeMajor38_none {x : Fields} (hx : 0x14 ≤ x.f.toNat) : decodeMajor38 x = none := by
  simp [decodeMajor38, beq_code_eq_false hx]

/-- Where a word of VFP or VFPH has its precision and its row (R299). -/
theorem extractLsb'_vfp (p : BitVec 1) (n : BitVec 5) :
    (p ++ n).extractLsb' 5 1 = p ∧ (p ++ n).extractLsb' 0 5 = n :=
  ⟨BitVec.extractLsb'_append_eq_left, BitVec.extractLsb'_append_eq_right⟩

/-- The upper codes of VFP and VFPH are reserved (R299). -/
theorem decodeMajor3C_none {x : Fields} (hx : 16 ≤ (x.f.extractLsb' 0 5).toNat) : decodeMajor3C x = none := by
  have hne {c : BitVec 5} (hc : c.toNat < 16) : (x.f.extractLsb' 0 5 == c) = false := by
    rw [beq_eq_false_iff_ne]
    rintro rfl
    omega
  simp [decodeMajor3C, hne]

end Sys2Proof.Machine
end

section
/-! Proofs: the statements on the element-wise forms of the vector sequencer (chapter 13). -/

namespace Sys2Proof.Machine

/-- Settles O24: each row is the model's function on the elements, which are codes of their width; on such
codes the signed reading, the clamp and the masks are those of R298. -/
theorem vectorIntegerForms : Obligations.VectorIntegerForms := by
  unfold Obligations.VectorIntegerForms
  intro ret ones sat S
  have hS {w x : Nat} (hx : x < 2 ^ w) : sintOf w x = S w x := sintOf_of_lt hx
  have hcode (w : Nat) (x : Int) : plainRes (intCode w x) = ret (x % 2 ^ w).toNat := congrArg ret (intCode_eq w x)
  have hones {w : Nat} {p : Prop} [Decidable p] {q : Bool} (hq : q = true ↔ p) : plainRes (allOnes w q) = ones w p := by
    simp only [plainRes, allOnes, ones, hq]
  have hsat (w : Nat) (x : Int) : satW w x = sat w x := satW_eq w x
  refine ⟨?rows, ?select, ?encodings⟩
  case rows =>
    simp only [List.forall_mem_cons, List.not_mem_nil, false_implies, implies_true, and_true]
    exact ⟨fun _ _ _ _ _ _ _ _ _ h hv => vint_ready rfl h hv fun _ _ _ _ => rfl,
      fun _ _ _ _ _ _ _ _ _ h hv => vint_ready rfl h hv fun u _ v hv => by rw [vpure, Nat.add_sub_assoc hv.le]; rfl,
      fun _ _ _ _ _ _ _ _ _ h hv => vint_ready rfl h hv fun _ _ _ _ => rfl,
      fun _ _ _ _ _ _ _ _ _ h hv => vint_ready rfl h hv fun u hu v hv => by rw [vpure, hS hu, hS hv, hcode],
      fun _ _ _ _ _ _ _ _ _ h hv => vint_ready rfl h hv fun _ _ _ _ => rfl,
      fun _ _ _ _ _ _ _ _ _ h hv => vint_ready rfl h hv fun _ _ _ _ => rfl,
      fun _ _ _ _ _ _ _ _ _ h hv => vint_ready rfl h hv fun _ _ _ _ => rfl,
      fun _ _ _ _ _ _ _ _ _ h hv => vint_ready rfl h hv fun _ _ _ _ => rfl,
      fun _ _ _ _ _ _ _ _ _ h hv => vint_ready rfl h hv fun _ _ _ _ => rfl,
      fun _ _ _ _ _ _ _ _ _ h hv => vint_ready rfl h hv fun u hu _ _ => by rw [vpure, hS hu, hcode],
      fun _ _ _ _ _ _ _ _ _ h hv => vint_ready rfl h hv fun u hu v hv => by
        rw [vpure, ite_sintOf_lt hu hv id, hS hu, hS hv]; rfl,
      fun _ _ _ _ _ _ _ _ _ h hv => vint_ready rfl h hv fun u hu v hv => by
        rw [vpure, ite_sintOf_lt hu hv Eq.symm, hS hu, hS hv]; rfl,
      fun _ _ _ _ _ _ _ _ _ h hv => vint_ready rfl h hv fun _ _ _ _ => rfl,
      fun _ _ _ _ _ _ _ _ _ h hv => vint_ready rfl h hv fun _ _ _ _ => rfl,
      fun _ _ _ _ _ _ _ _ _ h hv => vint_ready (f := fun w x y => satW w (sintOf w x + sintOf w y)) rfl h hv
        fun u hu v hv => by rw [hS hu, hS hv, hsat],
      fun _ _ _ _ _ _ _ _ _ h hv => vint_ready (f := fun w x y => satW w (sintOf w x - sintOf w y)) rfl h hv
        fun u hu v hv => by rw [hS hu, hS hv, hsat],
      fun _ _ _ _ _ _ _ _ _ h hv => vint_ready rfl h hv fun _ _ _ _ => hones beq_iff_eq,
      fun _ _ _ _ _ _ _ _ _ h hv => vint_ready rfl h hv fun u hu v hv => hones (by rw [decide_eq_true_iff, hS hu, hS hv]),
      fun _ _ _ _ _ _ _ _ _ h hv => vint_ready rfl h hv fun _ _ _ _ => hones decide_eq_true_iff⟩
  case select => exact fun _ _ _ _ _ _ _ _ _ h hv => vsel_ready h hv
  case encodings =>
    intro m f b a d z
    refine ⟨fun hb ha hd p hp => ?_, fun hf => isIllegal_of_fields_none ?_⟩
    · have hwf : (vsrcOk b && vsrcOk a && vregOk d) = true := by rw [hb, ha, hd]; rfl
      have hsize : (0x0E#5 ++ z).extractLsb' 0 2 = z := BitVec.extractLsb'_append_eq_right
      fin_cases hp <;> exact decode_wordOf (by simp [decodeFields_vint, decodeMajor38, hsize]) hwf
    · rw [decodeFields_vint, decodeMajor38_none hf]

/-- Settles O25: a row of VFP is a row of the number layer on each element, by its shape:
one source, two sources, two and vD, or held to the park. -/
theorem vectorFloatForms : Obligations.VectorFloatForms := by
  unfold Obligations.VectorFloatForms
  intro fm put hold mask
  refine ⟨fun s m p h b a d c x y => ?_, fun m p h f b a d => ⟨fun ha hd => ?encodings, fun hf => ?reserved⟩⟩
  · intro k
    refine ⟨fun hs hv => ⟨?binary, ?fused⟩, ?divide, ?root, fun hs hv => ⟨?unary, ?convert⟩⟩
    case binary =>
      simp only [List.forall_mem_cons, List.not_mem_nil, false_implies, implies_true, and_true]
      exact ⟨vf2_ready rfl hs hv, vf2_ready rfl hs hv, vf2_ready rfl hs hv,
        vf2_ready (f := fun k => fMinMax k false) rfl hs hv, vf2_ready (f := fun k => fMinMax k true) rfl hs hv,
        vf2_ready (f := vcmp 0) rfl hs hv, vf2_ready (f := vcmp 1) rfl hs hv, vf2_ready (f := vcmp 2) rfl hs hv,
        vf2_ready rfl hs hv⟩
    case unary =>
      simp only [List.forall_mem_cons, List.not_mem_nil, false_implies, implies_true, and_true]
      exact ⟨vf1_ready (f := fun k x => plainRes (fNeg k x)) rfl hs hv,
        vf1_ready (f := fun k x => plainRes (fAbs k x)) rfl hs hv,
        vf1_ready (f := fun k x => fRint k .rne x) rfl hs hv, vf1_ready (f := fExp2) rfl hs hv⟩
    case fused => exact vfmac_ready hs hv
    case divide => exact vfdiv_ready
    case root => exact vfsqrt_ready
    case convert => exact fun sc t r => vcvt_ready sc t r hs hv
  case encodings =>
    have hhalf : (0x1E#6 ++ h).extractLsb' 0 1 = h := BitVec.extractLsb'_append_eq_right
    refine ⟨fun hb q hq => ?_, fun q hq => ?_⟩
    · have hwf : (vsrcOk b && vsrcOk a && vregOk d) = true := by rw [hb, ha, hd]; rfl
      fin_cases hq <;>
        exact decode_wordOf (by simp [decodeFields_vfp, decodeMajor3C, extractLsb'_vfp, hhalf]) hwf
    · have hwf : (vsrcOk a && vregOk d) = true := by rw [ha, hd]; rfl
      fin_cases hq <;>
        exact ⟨decode_wordOf (by simp [decodeFields_vfp, decodeMajor3C, extractLsb'_vfp, hhalf]) hwf,
          fun hb => isIllegal_of_fields_none (by simp [decodeFields_vfp, decodeMajor3C, extractLsb'_vfp, hb])⟩
  case reserved =>
    refine isIllegal_of_fields_none ?_
    rw [decodeFields_vfp, decodeMajor3C_none]
    rwa [(extractLsb'_vfp p f).2]

end Sys2Proof.Machine
end
